-- ==== Sys2Proof/Word.lean ====
section
/-! DEFINITION. The words the machine works on. -/

namespace Sys2Proof

/-- A byte. -/
abbrev Byte := BitVec 8
/-- An instruction halfword (R198). -/
abbrev Half := BitVec 16
/-- A vector register's element. -/
abbrev Word := BitVec 32
/-- A scalar register, an address. -/
abbrev DWord := BitVec 64
/-- A set of the 32 lanes of a group. -/
abbrev Lanes := BitVec 32

end Sys2Proof
end

