-- ==== Sys2Proof/Config.lean ====
section
/-! DEFINITION. What the spec leaves to the device: values no rule states. Each is opaque, so nothing proved of the
model can rest on one. -/

namespace Sys2Proof.Config

/-- The n-th undefined value (R33: a register an instruction or a reform leaves undefined). Log entry 4. (DESIGN CHOICE, log entry 4) -/
opaque freeValue : Nat → BitVec 64

/-- The result of `vfunary` code `c` on `x` where the spec bounds its error and states no value (R254). Log entry 5. (DESIGN CHOICE, log entry 5) -/
opaque approx (c : Nat) (x : BitVec 32) : BitVec 32

/-- Bytes of a unit as another agent than its owner reads them: the ciphertext of R365 under key generation
`lock` of `owner`. Log entry 6. (DESIGN CHOICE, log entry 6) -/
opaque cipher (owner : Nat) (lock : BitVec 64) (unit : Nat) (plain : BitVec 512) : BitVec 512

/-- Byte `i` of a measurement, identity or message that other specifications define (R364, R365). Log entry 7. (DESIGN CHOICE, log entry 7) -/
opaque external (what i : Nat) : BitVec 8

end Sys2Proof.Config
end

