-- ==== Sys2Proof/Machine/Flags.lean ====
section
/-! DEFINITION. Floating-point arithmetic, exact and rounded once (R186 to R190), and the flags each operation sets. -/

namespace Sys2Proof.Machine

/-- A format: exponent and fraction bits (R186). -/
structure Fmt where
  exp : Nat
  frac : Nat
deriving DecidableEq, Repr, Inhabited

def fp16 : Fmt := ⟨5, 10⟩
def bf16 : Fmt := ⟨8, 7⟩
def fp32 : Fmt := ⟨8, 23⟩
def fp64 : Fmt := ⟨11, 52⟩

/-- The exponent bias. -/
def Fmt.bias (F : Fmt) : Nat := 2 ^ (F.exp - 1) - 1
/-- Weight of a subnormal's lowest bit. -/
def Fmt.low (F : Fmt) : Int := 1 - F.bias - F.frac
/-- The sign bit, +∞, the largest finite value and the canonical NaN. -/
def Fmt.sign (F : Fmt) : Nat := 2 ^ (F.exp + F.frac)
def Fmt.inf (F : Fmt) : Nat := (2 ^ F.exp - 1) * 2 ^ F.frac
def Fmt.nan (F : Fmt) : Nat := F.inf + 2 ^ (F.frac - 1)

/-- The flags of R190. -/
def fInvalid : BitVec 5 := 1
def fDivzero : BitVec 5 := 2
def fOverflow : BitVec 5 := 4
def fUnderflow : BitVec 5 := 8
def fInexact : BitVec 5 := 16

/-- A value: a NaN (signalling or not), an infinity, or (−1)^neg × m × 2^e. -/
inductive Fp where
  | nan (signalling : Bool)
  | inf (neg : Bool)
  | fin (neg : Bool) (m : Nat) (e : Int)
deriving DecidableEq, Repr, Inhabited

/-- A result's bits and its flags. -/
structure FpRes where
  bits : Nat
  flags : BitVec 5
deriving DecidableEq, Repr, Inhabited

/-- The value of some bits. -/
def Fp.of (F : Fmt) (x : Nat) : Fp :=
  let f := x % 2 ^ F.frac
  let e := x / 2 ^ F.frac % 2 ^ F.exp
  let s := x / F.sign % 2 == 1
  if e = 2 ^ F.exp - 1 then (if f = 0 then .inf s else .nan (f < 2 ^ (F.frac - 1)))
  else if e = 0 then .fin s f F.low
  else .fin s (2 ^ F.frac + f) (F.low + (e - 1 : Nat))

def Fp.isNan : Fp → Bool
  | .nan _ => true
  | _ => false

def Fp.isSnan : Fp → Bool
  | .nan s => s
  | _ => false

def Fp.neg : Fp → Bool
  | .nan _ => false
  | .inf s => s
  | .fin s _ _ => s

def Fp.isZero : Fp → Bool
  | .fin _ m _ => m == 0
  | _ => false

/-- Invalid for a signalling operand. -/
def snanFlag (xs : List Fp) : BitVec 5 := if xs.any Fp.isSnan then fInvalid else 0

/-- The canonical NaN (R187). -/
def nanRes (F : Fmt) (flags : BitVec 5) : FpRes := ⟨F.nan, flags⟩
def signed (F : Fmt) (neg : Bool) (bits : Nat) : Nat := bits + (if neg then F.sign else 0)

/-- Rounding away from zero, by mode 0 RNE, 1 RZ, 2 RD, 3 RU, 4 RNA (R189). -/
def bump (rm : Nat) (neg odd : Bool) (rem half : Nat) (sticky : Bool) : Bool :=
  match rm with
  | 0 => half < rem || (rem == half && (sticky || odd))
  | 1 => false
  | 2 => neg && (rem != 0 || sticky)
  | 3 => !neg && (rem != 0 || sticky)
  | _ => half ≤ rem

/-- m × 2^e (with a nonzero tail below where `sticky`) in units of 2^q: the rounded count and whether it is inexact. -/
def quantize (rm : Nat) (neg : Bool) (m : Nat) (e q : Int) (sticky : Bool) : Nat × Bool :=
  if q ≤ e then (m * 2 ^ (e - q).toNat, sticky)
  else
    let d := 2 ^ (q - e).toNat
    let n := m / d
    let r := m % d
    (if bump rm neg (n % 2 == 1) r (d / 2) sticky then n + 1 else n, r != 0 || sticky)

/-- Rounds a nonzero magnitude m × 2^e once, with the flags of R190 (tininess after rounding). -/
def roundTo (F : Fmt) (rm : Nat) (neg : Bool) (m : Nat) (e : Int) (sticky : Bool) : FpRes :=
  let p : Int := F.frac + 1
  let q0 := e + (Nat.log2 m + 1 : Nat) - p
  let q := max q0 F.low
  let (n, inexact) := quantize rm neg m e q sticky
  let bits := (q - F.low).toNat * 2 ^ F.frac + n
  if F.inf ≤ bits then
    let toInf := match rm with | 1 => false | 2 => neg | 3 => !neg | _ => true
    ⟨signed F neg (if toInf then F.inf else F.inf - 1), fOverflow ||| fInexact⟩
  else
    let tiny := q0 < F.low && (quantize rm neg m e q0 sticky).1 < 2 ^ (F.frac + (F.low - q0).toNat)
    ⟨signed F neg bits, (if inexact then fInexact else 0) ||| (if inexact && tiny then fUnderflow else 0)⟩

/-- Rounds an exact signed integer multiple of 2^e; an exact zero takes the sign given. -/
def roundInt (F : Fmt) (rm : Nat) (x e : Int) (zeroNeg : Bool) : FpRes :=
  if x = 0 then ⟨signed F zeroNeg 0, 0⟩ else roundTo F rm (x < 0) x.natAbs e false

/-! Sums and products, exact before one rounding. -/

/-- The least exponent among finite terms. -/
def lowExp : List Fp → Int
  | [] => 0
  | [.fin _ _ e] => e
  | .fin _ _ e :: t => min e (lowExp t)
  | _ :: t => lowExp t

/-- A finite term in units of 2^e. -/
def termAt (e : Int) : Fp → Int
  | .fin s m f => (if s then -1 else 1) * (m : Int) * 2 ^ (f - e).toNat
  | _ => 0

/-- The exact sum of some terms, rounded once: special values and the sign of an exact zero as R187 and R250 say. -/
def sumFp (F : Fmt) (rm : Nat) (ts : List Fp) : FpRes :=
  if ts.any Fp.isNan then nanRes F (snanFlag ts)
  else
    let plus := ts.contains (.inf false)
    let minus := ts.contains (.inf true)
    if plus && minus then nanRes F fInvalid
    else if plus || minus then ⟨signed F minus F.inf, 0⟩
    else
      let e := lowExp ts
      let x := (ts.map (termAt e)).sum
      roundInt F rm x e (if ts.all (fun t => t.isZero && t.neg) then true
        else if ts.all (fun t => t.isZero && !t.neg) then false else rm == 2)

/-- The exact product, and whether the operation is invalid (0 × ∞). -/
def mulFp (a b : Fp) : Fp × Bool :=
  match a, b with
  | .nan _, _ => (.nan false, false)
  | _, .nan _ => (.nan false, false)
  | .inf s, .inf t => (.inf (s != t), false)
  | .inf s, .fin t m _ => if m = 0 then (.nan false, true) else (.inf (s != t), false)
  | .fin s m _, .inf t => if m = 0 then (.nan false, true) else (.inf (s != t), false)
  | .fin s m e, .fin t n f => (.fin (s != t) (m * n) (e + f), false)

def fAdd (F : Fmt) (rm a b : Nat) : FpRes := sumFp F rm [.of F a, .of F b]
/-- The other sign of some bits. -/
def flipSign (F : Fmt) (x : Nat) : Nat := if x / F.sign % 2 = 1 then x - F.sign else x + F.sign
def fSub (F : Fmt) (rm a b : Nat) : FpRes := fAdd F rm a (flipSign F b)

def fMul (F : Fmt) (rm a b : Nat) : FpRes :=
  let x := Fp.of F a
  let y := Fp.of F b
  let (p, bad) := mulFp x y
  match p with
  | .nan _ => nanRes F (snanFlag [x, y] ||| (if bad then fInvalid else 0))
  | .inf s => ⟨signed F s F.inf, 0⟩
  | .fin s m e => if m = 0 then ⟨signed F s 0, 0⟩ else roundTo F rm s m e false

/-- a + b × c with one rounding (R250, R251), and its form with more products. -/
def fFmaSum (F : Fmt) (rm : Nat) (acc : Fp) (ps : List (Fp × Fp)) : FpRes :=
  let prods := ps.map (fun p => mulFp p.1 p.2)
  let sn := snanFlag (acc :: ps.flatMap (fun p => [p.1, p.2]))
  if prods.any (fun p => p.2) then nanRes F (sn ||| fInvalid)
  else
    let r := sumFp F rm (acc :: prods.map (fun p => p.1))
    ⟨r.bits, r.flags ||| sn⟩

def fFma (F : Fmt) (rm a b c : Nat) : FpRes := fFmaSum F rm (.of F a) [(.of F b, .of F c)]

/-! Division and square root, correctly rounded (R253 to R255). -/

def fDiv (F : Fmt) (rm a b : Nat) : FpRes :=
  let x := Fp.of F a
  let y := Fp.of F b
  match x, y with
  | .nan _, _ => nanRes F (snanFlag [x, y])
  | _, .nan _ => nanRes F (snanFlag [x, y])
  | .inf _, .inf _ => nanRes F fInvalid
  | .inf s, .fin t _ _ => ⟨signed F (s != t) F.inf, 0⟩
  | .fin s _ _, .inf t => ⟨signed F (s != t) 0, 0⟩
  | .fin s m e, .fin t n f =>
    if n = 0 then (if m = 0 then nanRes F fInvalid else ⟨signed F (s != t) F.inf, fDivzero⟩)
    else if m = 0 then ⟨signed F (s != t) 0, 0⟩
    else
      let k := F.frac + 4 + Nat.log2 n + 1
      roundTo F rm (s != t) (m * 2 ^ k / n) (e - f - k) (m * 2 ^ k % n != 0)

/-- The integer square root, bit `k` down. -/
def isqrt : Nat → Nat → Nat → Nat
  | 0, _, r => r
  | k + 1, n, r => isqrt k n (if (r + 2 ^ k) * (r + 2 ^ k) ≤ n then r + 2 ^ k else r)

def fSqrt (F : Fmt) (rm a : Nat) : FpRes :=
  let x := Fp.of F a
  match x with
  | .nan _ => nanRes F (snanFlag [x])
  | .inf s => if s then nanRes F fInvalid else ⟨F.inf, 0⟩
  | .fin s m e =>
    if m = 0 then ⟨a, 0⟩
    else if s then nanRes F fInvalid
    else
      let odd := e % 2 = 1
      let m := if odd then 2 * m else m
      let e := if odd then e - 1 else e
      let k := F.frac + 4
      let n := m * 2 ^ (2 * k)
      let r := isqrt (Nat.log2 n / 2 + 1) n 0
      roundTo F rm false r (e / 2 - k) (r * r != n)

/-! Comparison, minimum and maximum. -/

/-- x < y for values that are no NaN. -/
def ltFp (x y : Fp) : Bool :=
  match x, y with
  | .nan _, _ => false
  | _, .nan _ => false
  | .inf s, .inf t => s && !t
  | .inf s, _ => s
  | _, .inf t => !t
  | .fin _ _ _, .fin _ _ _ => let e := lowExp [x, y]; termAt e x < termAt e y

/-- minimumNumber, and maximumNumber with `top` (R187). -/
def fMinMax (F : Fmt) (top : Bool) (a b : Nat) : FpRes :=
  let x := Fp.of F a
  let y := Fp.of F b
  let fl := snanFlag [x, y]
  if x.isNan && y.isNan then ⟨F.nan, fl⟩
  else if x.isNan then ⟨b, fl⟩
  else if y.isNan then ⟨a, fl⟩
  else if ltFp x y then ⟨if top then b else a, fl⟩
  else if ltFp y x then ⟨if top then a else b, fl⟩
  else ⟨if x.neg != top then a else b, fl⟩

/-- The compares of R252: the answer and the flags. -/
def fCompare (F : Fmt) (cond a b : Nat) : Bool × BitVec 5 :=
  let x := Fp.of F a
  let y := Fp.of F b
  let un := x.isNan || y.isNan
  let lt := !un && ltFp x y
  let gt := !un && ltFp y x
  let sn := snanFlag [x, y]
  let any := if un then fInvalid else 0
  match cond with
  | 0 => (!un && !lt && !gt, sn)
  | 1 => (un || lt || gt, sn)
  | 2 => (lt, any)
  | 3 => (!un && !gt, any)
  | 4 => (gt, any)
  | 5 => (!un && !lt, any)
  | 6 => (un, sn)
  | _ => (!un, sn)

/-! Conversions (R188, R256, R257). -/

/-- Between floating-point formats. -/
def fConvert (F G : Fmt) (rm a : Nat) : FpRes :=
  let x := Fp.of F a
  match x with
  | .nan _ => nanRes G (snanFlag [x])
  | .inf s => ⟨signed G s G.inf, 0⟩
  | .fin s m e => if m = 0 then ⟨signed G s 0, 0⟩ else roundTo G rm s m e false

/-- To an integer in [lo, hi], saturating. -/
def fToInt (F : Fmt) (rm : Nat) (lo hi : Int) (a : Nat) : Int × BitVec 5 :=
  match Fp.of F a with
  | .nan _ => (0, fInvalid)
  | .inf s => (if s then lo else hi, fInvalid)
  | .fin s m e =>
    let (n, inexact) := quantize rm s m e 0 false
    let v : Int := if s then -(n : Int) else n
    if v < lo then (lo, fInvalid)
    else if hi < v then (hi, fInvalid)
    else (v, if inexact then fInexact else 0)

/-- From an integer. -/
def fOfInt (F : Fmt) (rm : Nat) (x : Int) : FpRes := roundInt F rm x 0 false

/-- To an integral value of the same format (codes 0x15, 0x16). -/
def fRint (F : Fmt) (rm a : Nat) : FpRes :=
  let x := Fp.of F a
  match x with
  | .nan _ => nanRes F (snanFlag [x])
  | .inf _ => ⟨a, 0⟩
  | .fin s m e =>
    if 0 ≤ e then ⟨a, 0⟩
    else
      let n := (quantize rm s m e 0 false).1
      if n = 0 then ⟨signed F s 0, 0⟩ else ⟨(roundTo F rm s n 0 false).bits, 0⟩

/-! The functions with stated bounds (R253, R254): the special points, and elsewhere the device's own value. -/

/-- 1.0 in FP32. -/
def one32 : Nat := 0x3F800000

/-- Fixed point with 256 fractional bits, in which the exact values are known far beyond the bounds: 1, π/2 and ln 2. -/
def fixOne : Int := 2 ^ 256
def fixHalfPi : Int := 181885788445883162140117471388864931326696688664196214979386075558969447233092
def fixLn2 : Int := 80260960185991308862233904206310070533990667611589946606122867505419956976171

def toFix (m : Nat) (e : Int) : Int := if -256 ≤ e then m * 2 ^ (e + 256).toNat else m / 2 ^ (-256 - e).toNat

/-- Terms of e^r from the k-th on: the n next ones. -/
def expTerms (r : Int) : Nat → Int → Int → Int
  | 0, _, _ => 0
  | n + 1, t, k => t + expTerms r n (t * r / fixOne / (k + 1)) (k + 1)

/-- e^y of a number that is not positive. -/
def fixExpNeg (y : Int) : Int :=
  let n := -y / fixLn2
  expTerms (y + n * fixLn2) 80 fixOne 0 / 2 ^ (min 600 n.toNat)

/-- Terms of sin r or cos r from the k-th power on, with r² = r2. -/
def trigTerms (r2 : Int) : Nat → Int → Int → Int
  | 0, _, _ => 0
  | n + 1, t, k => t + trigTerms r2 n (-(t * r2 / fixOne) / ((k + 1) * (k + 2))) (k + 2)

/-- sin of x + q · π/2. -/
def fixSin (x : Int) (q : Int) : Int :=
  let n := (x + fixHalfPi / 2) / fixHalfPi
  let r := x - n * fixHalfPi
  let r2 := r * r / fixOne
  match ((n + q) % 4).toNat with
  | 0 => trigTerms r2 40 r 1
  | 1 => trigTerms r2 40 fixOne 0
  | 2 => -trigTerms r2 40 r 1
  | _ => -trigTerms r2 40 fixOne 0

/-- Terms of artanh z from the k-th power p on, with z² = z2. -/
def artanhTerms (z2 : Int) : Nat → Int → Int → Int
  | 0, _, _ => 0
  | n + 1, p, k => p / k + artanhTerms z2 n (p * z2 / fixOne) (k + 2)

/-- ln of a number between 1 and 2. -/
def fixLn (y : Int) : Int :=
  let z := (y - fixOne) * fixOne / (y + fixOne)
  2 * artanhTerms (z * z / fixOne) 90 z 1

/-- The exact value of codes 4 to 9 at (−1)^s · m · 2^e (R253). (DESIGN CHOICE, log entry 5) -/
def fixValue (f : Nat) (s : Bool) (m : Nat) (e : Int) : Int :=
  let x := if s then -toFix m e else toFix m e
  match f with
  | 4 => let n := (2 ^ 768 / toFix m e).toNat; isqrt (Nat.log2 n / 2 + 1) n 0
  | 5 =>
    let n := x / fixOne
    let y := expTerms ((x - n * fixOne) * fixLn2 / fixOne) 80 fixOne 0
    if 0 ≤ n then y * 2 ^ (min 600 n.toNat) else y / 2 ^ (min 600 (-n).toNat)
  | 6 =>
    let k := Nat.log2 m
    (e + k) * fixOne + fixLn (toFix m (-k)) * fixOne / fixLn2
  | 7 => fixSin x 0
  | 8 => fixSin x 1
  | _ =>
    let u := fixExpNeg (-2 * toFix m e)
    let t := (fixOne - u) * fixOne / (fixOne + u)
    if s then -t else t

/-- An ulp of FP32 at a value. -/
def fixUlp (v : Int) : Int := 2 ^ (max ((Nat.log2 v.natAbs : Nat) : Int) 130 - 23).toNat

/-- The device's value, where the spec bounds it: one within the bound stands; for another, one that the bound allows. (DESIGN CHOICE, log entry 5) -/
def boundedBits (f a r : Nat) : Nat :=
  match Fp.of fp32 a with
  | .fin s m e =>
    if (f = 7 ∨ f = 8) ∧ 2 ^ 20 * fixOne < toFix m e then
      if r % 2 ^ 31 ≤ one32 then r else r / 2 ^ 31 * 2 ^ 31 + r % 2 ^ 31 % (one32 + 1)
    else
      let v := fixValue f s m e
      let out := match Fp.of fp32 r with
        | .fin t n k => decide ((if f = 4 then 1 else 2) * fixUlp v < ((if t then -toFix n k else toFix n k) - v).natAbs)
        | _ => true
      if out then (if v = 0 then 0 else (roundTo fp32 0 (v < 0) v.natAbs (-256) true).bits) else r
  | _ => r

/-- The device's value within its bound, with the flags of an inexact result; underflow where the result itself is tiny. (DESIGN CHOICE, log entry 5; DEDUCED, log entry 110) -/
def approxRes (f a : Nat) : FpRes :=
  let r := boundedBits f a (Config.approx f (BitVec.ofNat 32 a)).toNat
  ⟨r, fInexact ||| (if r / 2 ^ 23 % 256 = 0 then fUnderflow else 0)⟩

/-- The exponent of a power of two. -/
def exponentOf (m : Nat) (e : Int) : Option Int := if m = 2 ^ Nat.log2 m then some (e + Nat.log2 m) else none

/-- Codes 4 to 9 on FP32. (DESIGN CHOICE, log entry 5) -/
def fSpecial (f a : Nat) : FpRes :=
  let x := Fp.of fp32 a
  match x with
  | .nan _ => nanRes fp32 (snanFlag [x])
  | .inf s =>
    match f with
    | 4 => if s then nanRes fp32 fInvalid else ⟨0, 0⟩
    | 5 => if s then ⟨0, 0⟩ else ⟨fp32.inf, 0⟩
    | 6 => if s then nanRes fp32 fInvalid else ⟨fp32.inf, 0⟩
    | 9 => ⟨signed fp32 s one32, 0⟩
    | _ => nanRes fp32 fInvalid
  | .fin s m e =>
    match f with
    | 4 =>
      if m = 0 then ⟨signed fp32 s fp32.inf, fDivzero⟩
      else if s then nanRes fp32 fInvalid
      else match exponentOf m e with
        | some k => if k % 2 = 0 then roundTo fp32 0 false 1 (-(k / 2)) false else approxRes f a
        | none => approxRes f a
    | 5 =>
      let (n, inexact) := quantize 1 s m e 0 false
      let v : Int := if s then -(n : Int) else n
      if !inexact && -149 ≤ v && v ≤ 127 then roundTo fp32 0 false 1 v false
      else if !s && 128 ≤ n then ⟨fp32.inf, fOverflow ||| fInexact⟩
      else approxRes f a
    | 6 =>
      if m = 0 then ⟨signed fp32 true fp32.inf, fDivzero⟩
      else if s then nanRes fp32 fInvalid
      else match exponentOf m e with
        | some k => roundInt fp32 0 k 0 false
        | none => approxRes f a
    | 7 => if m = 0 then ⟨a, 0⟩ else approxRes f a
    | 8 => if m = 0 then ⟨one32, 0⟩ else approxRes f a
    | _ => if m = 0 then ⟨a, 0⟩ else approxRes f a

/-- `vfunary` on bits (R253): 32-bit codes 0 to 9, 64-bit codes 10 to 12. (DESIGN CHOICE, log entry 5; DEDUCED, log entry 110) -/
def fUnary (f rm a : Nat) : FpRes :=
  match f with
  | 0 => ⟨a % 2 ^ 31, 0⟩
  | 1 => ⟨flipSign fp32 a, 0⟩
  | 2 => fSqrt fp32 rm a
  | 3 => let x := Fp.of fp32 a
    if x.isZero then ⟨signed fp32 x.neg fp32.inf, fDivzero⟩ else fDiv fp32 rm one32 a
  | 10 => ⟨a % 2 ^ 63, 0⟩
  | 11 => ⟨flipSign fp64 a, 0⟩
  | 12 => fSqrt fp64 rm a
  | _ => fSpecial f a

/-! `vcvt` (R256). -/

/-- The mode of a conversion: the override of the prefix, or the table's (R188). -/
def cvtMode (ov dflt : Nat) : Nat := if 1 ≤ ov ∧ ov ≤ 5 then ov - 1 else dflt

/-- Result bits of a signed or unsigned integer. -/
def intBits (n : Nat) (r : Int × BitVec 5) : FpRes := ⟨(r.1 % (2 ^ n : Int)).toNat, r.2⟩

/-- Bit pattern as a signed integer. -/
def asInt (n x : Nat) : Int := if x % 2 ^ n < 2 ^ (n - 1) then (x % 2 ^ n : Nat) else (x % 2 ^ n : Nat) - (2 ^ n : Int)

def fCvt (f ov rm x : Nat) : FpRes :=
  let r := cvtMode ov rm
  let z := cvtMode ov 1
  let lo := x % 2 ^ 16
  let hi := x / 2 ^ 16 % 2 ^ 16
  let w : Nat := x % 2 ^ 32
  match f with
  | 0x00 => fOfInt fp32 r (asInt 32 x)
  | 0x01 => fOfInt fp32 r w
  | 0x02 => intBits 32 (fToInt fp32 z (-(2 ^ 31)) (2 ^ 31 - 1) w)
  | 0x03 => intBits 32 (fToInt fp32 z 0 (2 ^ 32 - 1) w)
  | 0x04 => fConvert fp32 fp64 r w
  | 0x05 => fConvert fp64 fp32 r x
  | 0x06 => fOfInt fp64 r (asInt 32 x)
  | 0x07 => intBits 32 (fToInt fp64 z (-(2 ^ 31)) (2 ^ 31 - 1) x)
  | 0x08 => fConvert fp32 fp16 r w
  | 0x09 => fConvert fp16 fp32 r lo
  | 0x0A => fConvert fp32 bf16 r w
  | 0x0B => fConvert bf16 fp32 r lo
  | 0x0C => fConvert fp16 fp32 r hi
  | 0x0D => fConvert bf16 fp32 r hi
  | 0x0E => fOfInt fp32 r (asInt 8 x)
  | 0x0F => fOfInt fp32 r (asInt 8 (x / 2 ^ 8))
  | 0x10 => fOfInt fp32 r (asInt 8 (x / 2 ^ 16))
  | 0x11 => fOfInt fp32 r (asInt 8 (x / 2 ^ 24))
  | 0x12 => intBits 64 (fToInt fp64 z (-(2 ^ 63)) (2 ^ 63 - 1) x)
  | 0x13 => fOfInt fp64 r (asInt 64 x)
  | 0x14 => intBits 32 (max (-128) (min 127 (asInt 32 x)), 0)
  | 0x15 => fRint fp32 r w
  | _ => fRint fp64 r x

end Sys2Proof.Machine
end

