-- ==== Sys2Proof/Syntax.lean ====
section
/-! DEFINITION. The instruction set and the device's steps: one constructor for each row of the opcode table (R199 to
R209 for the encoded rows; the event rows are the steps that the chapters describe and that no word encodes; the steps that come from outside the package stand last). -/

namespace Sys2Proof

/-- The header fields of a 32-bit word (R198): guard, reuse bit, stall count. -/
structure Hdr where
  g : BitVec 3
  y : BitVec 1
  s : BitVec 2
deriving DecidableEq, Repr, Inhabited

/-- One constructor for each row. Encoded rows carry the fields of their word; event rows the identities of what they act on. -/
inductive Instr where
  /-- R205: Extension prefix that widens register fields and immediates or supplies memory modifiers for the following 32-bit instruction. -/
  | xp (x : BitVec 12) (k : BitVec 2) (j : BitVec 2) (h : BitVec 2)
  /-- R218: Relative branch, uniform when G=7 or per-thread guarded with predictor lookup and fragment split. -/
  | bra (h : Hdr) (i : BitVec 18)
  /-- R220: Indexed branch of each thread to code base plus its vA offset. -/
  | brx (h : Hdr) (a : BitVec 6)
  /-- R221: Writes the return offset into v63 and branches each guarded thread to the target. -/
  | call (h : Hdr) (i : BitVec 18)
  /-- R222: Continues each guarded thread at code base plus its v63. -/
  | ret (h : Hdr)
  /-- R223: Pushes a reconvergence entry for the fragment's guarded threads. -/
  | rcv (h : Hdr) (i : BitVec 18)
  /-- R224: Takes the leaving threads out of their top n reconvergence entries and jumps them to the target. -/
  | brk (h : Hdr) (i : BitVec 12) (n : BitVec 4)
  /-- R225: Ends the guarded threads, removing them from their group and reconvergence entries. -/
  | exit (h : Hdr)
  /-- R226: Files the fragment's guarded threads with n vector registers into the saggar keyed by stage and next PC. -/
  | reform (h : Hdr) (a : BitVec 6)
  /-- R227: Counted hardware loop that runs a body of len halfwords from the loop buffer until the counter reaches 0. -/
  | loop (h : Hdr) (i : BitVec 12) (a : BitVec 6)
  /-- R230: Raises the recoverable SOFTWARE trap with the given code. -/
  | trap (h : Hdr) (i : BitVec 12)
  /-- R232: Scalar add modulo 2^64. -/
  | sadd (h : Hdr) (c : BitVec 6) (b : BitVec 6) (a : BitVec 6)
  /-- R232: Scalar subtract modulo 2^64. -/
  | ssub (h : Hdr) (c : BitVec 6) (b : BitVec 6) (a : BitVec 6)
  /-- R232: Scalar multiply, low 64 bits. -/
  | smul (h : Hdr) (c : BitVec 6) (b : BitVec 6) (a : BitVec 6)
  /-- R232: Scalar signed multiply, high 64 bits. -/
  | smulhI (h : Hdr) (c : BitVec 6) (b : BitVec 6) (a : BitVec 6)
  /-- R232: Scalar unsigned multiply, high 64 bits. -/
  | smulhN (h : Hdr) (c : BitVec 6) (b : BitVec 6) (a : BitVec 6)
  /-- R233: Scalar unsigned divide, result written at turn n+9, all ones for a zero divisor. -/
  | sdivN (h : Hdr) (c : BitVec 6) (b : BitVec 6) (a : BitVec 6)
  /-- R233: Scalar unsigned remainder, result written at turn n+9, all ones for a zero divisor. -/
  | sremN (h : Hdr) (c : BitVec 6) (b : BitVec 6) (a : BitVec 6)
  /-- R232: Scalar bitwise and. -/
  | sand (h : Hdr) (c : BitVec 6) (b : BitVec 6) (a : BitVec 6)
  /-- R232: Scalar bitwise or. -/
  | sor (h : Hdr) (c : BitVec 6) (b : BitVec 6) (a : BitVec 6)
  /-- R232: Scalar bitwise xor. -/
  | sxor (h : Hdr) (c : BitVec 6) (b : BitVec 6) (a : BitVec 6)
  /-- R232: Scalar shift left by register. -/
  | sshl (h : Hdr) (c : BitVec 6) (b : BitVec 6) (a : BitVec 6)
  /-- R232: Scalar logical shift right by register. -/
  | sshr (h : Hdr) (c : BitVec 6) (b : BitVec 6) (a : BitVec 6)
  /-- R232: Scalar arithmetic shift right by register. -/
  | ssra (h : Hdr) (c : BitVec 6) (b : BitVec 6) (a : BitVec 6)
  /-- R232: Scalar signed minimum. -/
  | sminI (h : Hdr) (c : BitVec 6) (b : BitVec 6) (a : BitVec 6)
  /-- R232: Scalar signed maximum. -/
  | smaxI (h : Hdr) (c : BitVec 6) (b : BitVec 6) (a : BitVec 6)
  /-- R232: Scalar unsigned minimum. -/
  | sminN (h : Hdr) (c : BitVec 6) (b : BitVec 6) (a : BitVec 6)
  /-- R232: Scalar unsigned maximum. -/
  | smaxN (h : Hdr) (c : BitVec 6) (b : BitVec 6) (a : BitVec 6)
  /-- R235: Scalar add of a sign-extended immediate. -/
  | saddi (h : Hdr) (f : BitVec 6) (b : BitVec 6) (a : BitVec 6)
  /-- R237: Scalar move of a sign-extended immediate. -/
  | smovi (h : Hdr) (i : BitVec 12) (a : BitVec 6)
  /-- R237: Shifts a scalar left and inserts an immediate in its low bits. -/
  | sins (h : Hdr) (i : BitVec 12) (a : BitVec 6)
  /-- R234: Scalar compare writing a condition register. -/
  | scmp (h : Hdr) (c : BitVec 6) (b : BitVec 6) (n : BitVec 3) (k : BitVec 3)
  /-- R236: Scalar register move. -/
  | smov (h : Hdr) (b : BitVec 6) (a : BitVec 6)
  /-- R236: Scalar unary bit operation selected by F. -/
  | sunary (h : Hdr) (f : BitVec 6) (b : BitVec 6) (a : BitVec 6)
  /-- R238: Reads a special register into a scalar register. -/
  | srd (h : Hdr) (i : BitVec 12) (a : BitVec 6)
  /-- R238: Writes a special register from a scalar register, effective the next turn. -/
  | swr (h : Hdr) (i : BitVec 12) (a : BitVec 6)
  /-- R239: Reads one lane of a vector register into a scalar register. -/
  | sgetl (h : Hdr) (f : BitVec 6) (b : BitVec 6) (a : BitVec 6)
  /-- R235: Scalar shift left by an immediate. -/
  | sshli (h : Hdr) (f : BitVec 6) (b : BitVec 6) (a : BitVec 6)
  /-- R235: Scalar logical shift right by an immediate. -/
  | sshri (h : Hdr) (f : BitVec 6) (b : BitVec 6) (a : BitVec 6)
  /-- R241: Per-thread 32-bit add. -/
  | vadd (h : Hdr) (c : BitVec 6) (b : BitVec 6) (a : BitVec 6)
  /-- R241: Per-thread 32-bit subtract. -/
  | vsub (h : Hdr) (c : BitVec 6) (b : BitVec 6) (a : BitVec 6)
  /-- R241: Per-thread 32-bit multiply, low bits. -/
  | vmul (h : Hdr) (c : BitVec 6) (b : BitVec 6) (a : BitVec 6)
  /-- R241: Per-thread signed multiply, high 32 bits. -/
  | vmulhI (h : Hdr) (c : BitVec 6) (b : BitVec 6) (a : BitVec 6)
  /-- R241: Per-thread unsigned multiply, high 32 bits. -/
  | vmulhN (h : Hdr) (c : BitVec 6) (b : BitVec 6) (a : BitVec 6)
  /-- R241: Per-thread multiply-add into vA. -/
  | vmad (h : Hdr) (c : BitVec 6) (b : BitVec 6) (a : BitVec 6)
  /-- R241: Per-thread bitwise and. -/
  | vand (h : Hdr) (c : BitVec 6) (b : BitVec 6) (a : BitVec 6)
  /-- R241: Per-thread bitwise or. -/
  | vor (h : Hdr) (c : BitVec 6) (b : BitVec 6) (a : BitVec 6)
  /-- R241: Per-thread bitwise xor. -/
  | vxor (h : Hdr) (c : BitVec 6) (b : BitVec 6) (a : BitVec 6)
  /-- R241: Per-thread shift left by register. -/
  | vshl (h : Hdr) (c : BitVec 6) (b : BitVec 6) (a : BitVec 6)
  /-- R241: Per-thread logical shift right by register. -/
  | vshr (h : Hdr) (c : BitVec 6) (b : BitVec 6) (a : BitVec 6)
  /-- R241: Per-thread arithmetic shift right by register. -/
  | vsra (h : Hdr) (c : BitVec 6) (b : BitVec 6) (a : BitVec 6)
  /-- R241: Per-thread signed minimum. -/
  | vminI (h : Hdr) (c : BitVec 6) (b : BitVec 6) (a : BitVec 6)
  /-- R241: Per-thread signed maximum. -/
  | vmaxI (h : Hdr) (c : BitVec 6) (b : BitVec 6) (a : BitVec 6)
  /-- R241: Per-thread unsigned minimum. -/
  | vminN (h : Hdr) (c : BitVec 6) (b : BitVec 6) (a : BitVec 6)
  /-- R241: Per-thread unsigned maximum. -/
  | vmaxN (h : Hdr) (c : BitVec 6) (b : BitVec 6) (a : BitVec 6)
  /-- R242: Per-thread 64-bit add on register pairs. -/
  | vaddI64 (h : Hdr) (c : BitVec 6) (b : BitVec 6) (a : BitVec 6)
  /-- R242: Per-thread 64-bit subtract on register pairs. -/
  | vsubI64 (h : Hdr) (c : BitVec 6) (b : BitVec 6) (a : BitVec 6)
  /-- R242: Per-thread widening unsigned multiply-add into a pair. -/
  | vmadwN (h : Hdr) (c : BitVec 6) (b : BitVec 6) (a : BitVec 6)
  /-- R243: Per-thread four-way signed byte dot product accumulate. -/
  | vdot4I8 (h : Hdr) (c : BitVec 6) (b : BitVec 6) (a : BitVec 6)
  /-- R243: Per-thread eight-way signed nibble dot product accumulate. -/
  | vdot8I4 (h : Hdr) (c : BitVec 6) (b : BitVec 6) (a : BitVec 6)
  /-- R244: Per-thread add of a sign-extended immediate. -/
  | vaddi (h : Hdr) (f : BitVec 6) (b : BitVec 6) (a : BitVec 6)
  /-- R244: Per-thread shift left by an immediate. -/
  | vshli (h : Hdr) (f : BitVec 6) (b : BitVec 6) (a : BitVec 6)
  /-- R244: Per-thread logical shift right by an immediate. -/
  | vshri (h : Hdr) (f : BitVec 6) (b : BitVec 6) (a : BitVec 6)
  /-- R244: Per-thread arithmetic shift right by an immediate. -/
  | vsrai (h : Hdr) (f : BitVec 6) (b : BitVec 6) (a : BitVec 6)
  /-- R245: Per-thread move of a sign-extended immediate. -/
  | vmovi (h : Hdr) (i : BitVec 12) (a : BitVec 6)
  /-- R245: Per-thread shift left and insert of an immediate. -/
  | vins (h : Hdr) (i : BitVec 12) (a : BitVec 6)
  /-- R248: Per-thread integer compare writing a predicate. -/
  | vcmp (h : Hdr) (c : BitVec 6) (b : BitVec 6) (n : BitVec 3) (p : BitVec 3)
  /-- R249: Per-thread select between vB and vC by the selector predicate. -/
  | vsel (h : Hdr) (c : BitVec 6) (b : BitVec 6) (a : BitVec 6)
  /-- R246: Per-thread unary bit operation selected by F. -/
  | vunary (h : Hdr) (f : BitVec 6) (b : BitVec 6) (a : BitVec 6)
  /-- R247: Broadcasts a scalar register to every participating thread. -/
  | vbcst (h : Hdr) (f : BitVec 6) (b : BitVec 6) (a : BitVec 6)
  /-- R250: Per-thread FP32 add rounded by %fmode. -/
  | vfadd (h : Hdr) (c : BitVec 6) (b : BitVec 6) (a : BitVec 6)
  /-- R250: Per-thread FP32 subtract. -/
  | vfsub (h : Hdr) (c : BitVec 6) (b : BitVec 6) (a : BitVec 6)
  /-- R250: Per-thread FP32 multiply. -/
  | vfmul (h : Hdr) (c : BitVec 6) (b : BitVec 6) (a : BitVec 6)
  /-- R250: Per-thread FP32 fused multiply-add. -/
  | vffma (h : Hdr) (c : BitVec 6) (b : BitVec 6) (a : BitVec 6)
  /-- R250: Per-thread FP32 minimumNumber. -/
  | vfmin (h : Hdr) (c : BitVec 6) (b : BitVec 6) (a : BitVec 6)
  /-- R250: Per-thread FP32 maximumNumber. -/
  | vfmax (h : Hdr) (c : BitVec 6) (b : BitVec 6) (a : BitVec 6)
  /-- R250: Per-thread FP64 add on pairs. -/
  | vfaddF64 (h : Hdr) (c : BitVec 6) (b : BitVec 6) (a : BitVec 6)
  /-- R250: Per-thread FP64 multiply on pairs. -/
  | vfmulF64 (h : Hdr) (c : BitVec 6) (b : BitVec 6) (a : BitVec 6)
  /-- R250: Per-thread FP64 fused multiply-add on pairs. -/
  | vffmaF64 (h : Hdr) (c : BitVec 6) (b : BitVec 6) (a : BitVec 6)
  /-- R251: Per-thread packed FP16 add. -/
  | vfaddH2 (h : Hdr) (c : BitVec 6) (b : BitVec 6) (a : BitVec 6)
  /-- R251: Per-thread packed FP16 multiply. -/
  | vfmulH2 (h : Hdr) (c : BitVec 6) (b : BitVec 6) (a : BitVec 6)
  /-- R251: Per-thread packed FP16 fused multiply-add. -/
  | vffmaH2 (h : Hdr) (c : BitVec 6) (b : BitVec 6) (a : BitVec 6)
  /-- R251: Per-thread BF16 two-way dot product accumulated in FP32. -/
  | vfdot2Bh (h : Hdr) (c : BitVec 6) (b : BitVec 6) (a : BitVec 6)
  /-- R252: Per-thread FP32 compare writing a predicate. -/
  | vfcmp (h : Hdr) (c : BitVec 6) (b : BitVec 6) (n : BitVec 3) (p : BitVec 3)
  /-- R252: Per-thread FP64 compare writing a predicate. -/
  | vfcmpF64 (h : Hdr) (c : BitVec 6) (b : BitVec 6) (n : BitVec 3) (p : BitVec 3)
  /-- R253: Per-thread floating function selected by F. -/
  | vfunary (h : Hdr) (f : BitVec 6) (b : BitVec 6) (a : BitVec 6)
  /-- R255: Per-thread FP32 divide, result at turn n+12. -/
  | vfdiv (h : Hdr) (c : BitVec 6) (b : BitVec 6) (a : BitVec 6)
  /-- R255: Per-thread FP64 divide, result at turn n+20. -/
  | vfdivF64 (h : Hdr) (c : BitVec 6) (b : BitVec 6) (a : BitVec 6)
  /-- R256: Per-thread conversion selected by the code in F. -/
  | vcvt (h : Hdr) (f : BitVec 6) (b : BitVec 6) (a : BitVec 6)
  /-- R258: Packs two FP32 values as FP16 halves. -/
  | vpkH2 (h : Hdr) (c : BitVec 6) (b : BitVec 6) (a : BitVec 6)
  /-- R258: Packs two FP32 values as BF16 halves. -/
  | vpkBh2 (h : Hdr) (c : BitVec 6) (b : BitVec 6) (a : BitVec 6)
  /-- R258: Packs two clamped 16-bit integers. -/
  | vpkI16 (h : Hdr) (c : BitVec 6) (b : BitVec 6) (a : BitVec 6)
  /-- R259: Per-thread predicate logic. -/
  | plog (h : Hdr) (q : BitVec 3) (p : BitVec 3) (o : BitVec 3) (d : BitVec 3)
  /-- R259: Uniform condition-register logic. -/
  | klog (h : Hdr) (q : BitVec 3) (p : BitVec 3) (o : BitVec 3) (d : BitVec 3)
  /-- R260: Reduces a predicate over the participating threads into a scalar. -/
  | vote (h : Hdr) (o : BitVec 3) (p : BitVec 3) (a : BitVec 6)
  /-- R261: Reads vB from the lane named by vC. -/
  | vshfl (h : Hdr) (c : BitVec 6) (b : BitVec 6) (a : BitVec 6)
  /-- R261: Reads vB from lane j xor m. -/
  | vxorl (h : Hdr) (f : BitVec 6) (b : BitVec 6) (a : BitVec 6)
  /-- R261: Reads vB from lane (j + m) mod 32. -/
  | vrotl (h : Hdr) (f : BitVec 6) (b : BitVec 6) (a : BitVec 6)
  /-- R262: Folds vB over the participating threads into a scalar. -/
  | vredu (h : Hdr) (f : BitVec 6) (b : BitVec 6) (a : BitVec 6)
  /-- R262: Inclusive scan of vB over the participating threads. -/
  | vscan (h : Hdr) (f : BitVec 6) (b : BitVec 6) (a : BitVec 6)
  /-- R265: Reads a per-thread special register. -/
  | vrd (h : Hdr) (i : BitVec 12) (a : BitVec 6)
  /-- R271: Per-thread load from base plus vector offset. -/
  | vld (h : Hdr) (z : BitVec 3) (w : BitVec 3) (b : BitVec 6) (a : BitVec 6)
  /-- R271: Per-thread store to base plus vector offset. -/
  | vst (h : Hdr) (z : BitVec 3) (w : BitVec 3) (b : BitVec 6) (a : BitVec 6)
  /-- R274: Per-thread load from the block's scratchpad. -/
  | lds (h : Hdr) (z : BitVec 3) (w : BitVec 3) (b : BitVec 6) (a : BitVec 6)
  /-- R274: Per-thread store to the block's scratchpad. -/
  | sts (h : Hdr) (z : BitVec 3) (w : BitVec 3) (b : BitVec 6) (a : BitVec 6)
  /-- R275: Uniform 8-byte scalar load. -/
  | sld (h : Hdr) (f : BitVec 6) (b : BitVec 6) (a : BitVec 6)
  /-- R275: Uniform 8-byte scalar store. -/
  | sst (h : Hdr) (f : BitVec 6) (b : BitVec 6) (a : BitVec 6)
  /-- R276: Per-thread 32-bit atomic read-modify-write at the point of coherence. -/
  | vatom (h : Hdr) (z : BitVec 3) (w : BitVec 3) (b : BitVec 6) (a : BitVec 6)
  /-- R278: Per-thread compare and swap. -/
  | vcas (h : Hdr) (z : BitVec 3) (w : BitVec 3) (b : BitVec 6) (a : BitVec 6)
  /-- R279: Orders the thread's accesses as a full, acquire or release fence at a scope. -/
  | fence (h : Hdr) (k : BitVec 2) (c : BitVec 4)
  /-- R111: Binds a latch object to a memory region. -/
  | lbind (h : Hdr) (c : BitVec 6) (b : BitVec 6) (a : BitVec 6)
  /-- R112: Acquires a latch for the group, parking or failing the try form when it is held. -/
  | lacq (h : Hdr) (t : BitVec 1) (c : BitVec 4) (b : BitVec 6)
  /-- R113: Releases a latch held by the group, passing it to the first waiter. -/
  | lrel (h : Hdr) (c : BitVec 4) (b : BitVec 6)
  /-- R125: Initialises and types a barrier object. -/
  | barInit (h : Hdr) (b : BitVec 6) (a : BitVec 6)
  /-- R125: Decrements the barrier's pending count by the fragment's active threads. -/
  | barArrive (h : Hdr) (b : BitVec 6)
  /-- R125: Adds expected inbound bytes to a barrier. -/
  | barExpin (h : Hdr) (b : BitVec 6) (a : BitVec 6)
  /-- R125: Adds expected outbound bytes to a barrier. -/
  | barExpout (h : Hdr) (b : BitVec 6) (a : BitVec 6)
  /-- R125: Parks the fragment while the barrier's generation equals the operand. -/
  | barWait (h : Hdr) (b : BitVec 6) (a : BitVec 6)
  /-- R125: Sets k0 when the barrier's generation differs from the operand. -/
  | barTest (h : Hdr) (b : BitVec 6) (a : BitVec 6)
  /-- R129: Arms the line containing an address for the group's monitor. -/
  | monArm (h : Hdr) (b : BitVec 6)
  /-- R131: Parks the group until the armed line fires, a timeout or another wake condition. -/
  | monWait (h : Hdr) (a : BitVec 6)
  /-- R131: Disarms the group's line and wakes a parked fragment with code 4. -/
  | monClr (h : Hdr)
  /-- R285: Waits until the group's class counter reads n or less. -/
  | waitc (h : Hdr) (n : BitVec 12) (k : BitVec 2)
  /-- R287: Per-lane engine copy counted in class C. -/
  | cpy (h : Hdr) (z : BitVec 2) (d : BitVec 2) (e : BitVec 2) (b : BitVec 6) (a : BitVec 6)
  /-- R290: Uniform bulk copy counted in class X. -/
  | bcpy (h : Hdr) (c : BitVec 6) (b : BitVec 6) (a : BitVec 6)
  /-- R292: Binds a coil to a die, draining it first if bound elsewhere. -/
  | coilOpen (h : Hdr) (b : BitVec 6) (c : BitVec 3)
  /-- R292: Marks a coil closed and drains it. -/
  | coilClose (h : Hdr) (c : BitVec 3)
  /-- R292: Class X operation that retires when earlier writes on the coil are acknowledged. -/
  | coilDrain (h : Hdr) (c : BitVec 3)
  /-- R85: Migrates the group to the die that homes the address. -/
  | mig (h : Hdr) (b : BitVec 6)
  /-- R296: Sets one field of a tile's shape register. -/
  | tcfg (h : Hdr) (f : BitVec 6) (b : BitVec 6) (t : BitVec 4)
  /-- R301: Loads a tensor box into a tile, counted in class M. -/
  | tld (h : Hdr) (c : BitVec 6) (b : BitVec 6) (t : BitVec 4)
  /-- R301: Stores a tile box to a tensor, counted in class M. -/
  | tst (h : Hdr) (c : BitVec 6) (b : BitVec 6) (t : BitVec 4)
  /-- R304: Tile multiply-accumulate under a semiring, counted in class M. -/
  | mma (h : Hdr) (c : BitVec 4) (b : BitVec 4) (r : BitVec 2) (d : BitVec 4)
  /-- R306: Adds tiles to the block in the partition, setting k0. -/
  | talloc (h : Hdr) (b : BitVec 6)
  /-- R306: Wipes and returns the block's last tiles to the pool. -/
  | tfree (h : Hdr) (b : BitVec 6)
  /-- R306: Zeroes a tile's data and side band. -/
  | tzero (h : Hdr) (t : BitVec 4)
  /-- R306: Reads a tile line into a vector register by lane. -/
  | trowget (h : Hdr) (t : BitVec 4) (a : BitVec 6)
  /-- R306: Writes a tile line from a vector register by lane. -/
  | trowset (h : Hdr) (t : BitVec 4) (a : BitVec 6)
  /-- R298: Checks a tensor record and captures it in a handle. -/
  | sealTensor (h : Hdr) (b : BitVec 6) (a : BitVec 6)
  /-- R310: Checks a refinement command block and captures it in a handle. -/
  | sealRefire (h : Hdr) (b : BitVec 6) (a : BitVec 6)
  /-- R298: Frees a handle. -/
  | sealFree (h : Hdr) (b : BitVec 6)
  /-- R312: Queues a Refire run of a handle, counted in class F. -/
  | rfireGo (h : Hdr) (b : BitVec 6)
  /-- R313: Reads a run's status word or raises a pending REFIRE_EXIT. -/
  | rfireStat (h : Hdr) (b : BitVec 6) (a : BitVec 6)
  /-- R314: Aborts a queued or running Refire run. -/
  | rfireAbort (h : Hdr) (b : BitVec 6)
  /-- R327: Does nothing. -/
  | nop (h : Hdr)
  /-- R327: Ends the fragment's turn as running fragment in favour of other ready fragments. -/
  | yield (h : Hdr)
  /-- R136: Discards the owner's L0 lines on the core and the group's loop buffer and prefetch. -/
  | ifence (h : Hdr)
  /-- R327: Increments a progress cone of the launch on the core. -/
  | prog (h : Hdr) (i : BitVec 12)
  /-- R327: Raises BREAKPOINT with a tag unless disabled by %dbgctl. -/
  | bkpt (h : Hdr) (i : BitVec 12)
  /-- R327: Appends a checksum record to the trace buffer when checksums are on. -/
  | csum (h : Hdr) (i : BitVec 12)
  /-- R327: Holds the group until the start of the owner's next ISS revolution. -/
  | wsync (h : Hdr)
  /-- R327: Sets or clears the group's stall checker bit. -/
  | stchk (h : Hdr) (i : BitVec 12)
  /-- R209: 16-bit vector register move. -/
  | vmov16 (b : BitVec 5) (a : BitVec 6)
  /-- R209: 16-bit vA := vA + vB. -/
  | vadd16 (b : BitVec 5) (a : BitVec 6)
  /-- R209: 16-bit vA := vA - vB. -/
  | vsub16 (b : BitVec 5) (a : BitVec 6)
  /-- R209: 16-bit vA := vA and vB. -/
  | vand16 (b : BitVec 5) (a : BitVec 6)
  /-- R209: 16-bit vA := vA or vB. -/
  | vor16 (b : BitVec 5) (a : BitVec 6)
  /-- R209: 16-bit vA := vA xor vB. -/
  | vxor16 (b : BitVec 5) (a : BitVec 6)
  /-- R209: 16-bit shift left of vA by an immediate. -/
  | vshli16 (n : BitVec 5) (a : BitVec 6)
  /-- R209: 16-bit logical shift right of vA by an immediate. -/
  | vshri16 (n : BitVec 5) (a : BitVec 6)
  /-- R209: 16-bit FP32 vA := vA + vB. -/
  | vfadd16 (b : BitVec 5) (a : BitVec 6)
  /-- R209: 16-bit FP32 vA := vA × vB. -/
  | vfmul16 (b : BitVec 5) (a : BitVec 6)
  /-- R209: 16-bit add of a small signed immediate to vA. -/
  | vaddi16 (n : BitVec 5) (a : BitVec 6)
  /-- R209: 16-bit move of a small signed immediate into vA. -/
  | vmovi16 (n : BitVec 5) (a : BitVec 6)
  /-- R209: 16-bit relaxed 32-bit load from s0 plus vB. -/
  | vldB3216 (b : BitVec 5) (a : BitVec 6)
  /-- R209: 16-bit relaxed 32-bit store to s0 plus vB. -/
  | vstB3216 (b : BitVec 5) (a : BitVec 6)
  /-- R209: 16-bit nop. -/
  | nop16
  /-- R209: 16-bit yield. -/
  | yield16
  /-- R209: 16-bit unguarded return. -/
  | ret16
  /-- R209: 16-bit unguarded exit. -/
  | exit16
  /-- R209: 16-bit ifence. -/
  | ifence16
  /-- R219: Short uniform jump by a signed 11-bit halfword offset. -/
  | jmpS (i : BitVec 11)
  /-- R409: The queue path reads the next command once it becomes startable. -/
  | commandRead (o q : Nat)
  /-- R353: LAUNCH command read returns; TRBASE is sampled and the descriptor read issued. -/
  | launch (o q : Nat)
  /-- R353: SIGNAL command performs an 8-byte release write at a scope. -/
  | signal (o q : Nat)
  /-- R353: WAIT command arms a monitor and acquires the location until the compare holds. -/
  | wait (o q : Nat)
  /-- R138: INVAL command removes the owner's translations for a range. -/
  | inval (o q : Nat)
  /-- R354: REPLAY command copies and patches a graph and runs its commands. -/
  | replay (o q : Nat)
  /-- R353: FENCE command waits for earlier commands of the owner's other queues. -/
  | fenceCommand (o q : Nat)
  /-- R145: Descriptor read returns; the descriptor is checked and the fixed launch-start phase begins. -/
  | launchStart (o q : Nat)
  /-- R409: The 4,096-cycle launch-start time ends and placed blocks begin. -/
  | launchStartEnd (l : Nat)
  /-- R409: The 2,048-cycle later-placement time ends and the placed cluster's blocks begin. -/
  | laterPlacementEnd (l c : Nat)
  /-- R409: The 1,024-cycle block-end time ends; resources are free and waiting clusters are placed. -/
  | blockEndTimeEnd (b : Nat)
  /-- R141: Every block has ended and every write is performed; the completion phase starts. -/
  | launchCompletion (l : Nat)
  /-- R409: The 1,024-cycle completion time ends and the LAUNCH command completes. -/
  | launchCompletionEnd (l : Nat)
  /-- R170: A stored VF register write is taken in at an owner cycle as an input. -/
  | vfWriteTakeIn (o : Nat)
  /-- R352: QCTL restart resumes a halted queue whose error is cleared. -/
  | queueRestart (o q : Nat)
  /-- R80: A circuit's 1.5 µs setup time elapses and it becomes active. -/
  | circuitSetupElapsed (e : Nat)
  /-- R341: An accepted save request is taken in at an owner cycle and groups halt. -/
  | saveRequestTakeIn (o : Nat)
  /-- R341: Issued operations have completed or suspended and the owner waits for its quantum boundary. -/
  | preemptionHaltDone (o : Nat)
  /-- R345: The fixed 16,920-clock world switch ends and a pre-emption image drain begins. -/
  | worldSwitchEnd (seat : Nat)
  /-- R346: The saved image reaches CTXBUF and the operation ends. -/
  | imageDrained (o : Nat)
  /-- R355: Software doorbell write after advancing the event ring consumer index. -/
  | eventRingDoorbell (o : Nat) (v : DWord)
  /-- R360: Starts a new dirty-page logging epoch. -/
  | dirtyLogEpoch (o : Nat)
  /-- R362: The owner's memory wipe ends; STOP response sent or ERROR wipe done. -/
  | memoryWipeComplete (o : Nat)
  /-- R159: An owner's residency ends; switches, drains and configuration changes take effect. -/
  | quantumBoundary (seat : Nat)
  /-- R413: The switch period ends and the next owner's residency begins. -/
  | residencyStart (seat : Nat)
  /-- R413: An empty seat reaches a 768-clock boundary and decides its next resident. -/
  | seatBoundary (seat : Nat)
  /-- R150: A saggar fires when its oldest record has waited 64 group turns. -/
  | saggarTimeout (b part stage : Nat) (pc : DWord)
  /-- R155: A ready fragment unissued for 64 group turns gains priority. -/
  | fragmentPriority (grp f : Nat)
  /-- R179: A guarded bra resolves at turn n+5, splits the fragment and updates the predictor. -/
  | branchResolution (grp f : Nat)
  /-- R175: A pending result is written at the start of its landing turn. -/
  | resultWrite (id : Nat)
  /-- R338: Two turns after the fault point every group has halted and the owner's work is discarded. -/
  | haltComplete (o : Nat)
  /-- R131: A parked mon.wait reaches its owner-clock timeout. -/
  | monWaitTimeout (grp f : Nat)
  /-- R131: A fire notice reaches the parked group and it wakes. -/
  | monitorWake (grp code : Nat)
  /-- R281: A grant notice reaches a parked lacq and it continues as an acquire. -/
  | latchGrant (acc : Nat)
  /-- R282: A parked bar.wait resumes after its phase completes. -/
  | barrierWake (grp f : Nat)
  /-- R52: A 384-clock drain step of lost ways writes back and wipes lines. -/
  | drainStep (o : Nat)
  /-- R21: The core TLB resolves up to four granules of a beat in an LSP position. -/
  | coreTlbLookup (acc : Nat)
  /-- R23: A die-TLB lookup in the owner's WLK position. -/
  | dieTlbLookup (miss : Nat)
  /-- R23: A page-walk entry read issues in a WLK position. -/
  | walkStep (w : Nat)
  /-- R23: A page-table entry read returns to the walker. -/
  | walkReadReturn (w : Nat)
  /-- R23: A walk installs its translation or reports its fault. -/
  | walkInstall (w : Nat)
  /-- R43: An L1 line lookup or scratchpad pass in an LSP position. -/
  | lspAccess (acc : Nat)
  /-- R45: An L2 slice serves one access in the owner's L2 position. -/
  | l2Access (req : Nat)
  /-- R63: Stack read data reaches the home L2 slice. -/
  | l2FillArrival (chan : Nat)
  /-- R61: A memory channel serves one closed-page access in an owner position. -/
  | channelAccess (die slice o : Nat)
  /-- R65: Position 15 refreshes a row of a bank group. -/
  | refresh (die : Nat)
  /-- R65: Position 15 scrubs the next unit, writing back corrections. -/
  | scrubStep (die channel : Nat)
  /-- R65: Position 15 serves a queued physical-function access. -/
  | pfMemoryAccess (die channel : Nat)
  /-- R73: A cross-die message arrives at its destination die. -/
  | circuitMessageArrival (msg : Nat)
  /-- R272: A load's data reaches the core and fills the L1. -/
  | loadDataArrival (req : Nat)
  /-- R288: A cpy line operation issues its read in a CPY position. -/
  | cpyLineRead (op : Nat)
  /-- R89: A bcpy line issues its read in a CPY position. -/
  | bcpyLineRead (op : Nat)
  /-- R288: An engine line's data arrives and its write is presented. -/
  | engineWritePresent (op : Nat)
  /-- R303: A tld or tst starts in a TIL position and presents line requests. -/
  | tileTransferStart (op : Nat)
  /-- R303: Read data reaches the array and is written into the tile. -/
  | tldDataArrival (op : Nat)
  /-- R303: A tld retires 2 clocks after its last arrival. -/
  | tldRetire (op : Nat)
  /-- R305: An mma takes a TIL position; D is written at the last. -/
  | mmaPosition (op : Nat)
  /-- R306: A freed tile is wiped in a TIL position and returned to the pool. -/
  | tfreeWipe (b part : Nat)
  /-- R323: A queued Refire run starts. -/
  | refireRunStart (run : Nat)
  /-- R322: A Refire step finishes its computation and presents its writes. -/
  | refireStep (run : Nat)
  /-- R82: Every earlier write tagged with the coil is acknowledged and the drain ends. -/
  | coilDrainComplete (op : Nat)
  /-- R85: A migration landing request reaches the target die and is granted or queued. -/
  | landingRequestArrival (mig : Nat)
  /-- R85: A landing grant arrives and the state shipment starts. -/
  | landingGrantArrival (mig : Nat)
  /-- R85: The migration state message arrives at the target die. -/
  | migrationStateArrival (mig : Nat)
  /-- R85: The migrated state is installed 8 clocks after arrival and acquires at .pkg. -/
  | landingInstall (mig : Nat)
  /-- R139: In the owner's first WLK position on a die, INVAL removes matching TLB entries. -/
  | invalRemoval (inv die : Nat)
  /-- R139: Every die has finished and the INVAL completes. -/
  | invalComplete (inv : Nat)
  /-- R388: The full wipe of reset or of a lifecycle transition writes its last stack unit, LCSTAT ready is set or the transition's go bit clears. -/
  | fullWipeComplete
  /-- R359: An event record held back by the limit of 64 records per 2^20 owner cycles reaches its slot and is written. -/
  | eventRecordSlot (o : Nat)
  /-- R352: Write of a queue notify register setting its tail. -/
  | notify (o q : Nat) (v : DWord)
  /-- R2: Write to a register that has no row of its own. -/
  | registerWrite (fn off : Nat) (v : DWord)
  /-- R50: Write of a partition-table storage word, checked against all entries. -/
  | partitionEntryWrite (o off : Nat) (v : DWord)
  /-- R158: Write of an owner's seat word, checked and applied at the seat's next boundary. -/
  | seatWordWrite (o : Nat) (v : DWord)
  /-- R350: OWNCTL state write 0 to 2 brings the owner to RUN at a later residency start. -/
  | ownctlRun (o : Nat)
  /-- R350: OWNCTL state write 2 to 0 discards the owner's work and saved context. -/
  | ownctlUnlock (o : Nat)
  /-- R350: S2INVLEN write starts a stage-2 invalidation of the owner. -/
  | stage2Invalidation (o : Nat) (v : DWord)
  /-- R79: Write of a connection-table entry setting up or tearing down a circuit. -/
  | connectionTableWrite (e : Nat) (v : DWord)
  /-- R163: Write of a slot-table word, checked and moved at seat boundaries. -/
  | slotTableWrite (t half : Nat) (v : DWord)
  /-- R341: CTXCTL save with go requests pre-emption of an owner. -/
  | contextSave (o : Nat)
  /-- R348: CTXCTL restore with go checks and restores an image. -/
  | contextRestore (o verdict : Nat)
  /-- R392: LCCTL go with target BLANK, always refused. -/
  | lifecycleToBlank (signed : Bool) (serial : DWord)
  /-- R392: LCCTL go applying a signed transition to PROVISIONED. -/
  | lifecycleToProvisioned (signed : Bool) (serial : DWord)
  /-- R392: LCCTL go applying a signed transition to DEPLOYED. -/
  | lifecycleToDeployed (signed : Bool) (serial : DWord)
  /-- R392: LCCTL go applying a signed transition to RMA. -/
  | lifecycleToRma (signed : Bool) (serial : DWord)
  /-- R393: Write of the power limit, refused outside 600–2,000 W. -/
  | pwrlimWrite (v : DWord)
  /-- R362: TDISP message returning the version. -/
  | getTdispVersion (o : Nat)
  /-- R362: TDISP message returning capabilities. -/
  | getTdispCapabilities (o : Nat)
  /-- R362: Locks an interface, freezing its configuration and deriving its memory key. -/
  | lockInterfaceRequest (o : Nat)
  /-- R364: Returns the owner's interface report. -/
  | getDeviceInterfaceReport (o : Nat)
  /-- R362: Returns the interface's TDISP state. -/
  | getDeviceInterfaceState (o : Nat)
  /-- R362: Moves a locked interface to RUN. -/
  | startInterfaceRequest (o : Nat)
  /-- R362: Discards, wipes and unlocks an interface. -/
  | stopInterfaceRequest (o : Nat)
  /-- R365: SPDM attestation message over the DOE mailbox. -/
  | spdmMessage (code : Nat)
  /-- R367: Presentation of a signed debug token to the debug port. -/
  | debugToken (signed : Bool) (serial : DWord) (owners : Lanes) (expiry : BitVec 32)
  /-- R367: Debug command stopping a group after its current instruction. -/
  | hold (o die core slot : Nat)
  /-- R367: Debug command resuming a held group. -/
  | release (o die core slot : Nat)
  /-- R369: Debug command letting the fragment holding a lane issue one instruction. -/
  | step (o die core slot lane : Nat)
  /-- R368: Debug command writing a hardware breakpoint. -/
  | bpset (o core n : Nat) (addr : DWord) (lanes : Lanes) (enable : Bool)
  /-- R367: Debug command returning preserved state of a group or lane. -/
  | read (o structure_ index : Nat)
  /-- R370: Debug command stopping the package clock. -/
  | freeze
  /-- R370: Debug command resuming the package clock. -/
  | thaw
  /-- R370: FRZ_N driven low stops the package clock. -/
  | frzNLow
  /-- R370: FRZ_N driven high resumes the package clock. -/
  | frzNHigh
  /-- R388: Conventional reset or cold power-up runs the reset sequence. -/
  | reset (firmwareOk : Bool)
  /-- R390: VF Function Level Reset discards, wipes and unlocks its owner. -/
  | vfFlr (o : Nat)
  /-- R390: PF Function Level Reset acts as a reset without fuse read and firmware check. -/
  | pfFlr
  /-- R394: A die reaches 105 °C and the clock drops to 400 MHz. -/
  | thermalThrottle
  /-- R394: Every die falls below 100 °C and the throttle ends. -/
  | thermalRecover
  /-- R394: A die reaches 115 °C and the package shuts down. -/
  | thermalShutdown
  /-- R393: The power controller moves the package clock by 20 MHz. -/
  | clockStep (up exceeds : Bool)
  /-- R410: A peer link trains and PEERST reports the peer's live dies. -/
  | peerLinkUp (port : Nat) (dies : Half)
  /-- R410: A peer link goes down, failing outstanding requests and dropping inbound ones. -/
  | peerLinkDown (port : Nat)
  /-- R68: A host request to device memory arrives through a VF aperture. -/
  | hostMemoryRequest (o : Nat) (write : Bool) (gpa : DWord) (bytes : Nat) (data : BitVec 512) (relaxed ide : Bool)
  /-- R91: A request arrives on a peer lane and is charged to the lane's owner. -/
  | peerRequest (port lane : Nat) (write : Bool) (gpa : DWord) (bytes : Nat) (data : BitVec 512)
  /-- R90: A reply to the owner's space 1–5 request is taken in. -/
  | externalReply (id : Nat) (ok : Bool) (data : BitVec 1024)
  /-- R53: A single-bit or uncorrectable error strikes a stored SRAM word or stack unit. -/
  | softError (where_ key index symbols : Nat)
  /-- R65: A physical-function access to device memory arrives from the host and is queued for position 15 of its channel. -/
  | pfMemoryRequest (die channel unit : Nat) (write : Bool) (data : BitVec 512)
deriving DecidableEq, Repr, Inhabited

end Sys2Proof
end

