-- ==== Sys2Proof/Machine/State.lean ====
section
/-! DEFINITION. The state of the package, all of it as plain data: the registers of every group, the storage of every
core and die, the work in flight at every structure, the functions' registers, and the state after reset (R388). -/

namespace Sys2Proof.Machine

/-- A sparse table: key and value pairs. An absent key holds the default of its reader (zero for a register). -/
abbrev Map (α : Type) := List (Nat × α)

/-- Why a step stops the machine. -/
inductive Fault where
  /-- Raised by `step` when the package has shut down at 115 °C (R394) and no power-up is waiting: all storage is lost
  and nothing runs. Safe: the machine stops where the hardware stops. -/
  | poweredOff
deriving DecidableEq, Repr

/-- Why a step has no meaning for an instruction. -/
inductive Refusal where
  /-- Raised by an arm of `exec` for an instruction that has no meaning yet. Safe: nothing is claimed of it. -/
  | notModelled (mnemonic : String)
deriving DecidableEq, Repr

/-- The cause codes of R334. -/
inductive Cause where
  | illegalOp | illegalReg | illegalScope | misaligned | translation | permission | stallCheck | barrierClobber
  | software | breakpoint | singleStep | refireExit | handleInvalid | tileShape | divergenceDepth | migrateDenied
  | circuitAbsent | migratedAccess | uncorrectable | sealFormat | coilHome
deriving DecidableEq, Repr, Inhabited

/-- The register kinds of the stall checker (R31, R32, R176). -/
inductive RegKind where
  | v | s | p | k
deriving DecidableEq, Repr, Inhabited

/-- One register write waiting for its landing turn (R175). -/
inductive RegWrite where
  | v (reg lane : Nat) (val : BitVec 32)
  | s (reg : Nat) (val : BitVec 64)
  | p (reg lane : Nat) (val : Bool)
  | k (reg : Nat) (val : Bool)
  /-- a special register written by `swr` (R238) -/
  | sr (num : Nat) (val : BitVec 64)
  /-- one cone increment of `prog` (R327) -/
  | cone (n : Nat)
  /-- a field of a tile's shape register: lowest bit, length (R296) -/
  | shape (tile lo len val : Nat)
  /-- an entry pushed into a queue of a block (R233) -/
  | q (blk num : Nat) (val : BitVec 64)
deriving DecidableEq, Repr, Inhabited

/-- A result on its way to the registers (R175, R272). -/
structure Result where
  g : Nat
  /-- the turn in which it lands -/
  turn : Nat
  writes : List RegWrite
  /-- the `%fflags` bits it sets (R190) -/
  flags : BitVec 5
  /-- class V: the scoreboard holds the registers back (R175) -/
  held : Bool
  /-- the fragment that issued it -/
  frag : Nat
deriving DecidableEq, Repr, Inhabited

/-- What a fragment is doing (R155, R178). -/
inductive FragStatus where
  /-- may issue when its next instruction can -/
  | run
  /-- waits at a reconvergence entry (R153) -/
  | parked
  /-- `bar.wait` on the object at `addr` and generation `gen` (R125) -/
  | barWait (addr : BitVec 64) (gen : BitVec 4)
  /-- waits for the access `acc`: an acquire, a latch operation, `mon.arm`, `mig` (R101, R111 to R113) -/
  | mem (acc : Nat)
  /-- `mon.wait`, with the owner cycle at which it times out; 0 = never (R131) -/
  | monWait (limit : Nat)
  /-- a `talloc` waiting for tiles (R156) -/
  | talloc
  /-- waits for the wipes of its `tfree`, the last of them that of the tile `key` (R306) -/
  | tfree (key : Nat)
  /-- a guarded `bra` that has not resolved (R179) -/
  | branch
  /-- a fence of the kind and scope for some lanes, until the waits of R107 have ended (R279) -/
  | fence (kind scope : Nat) (lanes : BitVec 32)
  /-- its L1 refresh, which follows them (R44, R279) -/
  | refresh
  /-- `waitc` at address `back`: until the class counter reads `n` or less (R285) -/
  | classWait (cls n : Nat) (back : BitVec 64)
  /-- waits for the replay fragment `r` to reach its PC (R182) -/
  | joining (r : Nat)
  /-- the last instruction of a loop body, until the result that it writes to the counter returns (R227) -/
  | edge
  /-- migrating (R85) -/
  | migrate
  /-- it raised a fatal fault and waits for the halt (R337) -/
  | halted
deriving DecidableEq, Repr, Inhabited

/-- What a failed translation reports (R27): reason, level, stage, the stage-1 table level of a kind-3 failure (0
otherwise), or the circuit that is missing (R76). -/
structure WalkFault where
  reason : Nat
  level : Nat
  stage : Nat
  table : Nat
  circuit : Option (Nat × Nat)
deriving DecidableEq, Repr, Inhabited

/-- A fragment: threads of one group that hold one PC (R147). -/
structure Frag where
  /-- the model's own name for it, unique in its group -/
  id : Nat
  /-- its fragment ID, and its parent's (R147) -/
  name : Nat
  parent : Nat
  mask : BitVec 32
  pc : BitVec 64
  status : FragStatus
  /-- the earliest turn in which it may issue (R150, R179, R182, R336) -/
  notBefore : Nat
  /-- the turn from which its wait under R155 counts -/
  since : Nat
  /-- it holds priority (R155) -/
  prio : Bool
  /-- it has yielded and is passed over at the next choice (R327) -/
  yielded : Bool
  /-- SINGLE_STEP owed once its wait ends: address and active threads of the instruction that waits (R330, R335) -/
  stepOwed : Option (BitVec 64 × BitVec 32)
  /-- the fetch at a PC has failed, which is raised when the instruction is due (R198): that PC, the halfword's address -/
  fetchFault : Option (BitVec 64 × BitVec 64 × WalkFault)
deriving DecidableEq, Repr, Inhabited

/-- A reconvergence entry (R153). -/
structure RcEntry where
  pc : BitVec 64
  mask : BitVec 32
  frag : Nat
  parent : Nat
deriving DecidableEq, Repr, Inhabited

/-- The active `loop` of a group (R227 to R229): its body is fetched once and kept. -/
structure LoopState where
  start : BitVec 64
  stop : BitVec 64
  /-- the counter's scalar register -/
  ctr : Nat
  /-- the looping threads, and those a trap has suspended -/
  lanes : BitVec 32
  suspended : BitVec 32
  /-- the buffered body: halfword address and halfword; empty = invalid, refilled from the L0 (R137) -/
  body : List (BitVec 64 × BitVec 16)
deriving DecidableEq, Repr, Inhabited

/-- A result in the shadow buffer (R182): the place in the window of the instruction that made it, the turn in which it
lands and whether the scoreboard holds its registers (R175), its writes, and its flags by lane. -/
structure Shadow where
  place : Nat
  turn : Nat
  held : Bool
  writes : List RegWrite
  flags : List (Nat × BitVec 5)
deriving DecidableEq, Repr, Inhabited

/-- A speculation window, or an unresolved guarded `bra` with no window (R179 to R183). -/
structure Window where
  frag : Nat
  /-- address of the `bra` -/
  pc : BitVec 64
  target : BitVec 64
  fall : BitVec 64
  /-- active threads A and the actual taken mask T, known at resolution -/
  active : BitVec 32
  taken : BitVec 32
  /-- the predictor entry that was looked up -/
  index : Nat
  spec : Bool
  /-- the speculated path is the taken one -/
  onTaken : Bool
  lanes : BitVec 32
  /-- the speculated path's next PC -/
  next : BitVec 64
  /-- addresses of the instructions issued in the window, 4 at most, oldest first -/
  pcs : List (BitVec 64)
  /-- the window has ended and waits -/
  ended : Bool
  /-- the shadow buffer, in the order of issue and return -/
  shadow : List Shadow
  /-- loads of the window that failed a check for a speculated thread: the place of the first (R183) -/
  failed : Option Nat
deriving DecidableEq, Repr, Inhabited

/-- A thread group in its slot. -/
structure Group where
  owner : Nat
  launch : Nat
  block : Nat
  /-- linear block index and block coordinates, cluster rank, kept by `mig` (R86) -/
  blkIndex : Nat
  blkx : Nat
  blky : Nat
  blkz : Nat
  rank : Nat
  stage : Nat
  /-- the vector budget b and scalar count c (R31, R32) -/
  budget : Nat
  scount : Nat
  /-- it holds threads, or drains (R151) -/
  live : Bool
  draining : Bool
  migrated : Bool
  /-- held by the debug port; a step still to be made for a fragment (R367, R369) -/
  held : Bool
  stepFrag : Option Nat
  /-- the holder ID: where the group was formed and the formation count (R110) -/
  holder : BitVec 32
  /-- thread index of each lane -/
  tid : Map Nat
  /-- vector registers, key 32 × register + lane -/
  v : Map (BitVec 32)
  s : Map (BitVec 64)
  /-- p0 to p6, one bit for each lane -/
  p : Map (BitVec 32)
  /-- k0 to k6 -/
  k : BitVec 7
  fmode : BitVec 64
  fflags : BitVec 64
  cpybar : BitVec 64
  sealerr : BitVec 64
  dbgctl : BitVec 64
  monwhy : BitVec 64
  tcause : BitVec 64
  tpc : BitVec 64
  tinfo : BitVec 64
  tsib : BitVec 64
  /-- the checker bit of `stchk` (R327) -/
  checker : Bool
  frags : List Frag
  /-- the running fragment (R178), and one more than the turn for which it was last found not ready -/
  running : Option Nat
  chosenIn : Nat
  /-- lanes whose threads have exited, which no saggar's record takes (R157) -/
  gone : BitVec 32
  stack : List RcEntry
  /-- the reuse latch: the register it holds (R177) -/
  reuse : Option Nat
  window : Option Window
  loop : Option LoopState
  /-- class C, X, M and F operations in issue order, with whether each has finished (R118, R119) -/
  classC : List (Nat × Bool)
  classX : List (Nat × Bool)
  classM : List (Nat × Bool)
  classF : List (Nat × Bool)
  /-- REFIRE_EXIT traps pending on the slot, oldest first: their `%tinfo` (R320) -/
  exits : List (BitVec 64)
  /-- the armed line: slice watcher ID (R129) -/
  armed : Option Nat
  /-- code of a wake that came before the wait (R131) -/
  fired : Option Nat
  /-- latches held: home physical addresses (R112) -/
  latches : List Nat
  /-- earliest turn of the next start (R175), and the clock of the last start (R173) -/
  nextTurn : Nat
  lastStart : Nat
  /-- instructions started after a fault point (R337) -/
  skid : Nat
deriving DecidableEq, Repr, Inhabited

/-- A tile register (R40, R295). -/
structure Tile where
  data : BitVec 32768
  side : BitVec 8192
  shape : BitVec 64
  poisoned : Bool
deriving DecidableEq, Repr, Inhabited

/-- An entry of a block's handle table (R298). -/
structure Handle where
  /-- a refire block; otherwise a tensor record -/
  refire : Bool
  /-- the record's 64 or 256 bytes as read, byte i at bits [8i+7:8i] -/
  record : BitVec 2048
  va : BitVec 64
  /-- the most recent run through the handle -/
  run : Option Nat
deriving DecidableEq, Repr, Inhabited

/-- A coil of a block (R82). -/
structure Coil where
  /-- the die it is open to -/
  die : Option Nat
  /-- drains pending on it: the operations, oldest first -/
  drains : List Nat
  /-- a close or a rebinding drain is pending: tagged writes stall -/
  rebinding : Bool
deriving DecidableEq, Repr, Inhabited

/-- A record in a saggar (R149). -/
structure SagRecord where
  tid : Nat
  /-- v0 to v(n−1) -/
  regs : List (BitVec 32)
  /-- turn in which it was filed -/
  since : Nat
deriving DecidableEq, Repr, Inhabited

/-- A saggar with its scalar snapshot (R149). -/
structure Saggar where
  part : Nat
  stage : Nat
  pc : BitVec 64
  records : List SagRecord
  snapSlot : Option Nat
  snapS : List (BitVec 64)
  snapK : BitVec 7
  snapFmode : BitVec 64
  snapFflags : BitVec 64
  snapDbgctl : BitVec 64
  snapChecker : Bool
deriving DecidableEq, Repr, Inhabited

/-- A resident block (R143, R146). -/
structure Block where
  owner : Nat
  launch : Nat
  index : Nat
  cluster : Nat
  rank : Nat
  die : Nat
  core : Nat
  /-- placement order on the core (R156) -/
  placed : Nat
  /-- its groups run; false in the launch-start and later-placement times -/
  begun : Bool
  /-- its last thread has exited and its coils drain; then its block-end time runs -/
  ending : Bool
  ended : Bool
  /-- its room is free but for the slots that still drain (R151, R225) -/
  released : Bool
  /-- slots held: (partition, slot, stage) -/
  slots : List (Nat × Nat × Nat)
  /-- the queue set q0 to q7 (R34) -/
  queues : Map (List (BitVec 64))
  /-- the last pushes: (turn, queue) (R36) -/
  pushes : List (Nat × Nat)
  /-- scratchpad bytes by offset, and its size in bytes (R37) -/
  spad : Map (BitVec 8)
  spadSize : Nat
  /-- barrier-typed granules: offsets (R124) -/
  typed : List Nat
  /-- tiles, key 16 × partition + number, and how many it holds in each partition (R40); one that is being freed has a key
  above 63 -/
  tiles : Map Tile
  ntiles : Map Nat
  /-- `talloc` requests waiting: (partition, arrival, group, fragment, count) -/
  wants : List (Nat × Nat × Nat × Nat × Nat)
  /-- tiles of each partition still to be wiped by `tfree`, in that order: their keys (R306) -/
  freeing : Map (List Nat)
  handles : Map Handle
  coils : Map Coil
  saggars : List Saggar
  /-- uncorrectable errors in its scratchpad: byte offsets (R54) -/
  spadBad : List Nat
deriving DecidableEq, Repr, Inhabited

/-- A launch in flight (R144, R409). -/
structure Launch where
  owner : Nat
  queue : Nat
  /-- index of its command -/
  cmd : Nat
  /-- start order among the owner's launches (R358) -/
  order : Nat
  entry : BitVec 64
  handler : BitVec 64
  arg : BitVec 64
  gx : Nat
  gy : Nat
  gz : Nat
  clusterSize : Nat
  threads : List Nat
  budgets : List Nat
  scount : Nat
  tiles : Nat
  spadKiB : Nat
  flags : BitVec 16
  diemask : BitVec 16
  /-- next cluster to place, and clusters and blocks still to finish -/
  nextCluster : Nat
  blocksLeft : Nat
  /-- migrated groups that have not exited -/
  migrants : Nat
  completing : Bool
  /-- cones, key 8 × core + n over all dies; trial registers, key 3 × core + n (R328, R371) -/
  cones : Map (BitVec 64)
  trial : Map (BitVec 64)
  /-- the values its groups' vector and scalar registers have been given: what an undefined one may hold (R33) -/
  wroteV : List (BitVec 32)
  wroteS : List (BitVec 64)
deriving DecidableEq, Repr, Inhabited

/-- A translation (R16): page base, its size in bytes, and its attributes. -/
structure Xlat where
  /-- virtual (or guest-physical) page base -/
  va : Nat
  /-- guest-physical page base (R360) -/
  gpa : Nat
  pa : Nat
  size : Nat
  w : Bool
  x : Bool
  rep : Bool
  prot : Bool
  hc : Bool
deriving DecidableEq, Repr, Inhabited

/-- An entry of a core TLB or a die TLB (R17, R18). -/
structure TlbEntry where
  owner : Nat
  /-- die × 32 + core for a core TLB; the die for a die TLB -/
  at_ : Nat
  /-- a stage-2 translation of a table address (die TLB only) -/
  stage2 : Bool
  x : Xlat
  /-- the bank that holds it, and of a die TLB the set -/
  bank : Nat
  set : Nat
  used : Nat
  bad : Bool
deriving DecidableEq, Repr, Inhabited

/-- A line of an L2 slice (R42, R45). -/
structure L2Line where
  owner : Nat
  die : Nat
  /-- line number PA[51:7] -/
  line : Nat
  way : Nat
  data : BitVec 1024
  valid : BitVec 128
  dirty : BitVec 128
  replica : Bool
  poisoned : Bool
  /-- an uncorrectable error struck the copy -/
  bad : Bool
  hc : Bool
  prot : Bool
  used : Nat
  /-- of a replica, the launch that made it, and the translation that it was read through (R48) -/
  launch : Nat
  page : Xlat
deriving DecidableEq, Repr, Inhabited

/-- A line of a core's L1 or of a partition's L0 (R42, R43, R136). -/
structure CoreLine where
  owner : Nat
  /-- die × 32 + core for the L1; (die × 32 + core) × 4 + partition for the L0 -/
  at_ : Nat
  line : Nat
  way : Nat
  data : BitVec 1024
  used : Nat
  bad : Bool
  /-- data of a replica: the launch that made it, and the translation that it was read through (R42, R48) -/
  replica : Bool
  launch : Nat
  page : Xlat
deriving DecidableEq, Repr, Inhabited

/-- What a memory instruction asks of memory. -/
inductive AccKind where
  | load (signed : Bool) (bytes : Nat)
  | store (bytes : Nat)
  | atomic (op bytes : Nat)
  | cas (bytes : Nat)
  /-- uniform load and store of a scalar -/
  | sload (signed : Bool) (bytes : Nat)
  | sstore (bytes : Nat)
  | lacq (try_ : Bool)
  | lrel
  | lbind (base len : BitVec 64)
  /-- a barrier operation: function code and operand (R125) -/
  | bar (op : Nat) (x : BitVec 64)
  | arm
  | mig
  /-- `seal` of a tensor record or a refire block -/
  | sealRec (refire : Bool)
  /-- a trace record of a clock is counted in its header (R375) -/
  | trace (made : Nat) (record : BitVec 256)
  | fetch
  /-- an acquire or full fence's L1 refresh (R44) -/
  | refresh
  /-- line `i` of engine operation `op` (R121): lane 0 reads, lane 8 writes. A lane's `data` holds the first byte that it reads
  in its line, its `cmp` how many -/
  | line (op i : Nat)
  /-- an access of the queue path for a queue (R409): lane 8 writes, any other reads -/
  | queue (key : Nat)
deriving DecidableEq, Repr, Inhabited

/-- One lane's part of an access. -/
structure LaneReq where
  lane : Nat
  va : BitVec 64
  data : BitVec 128
  cmp : BitVec 64
deriving DecidableEq, Repr, Inhabited

/-- A memory instruction in flight (R21, R28, R43). -/
structure Access where
  g : Nat
  block : Nat
  frag : Nat
  lanes : BitVec 32
  /-- the threads that issued it, by index in their block -/
  tids : List Nat
  pc : BitVec 64
  owner : Nat
  launch : Nat
  die : Nat
  core : Nat
  part : Nat
  kind : AccKind
  reqs : List LaneReq
  /-- destination register -/
  dst : Nat
  order : Nat
  scope : Nat
  coil : Nat
  policy : Nat
  /-- it addresses the scratchpad by offset (`lds`, `sts`, `bar`) -/
  spad : Bool
  /-- granules still to be looked up, up to four of one beat together; granules that missed; translations found -/
  todo : List (List Nat)
  /-- granules that missed and wait for room in the miss queue: its fragment stalls (R22); earliest clock of an engine line's
  request is `avail` -/
  surplus : List Nat
  missing : List Nat
  xlats : List Xlat
  /-- lanes that fail a check: lane, cause, detail word -/
  faults : List (Nat × Cause × BitVec 32)
  checked : Bool
  /-- lines or scratchpad passes still to be served: lists of lanes -/
  passes : List (List Nat)
  /-- line requests whose reply is outstanding -/
  waiting : Nat
  /-- writes not yet performed or acknowledged -/
  unperformed : Nat
  /-- bytes gathered for each lane, and the clock at which the last of them is available -/
  got : List (Nat × BitVec 1024)
  avail : Nat
  /-- it is on its way to another core's scratchpad; cores that it has reached (R39) -/
  transit : Bool
  reached : List Nat
  /-- class X operation it counts as, for a coil tag -/
  op : Option Nat
  /-- issued in a speculation window, at this place -/
  window : Option Nat
deriving DecidableEq, Repr, Inhabited

/-- Who asked a slice for something. -/
inductive Agent where
  | acc (id : Nat)
  | walk (id : Nat)
  /-- an inbound host or peer request -/
  | inbound (id : Nat)
deriving DecidableEq, Repr, Inhabited

/-- What a request does at its slice (R45, R108, R110, R129). -/
inductive ReqKind where
  /-- a read for some lanes of an access, or of a whole line -/
  | read (lanes : List Nat)
  | write (mask : BitVec 128) (data : BitVec 1024)
  /-- an engine's write of the bits under a mask (R301) -/
  | bits (mask : BitVec 1024) (data : BitVec 1024)
  /-- the atomic, `vcas` or latch operation of the access, for these lanes -/
  | operate (lanes : List Nat)
  | arm (watcher : Nat)
  /-- an access to a host-coherent page of the host's memory, for these lanes: it leaves when a position has passed (R69) -/
  | away (lanes : List Nat)
deriving DecidableEq, Repr, Inhabited

/-- A request in a home slice's stream (R45, R70, R75). -/
structure Req where
  owner : Nat
  /-- requesting die and core -/
  die : Nat
  core : Nat
  part : Nat
  home : Nat
  line : Nat
  /-- guest-physical page of the line, for a write (R360) -/
  gpa : Nat
  kind : ReqKind
  agent : Agent
  policy : Nat
  coil : Nat
  /-- block whose coil order it is in, and its place there (R83) -/
  block : Nat
  place : Nat
  hc : Bool
  prot : Bool
  /-- it waits at the slice for a fill and is then served again in a position (R45); or the fill is its own, and its data
  is forwarded when it arrives (R63) -/
  again : Bool
  waitsFill : Bool
  /-- its place in the order of arrival at its slice, once it has entered the stream (R75) -/
  entered : Option Nat
  /-- a read's data enters no L1 (R47), or none after a write or a refresh of the core (R98) -/
  noL1 : Bool
  /-- its position has passed: the data of a read; an operation has been performed -/
  served : Bool
  data : BitVec 1024
  /-- a `.rep` read: served from the requesting die's replica (R48) -/
  rep : Bool
deriving DecidableEq, Repr, Inhabited

/-- A request in the queues of a slice's two channels (R61, R62). -/
structure ChanReq where
  owner : Nat
  die : Nat
  line : Nat
  /-- a write-back; a fill otherwise -/
  write : Bool
  /-- clock at which it enters the channels' queues; none while it waits at the slice (R62) -/
  entered : Option Nat
  /-- a position has served it; a fill's data is on its way (R63) -/
  served : Bool
  /-- of a write the victim's data, which waits in the slice, and its valid bytes (R62); of a fill, those of its line that left
  while it was under way -/
  kept : BitVec 1024
  mask : BitVec 128
  prot : Bool
  poisoned : Bool
  /-- of a fill, the data read, and whether a unit failed to decode (R66) -/
  data : BitVec 1024
deriving DecidableEq, Repr, Inhabited

/-- A page walk (R13, R15, R23, R24). -/
structure Walk where
  owner : Nat
  die : Nat
  va : Nat
  /-- kind of the access it serves: 0 read, 1 write, 2 fetch; its lane, engine bit -/
  kind : Nat
  /-- stage-1 level whose entry is next, 4 = the final address; stage-2 level, 4 = translated -/
  level1 : Nat
  level2 : Nat
  /-- the guest-physical address being translated, and the table address of the stage-2 walk -/
  gpa : Nat
  table2 : Nat
  /-- the stage-1 leaf, once read -/
  leaf1 : Option Xlat
  /-- the stage-2 translation of the present gpa, once known -/
  leaf2 : Option Xlat
  /-- first line of a contiguous run and its entries, while the second is read -/
  run : List (BitVec 64)
  /-- physical address of the entry being read, and the entry's line when it has returned -/
  entry : Nat
  data : Option (BitVec 1024)
  fault : Option WalkFault
  /-- invalidations that it may yet turn out to overlap, by the size of its page: their ranges (R24) -/
  avoid : List (Nat × Nat)
  /-- it holds a walk context -/
  running : Bool
deriving DecidableEq, Repr, Inhabited

/-- A granule in a core's miss queue (R22). -/
structure Miss where
  owner : Nat
  die : Nat
  core : Nat
  granule : Nat
  kind : Nat
  accs : List Nat
  /-- groups whose fetch waits on it (R412) -/
  fetchers : List (Nat × Nat)
  walk : Option Nat
  /-- of the queue path, which has no core and no miss queue (R409) -/
  direct : Bool
deriving DecidableEq, Repr, Inhabited

/-- One line of a `cpy`, `bcpy` or tile transfer (R287, R290, R303). -/
structure LineOp where
  /-- lane of each copy -/
  lanes : List Nat
  /-- copies: destination, source, bytes. A tile transfer's line has one copy, its line address -/
  copies : List (BitVec 64 × BitVec 64 × Nat)
deriving DecidableEq, Repr, Inhabited

/-- The kinds of engine operation (R118). -/
inductive OpKind where
  | cpy | bcpy | tld | tst | mma | rfire
  /-- a coil drain: the coil -/
  | drain (coil : Nat)
  /-- a coil-tagged access -/
  | tagged (acc : Nat)
  | mig
deriving DecidableEq, Repr, Inhabited

/-- An engine operation in flight. -/
structure EngOp where
  cls : Nat
  kind : OpKind
  g : Nat
  block : Nat
  launch : Nat
  owner : Nat
  die : Nat
  core : Nat
  part : Nat
  frag : Nat
  pc : BitVec 64
  /-- the threads that issued it, by index in their block -/
  tids : List Nat
  /-- lines of a `cpy` from the next whose write is to be presented on; all of a tile transfer's -/
  lines : List LineOp
  /-- index of the next line to read, and of the next whose write is to be presented; of a Refire run, the clock of its latest
  requests -/
  nextRead : Nat
  nextWrite : Nat
  /-- pieces of the next line of a `bcpy` whose reads have issued (R290); requests of a Refire run in the clock of the latest -/
  half : Nat
  /-- lines that a Refire step has still to present: line number, mask and data, no mask for a read (R322) -/
  pend : List (Nat × BitVec 128 × BitVec 1024)
  policy : Nat
  coil : Nat
  cpybar : BitVec 64
  /-- tiles named: keys; shapes captured: D, A, B -/
  tiles : List Nat
  shapes : List (BitVec 64)
  semiring : Nat
  record : BitVec 2048
  coords : List (BitVec 64)
  /-- source, and destination range, of a `bcpy` -/
  src : BitVec 64
  dst : BitVec 64
  len : Nat
  /-- the die of its coil -/
  home : Nat
  /-- it has faulted, and does nothing more (R340) -/
  dead : Bool
  /-- a tile operation has started; a Refire step's reads are under way -/
  started : Bool
  /-- lines of a copy or transfer in all; positions that an `mma` has still to take -/
  left : Nat
  /-- a drain that closes or binds its coil anew -/
  rebinding : Bool
  /-- bytes of a `cpy` written, by place, with the lane they hold (R287) -/
  written : List (Nat × Nat)
  /-- bytes written (R340) -/
  bytes : Nat
  prot : Bool
deriving DecidableEq, Repr, Inhabited

/-- The steps of a Refire run (R322). -/
inductive RefPhase where
  | start | load | factor | pivotTest | tests | correct | residual
  /-- the exit's out fields are on their way: exit code and policy action (R319) -/
  | leave (code act : Nat)
deriving DecidableEq, Repr, Inhabited

/-- A Refire run (R315, R323, R324). -/
structure RefRun where
  op : Nat
  /-- clock in which its `go` issued -/
  at_ : Nat
  owner : Nat
  die : Nat
  core : Nat
  part : Nat
  g : Nat
  handle : Nat
  record : BitVec 2048
  va : BitVec 64
  /-- 1 queued, 2 running, 3 retired, 4 aborted while queued and not yet retired -/
  state : Nat
  phase : RefPhase
  /-- column or row within the phase -/
  index : Nat
  rung : Nat
  it : Nat
  s : Nat
  total : Nat
  eta : BitVec 64
  etaPrev : BitVec 64
  eta0 : BitVec 64
  beta : BitVec 64
  thr : BitVec 64
  piv : List Nat
  factored : Bool
  skip : Bool
  singular : Bool
  abort : Bool
  exit : BitVec 8
  hasEta : Bool
  /-- ISS positions of its step that end after the one now passing (R324) -/
  issLeft : Nat
  /-- ISS positions that its step has taken, since it began or since its owner's positions changed -/
  issTaken : Nat
  /-- clock at which its step's last TIL position ends, and how many it has taken, or a save or a change of positions leaves -/
  tilEnd : Nat
  tilLeft : Nat
deriving DecidableEq, Repr, Inhabited

/-- A message on a circuit (R72 to R74). -/
inductive Payload where
  | request (req : Nat)
  | reply (req : Nat)
  | ack (req : Nat)
  /-- a monitor's fire notice: group and code -/
  | fire (g code : Nat)
  | latchGrant (acc : Nat)
  | landRequest (mig : Nat)
  | landGrant (mig : Nat)
  | groupState (mig : Nat)
deriving DecidableEq, Repr, Inhabited

structure Message where
  owner : Nat
  src : Nat
  dst : Nat
  /-- clock in which it is presented and its place among those of that clock; the clocks that it occupies (R73) -/
  at_ : Nat
  rank : Nat
  clocks : Nat
  /-- owner cycle at which it arrives -/
  arrives : Nat
  payload : Payload
deriving DecidableEq, Repr, Inhabited

/-- A migration in progress (R85). -/
structure Mig where
  owner : Nat
  g : Nat
  frag : Nat
  op : Nat
  src : Nat
  dst : Nat
  /-- the landing slot granted, as a group key -/
  slot : Option Nat
  /-- the state in the shipment -/
  cargo : Option Group
deriving DecidableEq, Repr, Inhabited

/-- A monitor's watcher at a slice (R129, R132). -/
structure Watcher where
  owner : Nat
  /-- a group, or a queue's WAIT command -/
  g : Nat
  queue : Option Nat
  die : Nat
  line : Nat
  installed : Bool
  overflowed : Bool
deriving DecidableEq, Repr, Inhabited

/-- A waiter in a latch's queue (R115). -/
structure LatchWaiter where
  owner : Nat
  /-- home physical address of the latch -/
  latch : Nat
  acc : Nat
  holder : BitVec 32
deriving DecidableEq, Repr, Inhabited

/-- A replay in progress (R354): the patched commands and the next index. -/
structure Replay where
  /-- the REPLAY command itself -/
  own : BitVec 512
  graph : BitVec 64
  patch : BitVec 64
  /-- commands in the graph, once its header is read, and patch entries, once the patch's is -/
  count : Option Nat
  patches : Option Nat
  /-- commands read, and patch entries applied -/
  cmds : List (BitVec 512)
  applied : Nat
  /-- its commands run; index of the next -/
  ready : Bool
  next : Nat
deriving DecidableEq, Repr, Inhabited

/-- The queue path's state of one queue (R352, R353, R409). Its registers stand in `State.vf`. -/
structure Queue where
  head : Nat
  tail : Nat
  /-- an error has halted it and no restart has come (R352) -/
  halted : Bool
  /-- its next command is being read; the place of that start among the owner's: 64 × owner cycle + queue -/
  reading : Bool
  order : Nat
  /-- the command read and its index; none while idle -/
  cmd : Option (BitVec 512)
  index : Nat
  replay : Option Replay
  /-- launch in flight -/
  launch : Option Nat
  /-- a launch waiting for a root change (R14), with the root it sampled -/
  rootWait : Option (BitVec 64)
  /-- commands a FENCE in progress waits for: queue, and how many of its commands are still to end (R353) -/
  fence : Option (List (Nat × Nat))
  /-- WAIT's watcher -/
  watcher : Option Nat
  /-- INVAL in progress -/
  inval : Option Nat
  /-- the access of the queue path that its command waits for -/
  acc : Option Nat
deriving DecidableEq, Repr, Inhabited

/-- An invalidation in progress (R138, R139): a queue's INVAL, or the physical function's of stage 2. -/
structure Inval where
  owner : Nat
  queue : Option Nat
  stage2 : Bool
  base : Nat
  /-- bytes; 0 = the whole space -/
  len : Nat
  /-- dies that have not removed their entries -/
  dies : List Nat
  /-- accesses, walks and engine operations that must finish first -/
  accs : List Nat
  walks : List Nat
deriving DecidableEq, Repr, Inhabited

/-- What waits for a request to spaces 1 to 5. -/
inductive ExtFor where
  /-- nothing: an event ring, log, image or completion write -/
  | nobody
  /-- an access, with its lane -/
  | acc (id lane : Nat)
  /-- an instruction fetch: partition and line -/
  | fetch (part line : Nat)
deriving DecidableEq, Repr, Inhabited

/-- A request to spaces 1 to 5 whose reply or acknowledgement is outstanding (R10, R90). -/
structure ExtReq where
  owner : Nat
  space : Nat
  addr : Nat
  write : Option (List (BitVec 8))
  /-- atomic: operation, operand, compare value (R108) -/
  atomic : Option (Nat × BitVec 64 × BitVec 64)
  bytes : Nat
  who : ExtFor
  posted : Bool
deriving DecidableEq, Repr, Inhabited

/-- An inbound request of the host or a peer (R68, R69, R91). -/
structure Inbound where
  owner : Nat
  /-- 0 = the host; p + 1 = peer port p -/
  port : Nat
  gpa : BitVec 64
  write : Bool
  bytes : Nat
  data : BitVec 512
  relaxed : Bool
  ide : Bool
  taken : Bool
deriving DecidableEq, Repr, Inhabited

/-- A mask-predictor entry (R179). -/
structure Pred where
  mask : BitVec 32
  conf : BitVec 2
deriving DecidableEq, Repr, Inhabited

/-- The saved context of an owner: its image (R342, R347). -/
structure Image where
  owner : Nat
  prot : Bool
  diemask : BitVec 16
  counter : BitVec 64
  length : Nat
  ocyc : Nat
  groups : Map Group
  blocks : Map Block
  launches : Map Launch
  ops : Map EngOp
  runs : Map RefRun
  waiters : List LatchWaiter
  watchers : Map Watcher
  preds : Map Pred
  hits : Map (BitVec 64)
  misses : Map (BitVec 64)
  /-- accesses parked at a latch -/
  accs : Map Access
deriving DecidableEq, Repr, Inhabited

/-- The running drain of an owner's lost ways (R52). -/
structure Drain where
  l2 : BitVec 32
  l1 : BitVec 20
  /-- lines visited in each slice, and sets wiped on each port of an L1, by the steps made; and by the one that runs -/
  lines : Nat
  sets : Nat
  stepLines : Nat
  stepSets : Nat
deriving DecidableEq, Repr, Inhabited

/-- The records of an owner that arose in one clock: type, queue and body, as they are written (R356); and what they were
added to: sequence number, recent and held records, producer and overflow, and how many requests had been sent. -/
structure Arisen where
  clock : Nat
  records : List (Nat × Nat × List (BitVec 8))
  seq : BitVec 64
  recent : List Nat
  delayed : List (List (BitVec 8))
  producer : BitVec 64
  overflow : BitVec 64
  sent : Nat
deriving DecidableEq, Repr, Inhabited

/-- What the device holds of one owner beside its registers. -/
structure Owner where
  /-- its work runs: it has entered RUN at a residency start (R169) -/
  running : Bool
  /-- OWNCTL or START accepted, RUN entered at the next residency start -/
  entering : Bool
  /-- resident in its seat; the clock since which its owner cycles have counted, or have stood still -/
  resident : Bool
  since : Nat
  /-- `%ocyc` at `since` -/
  ocyc : Nat
  /-- clock at which its events were last held back -/
  stopped : Nat
  /-- stage-1 root in use (R14) -/
  root : BitVec 64
  /-- storage word, way masks, TLB banks and walk contexts in effect (R51) -/
  storage : BitVec 64
  l2ways : BitVec 32
  l1ways : BitVec 20
  dtlb : BitVec 32
  ctlb : BitVec 32
  walks : Nat
  quantum : Nat
  drain : Option Drain
  /-- connection-table entries whose wavelengths are in the owner's circuits (R80) -/
  circuits : List Nat
  /-- peer lanes in effect: port × 16 + lane (R90) -/
  lanes : List Nat
  /-- PEERST as the owner has taken it in: port, live-die mask (R410) -/
  peers : List (Nat × BitVec 16)
  /-- a fatal fault's halt is in progress (R337): the report being made; the queue it latches: number, kind, cause -/
  halting : Bool
  /-- its two turns are over, and speculation windows that were open are still to resolve (R183) -/
  haltOver : Bool
  report : List (BitVec 8)
  faultQueue : Option (Nat × Nat × BitVec 8)
  /-- the faulting block, whose groups make halt records (R337) -/
  faultBlock : Option Nat
  /-- a discard is in progress (R350), and what follows it: 0 nothing, 1 CONFIG_UNLOCKED, 2 the wipe -/
  discarding : Bool
  after : Nat
  /-- a wipe runs (R362); it serves a function-level reset (R390) -/
  wiping : Bool
  flr : Bool
  /-- a STOP waits for the wipe: its response is due then (R362) -/
  stopping : Bool
  /-- the state the wipe ends in -/
  wipeTo : BitVec 2
  /-- the memory key's lock count, while the key exists (R365) -/
  lockCount : BitVec 64
  key : Option (BitVec 64)
  /-- event records: sequence number, and owner cycles of recent records (R356, R359) -/
  seq : BitVec 64
  recent : List Nat
  delayed : List (List (BitVec 8))
  /-- the records of the clock in which the last one arose (R356) -/
  arose : Option Arisen
  /-- pages logged in this epoch (R360) -/
  logged : List Nat
  /-- stored VF writes not yet taken in, in arrival order: offset and value (R170) -/
  stored : List (Nat × BitVec 64)
  /-- pre-emption (R341): requested and taken in, halted, saved -/
  saving : Bool
  /-- clock at which the save request was taken in: an instruction may still start in it (R404) -/
  savingFrom : Nat
  halted : Bool
  saved : Bool
  saveCount : BitVec 64
  image : Option Image
  /-- host bus address sampled from CTXBUF by the operation in progress (R407) -/
  buffer : Nat
  /-- shadow regions reserved (R345) -/
  regions : Bool
  restoring : Bool
  /-- how its cycles come to count again: 1 after a world switch, 2 after a restore, 0 otherwise -/
  back : Nat
  /-- firmware's launch counter: starts so far (R358) -/
  starts : Nat
  /-- event ring: producer, consumer as the doorbell gave it, overflow count (R355, R357) -/
  producer : BitVec 64
  consumer : BitVec 64
  overflow : BitVec 64
  /-- its positions have changed since its last residency start (R164) -/
  rotaChanged : Bool
  /-- circuit free clocks: key 16 × source + destination -/
  busy : Map Nat
  /-- its events of the present residency that the quantum boundary has held back: clocks still to go and event -/
  held : List (Nat × Instr)
deriving DecidableEq, Repr, Inhabited

/-- A seat's rotation (R159, R413). -/
structure Seat where
  resident : Option Nat
  /-- owner to whom the switch in progress leads -/
  switching : Option Nat
  /-- the turn under which the resident owner entered, and the clock of the seat's last boundary -/
  turn : Nat
  at_ : Nat
deriving DecidableEq, Repr, Inhabited

/-- A position's pending change (R164). -/
structure Move where
  target : Option Nat
  left : Bool
deriving DecidableEq, Repr, Inhabited

/-- A physical-function access waiting for position 15 (R65). -/
structure PfAccess where
  die : Nat
  channel : Nat
  unit : Nat
  write : Option (BitVec 512)
deriving DecidableEq, Repr, Inhabited

/-- A hardware breakpoint (R368). -/
structure Breakpoint where
  addr : BitVec 64
  lanes : BitVec 32
  enable : Bool
deriving DecidableEq, Repr, Inhabited

/-- The fuses (R388, R391, R392). -/
structure Fuses where
  /-- live compute dies: 12, 8, 4 or 1 (R1) -/
  dies : Nat
  serial : BitVec 64
  /-- 0 BLANK, 1 PROVISIONED, 2 DEPLOYED, 3 RMA -/
  lifecycle : Nat
  count : BitVec 32
  /-- a device root is fused -/
  root : Bool
deriving DecidableEq, Repr, Inhabited

/-- A debug token (R367). -/
structure Token where
  owners : BitVec 32
  expiry : BitVec 32
deriving DecidableEq, Repr, Inhabited

/-- What the front end has chosen to execute: set by `step` before `exec`. -/
structure Cursor where
  g : Nat
  frag : Nat
  /-- address of the instruction's first halfword, which is the prefix's when one is present (R331) -/
  pc : BitVec 64
  /-- address of the next instruction -/
  next : BitVec 64
  /-- the turn in which its last beat issues (R172) -/
  turn : Nat
  /-- it comes from the loop buffer (R329) -/
  looped : Bool
deriving DecidableEq, Repr, Inhabited

/-- An `xp` prefix waiting for the instruction it extends (R205). -/
structure Prefix where
  x : BitVec 12
  ha : BitVec 2
  hb : BitVec 2
  hc : BitVec 2
deriving DecidableEq, Repr, Inhabited

/-- The whole machine. -/
structure State where
  /-- package clocks since reset (the internal count of R159) -/
  clock : Nat
  /-- events due, in the order they act: clock and event -/
  agenda : List (Nat × Instr)
  cur : Cursor
  pfx : Option Prefix
  fuses : Fuses
  /-- the package is powered; the clock is stopped by FREEZE or by the pin (R370, R394) -/
  powered : Bool
  frozen : Bool
  pinLow : Bool
  /-- a die is at or above 105 °C (R394); a shutdown has happened since the last power-up -/
  hot : Bool
  shutdown : Bool
  /-- the full wipe of reset or of a lifecycle transition runs (R388, R389) -/
  wiping : Bool
  /-- PF BAR0 by offset, and VF BAR0 by 65,536 × owner + offset -/
  pf : Map (BitVec 64)
  vf : Map (BitVec 64)
  owners : Map Owner
  seats : Map Seat
  /-- slot tables in effect: key 16 × table + position; the seat that holds it (R162) -/
  positions : Map Nat
  moves : Map Move
  launches : Map Launch
  blocks : Map Block
  /-- groups by ((die × 32 + core) × 4 + partition) × 24 + slot -/
  groups : Map Group
  /-- groups formed in each slot, modulo 2^16 (R110) -/
  formations : Map (BitVec 16)
  results : Map Result
  accs : Map Access
  reqs : Map Req
  walks : Map Walk
  misses : Map Miss
  /-- writes of others that threads have read from an L1 before they were performed: block, threads, the store (R106) -/
  seen : List (Nat × List Nat × Nat)
  coreTlb : List TlbEntry
  dieTlb : List TlbEntry
  l0 : List CoreLine
  l1 : List CoreLine
  l2 : List L2Line
  channels : Map ChanReq
  ops : Map EngOp
  runs : Map RefRun
  messages : Map Message
  migs : Map Mig
  /-- landing requests queued at each die, in arrival order (R85) -/
  landings : Map (List Nat)
  watchers : Map Watcher
  waiters : List LatchWaiter
  queues : Map Queue
  invals : Map Inval
  exts : Map ExtReq
  /-- replies that wait for their owner's next residency: request, success, data (R170) -/
  arrived : List (Nat × Bool × BitVec 1024)
  /-- messages that have left on the host link or a peer port, newest first -/
  sent : List ExtReq
  inbound : Map Inbound
  /-- completions returned to the host or a peer: inbound request, data, completion error -/
  returned : List (Nat × BitVec 512 × Bool)
  /-- predictor entries, key 64 × (owner × 1,536 + partition) + index; `%mphit` and `%mpmiss` (R179, R180) -/
  preds : Map Pred
  mphit : Map (BitVec 64)
  mpmiss : Map (BitVec 64)
  /-- latest claim of a port or engine: the clock from which it is free -/
  claims : Map Nat
  /-- images held by the host at a host bus address (R346) -/
  images : Map Image
  pfQueue : List PfAccess
  pfReply : List (BitVec 512)
  /-- scrub: next unit of each channel, and stack errors: poisoned and corrupted units -/
  scrub : Map Nat
  refreshRow : Map Nat
  poison : List Nat
  /-- symbols in error of a unit: unit and count (R66) -/
  errors : Map Nat
  /-- uncorrectable register, queue or tile errors: slot or block keys whose next read faults (R54) -/
  badRegs : List (Nat × Nat)
  /-- single-bit errors of SRAM words: storage, key and index as SOFT_ERROR gives them, and the last access to that storage before
  the strike (R53) -/
  weak : List (Nat × Nat × Nat × Nat)
  /-- units written under a memory key: unit to owner and lock count (R365) -/
  sealedUnits : Map (Nat × BitVec 64)
  tokens : Option Token
  breakpoints : Map Breakpoint
  /-- the debug port's last answer; the group and lanes of the last STEP (R369); and the mailbox's last response -/
  readout : List (BitVec 64)
  stepping : Option (Nat × BitVec 32)
  mailbox : List (BitVec 8)
  /-- the boot nonce's generation: resets so far (R347) -/
  boots : Nat
  /-- space-0 memory: canonical cells; an unlisted address reads 0 (R389) -/
  mem : List Host.Cell
  /-- the start made last: its clock, and its path in the order of R36 -/
  started : Nat × Nat
  /-- next identity for an object in flight, and each owner's counter of free values: the model's own -/
  nextId : Nat
  freeCtr : Map Nat
deriving DecidableEq, Repr, Inhabited

/-- The machine right after reset (R388, once its step 5 is complete; log entry 1): every register at its reset value,
storage wiped, every seat empty, and the rotation and the maintenance positions due (R413, R65). (DEDUCED, log entry 1; DESIGN CHOICE, log entry 2; DESIGN CHOICE, log entry 3) -/
def State.reset : State where
  clock := 0
  agenda := (List.range 12).map (fun d => (45, Instr.refresh d)) ++ (List.range 16).map (fun k => (768, Instr.seatBoundary k))
  cur := default
  pfx := none
  fuses := ⟨12, 0, 1, 1, true⟩
  powered := true
  frozen := false
  pinLow := false
  hot := false
  shutdown := false
  wiping := false
  pf := [(0x48, 0x0000000100000002#64), (0x50, 0x0000000003AC07D0#64)]
  vf := []
  owners := []
  seats := []
  positions := []
  moves := []
  launches := []
  blocks := []
  groups := []
  formations := []
  results := []
  accs := []
  reqs := []
  walks := []
  misses := []
  seen := []
  coreTlb := []
  dieTlb := []
  l0 := []
  l1 := []
  l2 := []
  channels := []
  ops := []
  runs := []
  messages := []
  migs := []
  landings := []
  watchers := []
  waiters := []
  queues := []
  invals := []
  exts := []
  arrived := []
  sent := []
  inbound := []
  returned := []
  preds := []
  mphit := []
  mpmiss := []
  claims := []
  images := []
  pfQueue := []
  pfReply := []
  scrub := []
  refreshRow := []
  poison := []
  errors := []
  badRegs := []
  weak := []
  sealedUnits := []
  tokens := none
  breakpoints := []
  readout := []
  stepping := none
  mailbox := []
  boots := 1
  mem := []
  started := (0, 0)
  nextId := 1
  freeCtr := []

end Sys2Proof.Machine
end

