-- ==== Sys2Proof/Decode.lean ====
section
/-! DEFINITION. The decoder (R198 to R211), total on any halfwords, the encoder written from the same tables, and the
code defects of R211 that an instruction carries in its own word. -/

namespace Sys2Proof

/-- Why halfwords name no instruction (R211). Each has the fate ILLEGAL_OP. -/
inductive DecodeError where
  /-- fewer halfwords than the instruction needs -/
  | tooShort
  /-- the halfword 0x0000 (order 1) -/
  | zeroHalf
  /-- the word 0xFFFF_FFFF (order 1) -/
  | onesWord
  /-- `xp` with Y, S or G other than 0, 0, 7 (order 2, R205) -/
  | prefixHeader
  /-- `xp` before a 16-bit instruction or another `xp` (order 2, R205); found by the front end -/
  | prefixUse
  /-- a function code that the table of major opcode `maj` marks reserved (order 3) -/
  | reservedFunction (maj : Nat)
  /-- a field that the format fixes holds another value (order 4) -/
  | fixedField (maj : Nat)
  /-- 16-bit op 0xE with A from 5 to 63 or B nonzero (R209) -/
  | reservedShort
deriving DecidableEq, Repr

/-- Bits [lo+len−1:lo] of a word. -/
def fld (len lo w : Nat) : BitVec len := BitVec.ofNat len (w / 2 ^ lo)

/-- The header fields of a word (R200). -/
def hdrOf (w : Nat) : Hdr := ⟨fld 3 4 w, fld 1 3 w, fld 2 1 w⟩

/-- Bits [lo+len−1:lo] of a word hold `v`. -/
def fixed (lo len v w : Nat) : Bool := w / 2 ^ lo % 2 ^ len == v

/-- The 32-bit instructions, by major opcode (R210). Y is ignored where the entry shows it as 0 (R177). -/
def decode32 (w : Nat) : Except DecodeError Instr :=
  if w == 0xFFFFFFFF then .error .onesWord else
  match w / 128 % 128 with
  | 0x0 => if fixed 1 6 0x38 w then .ok (.xp (fld 12 20 w) (fld 2 18 w) (fld 2 16 w) (fld 2 14 w)) else .error .prefixHeader
  | 0x1 => .ok (.bra (hdrOf w) (fld 18 14 w))
  | 0x2 => if fixed 20 12 0 w then .ok (.brx (hdrOf w) (fld 6 14 w)) else .error (.fixedField 0x2)
  | 0x3 => .ok (.call (hdrOf w) (fld 18 14 w))
  | 0x4 => if fixed 14 18 0 w then .ok (.ret (hdrOf w)) else .error (.fixedField 0x4)
  | 0x5 => .ok (.rcv (hdrOf w) (fld 18 14 w))
  | 0x6 => if fixed 18 2 0 w then .ok (.brk (hdrOf w) (fld 12 20 w) (fld 4 14 w)) else .error (.fixedField 0x6)
  | 0x7 => if fixed 14 18 0 w then .ok (.exit (hdrOf w)) else .error (.fixedField 0x7)
  | 0x8 => if fixed 20 12 0 w then .ok (.reform (hdrOf w) (fld 6 14 w)) else .error (.fixedField 0x8)
  | 0x9 => .ok (.loop (hdrOf w) (fld 12 20 w) (fld 6 14 w))
  | 0xa => if fixed 14 6 0 w then .ok (.trap (hdrOf w) (fld 12 20 w)) else .error (.fixedField 0xa)
  | 0xb => .ok (.sadd (hdrOf w) (fld 6 26 w) (fld 6 20 w) (fld 6 14 w))
  | 0xc => .ok (.ssub (hdrOf w) (fld 6 26 w) (fld 6 20 w) (fld 6 14 w))
  | 0xd => .ok (.smul (hdrOf w) (fld 6 26 w) (fld 6 20 w) (fld 6 14 w))
  | 0xe => .ok (.smulhI (hdrOf w) (fld 6 26 w) (fld 6 20 w) (fld 6 14 w))
  | 0xf => .ok (.smulhN (hdrOf w) (fld 6 26 w) (fld 6 20 w) (fld 6 14 w))
  | 0x10 => .ok (.sdivN (hdrOf w) (fld 6 26 w) (fld 6 20 w) (fld 6 14 w))
  | 0x11 => .ok (.sremN (hdrOf w) (fld 6 26 w) (fld 6 20 w) (fld 6 14 w))
  | 0x12 => .ok (.sand (hdrOf w) (fld 6 26 w) (fld 6 20 w) (fld 6 14 w))
  | 0x13 => .ok (.sor (hdrOf w) (fld 6 26 w) (fld 6 20 w) (fld 6 14 w))
  | 0x14 => .ok (.sxor (hdrOf w) (fld 6 26 w) (fld 6 20 w) (fld 6 14 w))
  | 0x15 => .ok (.sshl (hdrOf w) (fld 6 26 w) (fld 6 20 w) (fld 6 14 w))
  | 0x16 => .ok (.sshr (hdrOf w) (fld 6 26 w) (fld 6 20 w) (fld 6 14 w))
  | 0x17 => .ok (.ssra (hdrOf w) (fld 6 26 w) (fld 6 20 w) (fld 6 14 w))
  | 0x18 => .ok (.sminI (hdrOf w) (fld 6 26 w) (fld 6 20 w) (fld 6 14 w))
  | 0x19 => .ok (.smaxI (hdrOf w) (fld 6 26 w) (fld 6 20 w) (fld 6 14 w))
  | 0x1a => .ok (.sminN (hdrOf w) (fld 6 26 w) (fld 6 20 w) (fld 6 14 w))
  | 0x1b => .ok (.smaxN (hdrOf w) (fld 6 26 w) (fld 6 20 w) (fld 6 14 w))
  | 0x1c => .ok (.saddi (hdrOf w) (fld 6 26 w) (fld 6 20 w) (fld 6 14 w))
  | 0x1d => .ok (.smovi (hdrOf w) (fld 12 20 w) (fld 6 14 w))
  | 0x1e => .ok (.sins (hdrOf w) (fld 12 20 w) (fld 6 14 w))
  | 0x1f => .ok (.scmp (hdrOf w) (fld 6 26 w) (fld 6 20 w) (fld 3 17 w) (fld 3 14 w))
  | 0x20 => if fixed 26 6 0 w then .ok (.smov (hdrOf w) (fld 6 20 w) (fld 6 14 w)) else .error (.fixedField 0x20)
  | 0x21 => .ok (.sunary (hdrOf w) (fld 6 26 w) (fld 6 20 w) (fld 6 14 w))
  | 0x22 => .ok (.srd (hdrOf w) (fld 12 20 w) (fld 6 14 w))
  | 0x23 => .ok (.swr (hdrOf w) (fld 12 20 w) (fld 6 14 w))
  | 0x24 => .ok (.sgetl (hdrOf w) (fld 6 26 w) (fld 6 20 w) (fld 6 14 w))
  | 0x25 => .ok (.sshli (hdrOf w) (fld 6 26 w) (fld 6 20 w) (fld 6 14 w))
  | 0x26 => .ok (.sshri (hdrOf w) (fld 6 26 w) (fld 6 20 w) (fld 6 14 w))
  | 0x27 => .ok (.vadd (hdrOf w) (fld 6 26 w) (fld 6 20 w) (fld 6 14 w))
  | 0x28 => .ok (.vsub (hdrOf w) (fld 6 26 w) (fld 6 20 w) (fld 6 14 w))
  | 0x29 => .ok (.vmul (hdrOf w) (fld 6 26 w) (fld 6 20 w) (fld 6 14 w))
  | 0x2a => .ok (.vmulhI (hdrOf w) (fld 6 26 w) (fld 6 20 w) (fld 6 14 w))
  | 0x2b => .ok (.vmulhN (hdrOf w) (fld 6 26 w) (fld 6 20 w) (fld 6 14 w))
  | 0x2c => .ok (.vmad (hdrOf w) (fld 6 26 w) (fld 6 20 w) (fld 6 14 w))
  | 0x2d => .ok (.vand (hdrOf w) (fld 6 26 w) (fld 6 20 w) (fld 6 14 w))
  | 0x2e => .ok (.vor (hdrOf w) (fld 6 26 w) (fld 6 20 w) (fld 6 14 w))
  | 0x2f => .ok (.vxor (hdrOf w) (fld 6 26 w) (fld 6 20 w) (fld 6 14 w))
  | 0x30 => .ok (.vshl (hdrOf w) (fld 6 26 w) (fld 6 20 w) (fld 6 14 w))
  | 0x31 => .ok (.vshr (hdrOf w) (fld 6 26 w) (fld 6 20 w) (fld 6 14 w))
  | 0x32 => .ok (.vsra (hdrOf w) (fld 6 26 w) (fld 6 20 w) (fld 6 14 w))
  | 0x33 => .ok (.vminI (hdrOf w) (fld 6 26 w) (fld 6 20 w) (fld 6 14 w))
  | 0x34 => .ok (.vmaxI (hdrOf w) (fld 6 26 w) (fld 6 20 w) (fld 6 14 w))
  | 0x35 => .ok (.vminN (hdrOf w) (fld 6 26 w) (fld 6 20 w) (fld 6 14 w))
  | 0x36 => .ok (.vmaxN (hdrOf w) (fld 6 26 w) (fld 6 20 w) (fld 6 14 w))
  | 0x37 => .ok (.vaddI64 (hdrOf w) (fld 6 26 w) (fld 6 20 w) (fld 6 14 w))
  | 0x38 => .ok (.vsubI64 (hdrOf w) (fld 6 26 w) (fld 6 20 w) (fld 6 14 w))
  | 0x39 => .ok (.vmadwN (hdrOf w) (fld 6 26 w) (fld 6 20 w) (fld 6 14 w))
  | 0x3a => .ok (.vdot4I8 (hdrOf w) (fld 6 26 w) (fld 6 20 w) (fld 6 14 w))
  | 0x3b => .ok (.vdot8I4 (hdrOf w) (fld 6 26 w) (fld 6 20 w) (fld 6 14 w))
  | 0x3c => .ok (.vaddi (hdrOf w) (fld 6 26 w) (fld 6 20 w) (fld 6 14 w))
  | 0x3d => .ok (.vshli (hdrOf w) (fld 6 26 w) (fld 6 20 w) (fld 6 14 w))
  | 0x3e => .ok (.vshri (hdrOf w) (fld 6 26 w) (fld 6 20 w) (fld 6 14 w))
  | 0x3f => .ok (.vsrai (hdrOf w) (fld 6 26 w) (fld 6 20 w) (fld 6 14 w))
  | 0x40 => .ok (.vmovi (hdrOf w) (fld 12 20 w) (fld 6 14 w))
  | 0x41 => .ok (.vins (hdrOf w) (fld 12 20 w) (fld 6 14 w))
  | 0x42 => .ok (.vcmp (hdrOf w) (fld 6 26 w) (fld 6 20 w) (fld 3 17 w) (fld 3 14 w))
  | 0x43 => .ok (.vsel (hdrOf w) (fld 6 26 w) (fld 6 20 w) (fld 6 14 w))
  | 0x44 => .ok (.vunary (hdrOf w) (fld 6 26 w) (fld 6 20 w) (fld 6 14 w))
  | 0x45 => .ok (.vbcst (hdrOf w) (fld 6 26 w) (fld 6 20 w) (fld 6 14 w))
  | 0x46 => .ok (.vfadd (hdrOf w) (fld 6 26 w) (fld 6 20 w) (fld 6 14 w))
  | 0x47 => .ok (.vfsub (hdrOf w) (fld 6 26 w) (fld 6 20 w) (fld 6 14 w))
  | 0x48 => .ok (.vfmul (hdrOf w) (fld 6 26 w) (fld 6 20 w) (fld 6 14 w))
  | 0x49 => .ok (.vffma (hdrOf w) (fld 6 26 w) (fld 6 20 w) (fld 6 14 w))
  | 0x4a => .ok (.vfmin (hdrOf w) (fld 6 26 w) (fld 6 20 w) (fld 6 14 w))
  | 0x4b => .ok (.vfmax (hdrOf w) (fld 6 26 w) (fld 6 20 w) (fld 6 14 w))
  | 0x4c => .ok (.vfaddF64 (hdrOf w) (fld 6 26 w) (fld 6 20 w) (fld 6 14 w))
  | 0x4d => .ok (.vfmulF64 (hdrOf w) (fld 6 26 w) (fld 6 20 w) (fld 6 14 w))
  | 0x4e => .ok (.vffmaF64 (hdrOf w) (fld 6 26 w) (fld 6 20 w) (fld 6 14 w))
  | 0x4f => .ok (.vfaddH2 (hdrOf w) (fld 6 26 w) (fld 6 20 w) (fld 6 14 w))
  | 0x50 => .ok (.vfmulH2 (hdrOf w) (fld 6 26 w) (fld 6 20 w) (fld 6 14 w))
  | 0x51 => .ok (.vffmaH2 (hdrOf w) (fld 6 26 w) (fld 6 20 w) (fld 6 14 w))
  | 0x52 => .ok (.vfdot2Bh (hdrOf w) (fld 6 26 w) (fld 6 20 w) (fld 6 14 w))
  | 0x53 => .ok (.vfcmp (hdrOf w) (fld 6 26 w) (fld 6 20 w) (fld 3 17 w) (fld 3 14 w))
  | 0x54 => .ok (.vfcmpF64 (hdrOf w) (fld 6 26 w) (fld 6 20 w) (fld 3 17 w) (fld 3 14 w))
  | 0x55 => .ok (.vfunary (hdrOf w) (fld 6 26 w) (fld 6 20 w) (fld 6 14 w))
  | 0x56 => .ok (.vfdiv (hdrOf w) (fld 6 26 w) (fld 6 20 w) (fld 6 14 w))
  | 0x57 => .ok (.vfdivF64 (hdrOf w) (fld 6 26 w) (fld 6 20 w) (fld 6 14 w))
  | 0x58 => .ok (.vcvt (hdrOf w) (fld 6 26 w) (fld 6 20 w) (fld 6 14 w))
  | 0x59 => .ok (.vpkH2 (hdrOf w) (fld 6 26 w) (fld 6 20 w) (fld 6 14 w))
  | 0x5a => .ok (.vpkBh2 (hdrOf w) (fld 6 26 w) (fld 6 20 w) (fld 6 14 w))
  | 0x5b => .ok (.vpkI16 (hdrOf w) (fld 6 26 w) (fld 6 20 w) (fld 6 14 w))
  | 0x5c => if fixed 26 6 0 w then .ok (.plog (hdrOf w) (fld 3 23 w) (fld 3 20 w) (fld 3 17 w) (fld 3 14 w)) else .error (.fixedField 0x5c)
  | 0x5d => if fixed 26 6 0 w then .ok (.klog (hdrOf w) (fld 3 23 w) (fld 3 20 w) (fld 3 17 w) (fld 3 14 w)) else .error (.fixedField 0x5d)
  | 0x5e => if fixed 20 6 0 w then .ok (.vote (hdrOf w) (fld 3 29 w) (fld 3 26 w) (fld 6 14 w)) else .error (.fixedField 0x5e)
  | 0x5f => .ok (.vshfl (hdrOf w) (fld 6 26 w) (fld 6 20 w) (fld 6 14 w))
  | 0x60 => .ok (.vxorl (hdrOf w) (fld 6 26 w) (fld 6 20 w) (fld 6 14 w))
  | 0x61 => .ok (.vrotl (hdrOf w) (fld 6 26 w) (fld 6 20 w) (fld 6 14 w))
  | 0x62 => .ok (.vredu (hdrOf w) (fld 6 26 w) (fld 6 20 w) (fld 6 14 w))
  | 0x63 => .ok (.vscan (hdrOf w) (fld 6 26 w) (fld 6 20 w) (fld 6 14 w))
  | 0x64 => .ok (.vrd (hdrOf w) (fld 12 20 w) (fld 6 14 w))
  | 0x65 => .ok (.vld (hdrOf w) (fld 3 29 w) (fld 3 26 w) (fld 6 20 w) (fld 6 14 w))
  | 0x66 => .ok (.vst (hdrOf w) (fld 3 29 w) (fld 3 26 w) (fld 6 20 w) (fld 6 14 w))
  | 0x67 => .ok (.lds (hdrOf w) (fld 3 29 w) (fld 3 26 w) (fld 6 20 w) (fld 6 14 w))
  | 0x68 => .ok (.sts (hdrOf w) (fld 3 29 w) (fld 3 26 w) (fld 6 20 w) (fld 6 14 w))
  | 0x69 => .ok (.sld (hdrOf w) (fld 6 26 w) (fld 6 20 w) (fld 6 14 w))
  | 0x6a => .ok (.sst (hdrOf w) (fld 6 26 w) (fld 6 20 w) (fld 6 14 w))
  | 0x6b => .ok (.vatom (hdrOf w) (fld 3 29 w) (fld 3 26 w) (fld 6 20 w) (fld 6 14 w))
  | 0x6c => .ok (.vcas (hdrOf w) (fld 3 29 w) (fld 3 26 w) (fld 6 20 w) (fld 6 14 w))
  | 0x6d => if fixed 20 12 0 w then .ok (.fence (hdrOf w) (fld 2 18 w) (fld 4 14 w)) else .error (.fixedField 0x6d)
  | 0x6e => .ok (.lbind (hdrOf w) (fld 6 26 w) (fld 6 20 w) (fld 6 14 w))
  | 0x6f => if fixed 14 6 0 w && fixed 31 1 0 w then .ok (.lacq (hdrOf w) (fld 1 30 w) (fld 4 26 w) (fld 6 20 w)) else .error (.fixedField 0x6f)
  | 0x70 => if fixed 14 6 0 w && fixed 30 2 0 w then .ok (.lrel (hdrOf w) (fld 4 26 w) (fld 6 20 w)) else .error (.fixedField 0x70)
  | 0x71 =>
    match w / 2 ^ 29 % 8 with
    | 0 => if fixed 26 3 0 w then .ok (.barInit (hdrOf w) (fld 6 20 w) (fld 6 14 w)) else .error (.fixedField 0x71)
    | 1 => if fixed 14 6 0 w && fixed 26 3 0 w then .ok (.barArrive (hdrOf w) (fld 6 20 w)) else .error (.fixedField 0x71)
    | 2 => if fixed 26 3 0 w then .ok (.barExpin (hdrOf w) (fld 6 20 w) (fld 6 14 w)) else .error (.fixedField 0x71)
    | 3 => if fixed 26 3 0 w then .ok (.barExpout (hdrOf w) (fld 6 20 w) (fld 6 14 w)) else .error (.fixedField 0x71)
    | 4 => if fixed 26 3 0 w then .ok (.barWait (hdrOf w) (fld 6 20 w) (fld 6 14 w)) else .error (.fixedField 0x71)
    | 5 => if fixed 26 3 0 w then .ok (.barTest (hdrOf w) (fld 6 20 w) (fld 6 14 w)) else .error (.fixedField 0x71)
    | _ => .error (.reservedFunction 0x71)
  | 0x72 =>
    match w / 2 ^ 26 % 64 with
    | 0 => if fixed 14 6 0 w then .ok (.monArm (hdrOf w) (fld 6 20 w)) else .error (.fixedField 0x72)
    | 1 => if fixed 20 6 0 w then .ok (.monWait (hdrOf w) (fld 6 14 w)) else .error (.fixedField 0x72)
    | 2 => if fixed 14 12 0 w then .ok (.monClr (hdrOf w)) else .error (.fixedField 0x72)
    | _ => .error (.reservedFunction 0x72)
  | 0x73 => if fixed 16 4 0 w then .ok (.waitc (hdrOf w) (fld 12 20 w) (fld 2 14 w)) else .error (.fixedField 0x73)
  | 0x74 => .ok (.cpy (hdrOf w) (fld 2 30 w) (fld 2 28 w) (fld 2 26 w) (fld 6 20 w) (fld 6 14 w))
  | 0x75 => .ok (.bcpy (hdrOf w) (fld 6 26 w) (fld 6 20 w) (fld 6 14 w))
  | 0x76 =>
    match w / 2 ^ 29 % 8 with
    | 0 => if fixed 17 3 0 w && fixed 26 3 0 w then .ok (.coilOpen (hdrOf w) (fld 6 20 w) (fld 3 14 w)) else .error (.fixedField 0x76)
    | 1 => if fixed 17 12 0 w then .ok (.coilClose (hdrOf w) (fld 3 14 w)) else .error (.fixedField 0x76)
    | 2 => if fixed 17 12 0 w then .ok (.coilDrain (hdrOf w) (fld 3 14 w)) else .error (.fixedField 0x76)
    | _ => .error (.reservedFunction 0x76)
  | 0x77 => if fixed 14 6 0 w && fixed 26 6 0 w then .ok (.mig (hdrOf w) (fld 6 20 w)) else .error (.fixedField 0x77)
  | 0x78 => if fixed 18 2 0 w then .ok (.tcfg (hdrOf w) (fld 6 26 w) (fld 6 20 w) (fld 4 14 w)) else .error (.fixedField 0x78)
  | 0x79 => if fixed 18 2 0 w then .ok (.tld (hdrOf w) (fld 6 26 w) (fld 6 20 w) (fld 4 14 w)) else .error (.fixedField 0x79)
  | 0x7a => if fixed 18 2 0 w then .ok (.tst (hdrOf w) (fld 6 26 w) (fld 6 20 w) (fld 4 14 w)) else .error (.fixedField 0x7a)
  | 0x7b => if fixed 24 2 0 w && fixed 30 2 0 w then .ok (.mma (hdrOf w) (fld 4 26 w) (fld 4 20 w) (fld 2 18 w) (fld 4 14 w)) else .error (.fixedField 0x7b)
  | 0x7c =>
    match w / 2 ^ 26 % 64 with
    | 0 => if fixed 14 6 0 w then .ok (.talloc (hdrOf w) (fld 6 20 w)) else .error (.fixedField 0x7c)
    | 1 => if fixed 14 6 0 w then .ok (.tfree (hdrOf w) (fld 6 20 w)) else .error (.fixedField 0x7c)
    | 2 => if fixed 14 6 0 w && fixed 24 2 0 w then .ok (.tzero (hdrOf w) (fld 4 20 w)) else .error (.fixedField 0x7c)
    | 3 => if fixed 24 2 0 w then .ok (.trowget (hdrOf w) (fld 4 20 w) (fld 6 14 w)) else .error (.fixedField 0x7c)
    | 4 => if fixed 24 2 0 w then .ok (.trowset (hdrOf w) (fld 4 20 w) (fld 6 14 w)) else .error (.fixedField 0x7c)
    | _ => .error (.reservedFunction 0x7c)
  | 0x7d =>
    match w / 2 ^ 26 % 64 with
    | 0 => .ok (.sealTensor (hdrOf w) (fld 6 20 w) (fld 6 14 w))
    | 1 => .ok (.sealRefire (hdrOf w) (fld 6 20 w) (fld 6 14 w))
    | 2 => if fixed 14 6 0 w then .ok (.sealFree (hdrOf w) (fld 6 20 w)) else .error (.fixedField 0x7d)
    | _ => .error (.reservedFunction 0x7d)
  | 0x7e =>
    match w / 2 ^ 26 % 64 with
    | 0 => if fixed 14 6 0 w then .ok (.rfireGo (hdrOf w) (fld 6 20 w)) else .error (.fixedField 0x7e)
    | 1 => .ok (.rfireStat (hdrOf w) (fld 6 20 w) (fld 6 14 w))
    | 2 => if fixed 14 6 0 w then .ok (.rfireAbort (hdrOf w) (fld 6 20 w)) else .error (.fixedField 0x7e)
    | _ => .error (.reservedFunction 0x7e)
  | 0x7f =>
    match w / 2 ^ 14 % 64 with
    | 0 => if fixed 20 12 0 w then .ok (.nop (hdrOf w)) else .error (.fixedField 0x7f)
    | 1 => if fixed 20 12 0 w then .ok (.yield (hdrOf w)) else .error (.fixedField 0x7f)
    | 2 => if fixed 20 12 0 w then .ok (.ifence (hdrOf w)) else .error (.fixedField 0x7f)
    | 3 => .ok (.prog (hdrOf w) (fld 12 20 w))
    | 4 => .ok (.bkpt (hdrOf w) (fld 12 20 w))
    | 5 => .ok (.csum (hdrOf w) (fld 12 20 w))
    | 6 => if fixed 20 12 0 w then .ok (.wsync (hdrOf w)) else .error (.fixedField 0x7f)
    | 7 => .ok (.stchk (hdrOf w) (fld 12 20 w))
    | _ => .error (.reservedFunction 0x7f)
  | _ => .error (.reservedFunction 0x80)

/-- The 16-bit instructions (R209): op in [4:1], A in [10:5], B in [15:11]. -/
def decode16 (w : Nat) : Except DecodeError Instr :=
  if w == 0 then .error .zeroHalf else
  match w / 2 % 16 with
  | 0 => .ok (.vmov16 (fld 5 11 w) (fld 6 5 w))
  | 1 => .ok (.vadd16 (fld 5 11 w) (fld 6 5 w))
  | 2 => .ok (.vsub16 (fld 5 11 w) (fld 6 5 w))
  | 3 => .ok (.vand16 (fld 5 11 w) (fld 6 5 w))
  | 4 => .ok (.vor16 (fld 5 11 w) (fld 6 5 w))
  | 5 => .ok (.vxor16 (fld 5 11 w) (fld 6 5 w))
  | 6 => .ok (.vshli16 (fld 5 11 w) (fld 6 5 w))
  | 7 => .ok (.vshri16 (fld 5 11 w) (fld 6 5 w))
  | 8 => .ok (.vfadd16 (fld 5 11 w) (fld 6 5 w))
  | 9 => .ok (.vfmul16 (fld 5 11 w) (fld 6 5 w))
  | 10 => .ok (.vaddi16 (fld 5 11 w) (fld 6 5 w))
  | 11 => .ok (.vmovi16 (fld 5 11 w) (fld 6 5 w))
  | 12 => .ok (.vldB3216 (fld 5 11 w) (fld 6 5 w))
  | 13 => .ok (.vstB3216 (fld 5 11 w) (fld 6 5 w))
  | 14 =>
    match w / 32 with
    | 0 => .ok .nop16
    | 1 => .ok .yield16
    | 2 => .ok .ret16
    | 3 => .ok .exit16
    | 4 => .ok .ifence16
    | _ => .error .reservedShort
  | 15 => .ok (.jmpS (fld 11 5 w))
  | _ => .error .reservedShort

/-- The decoder: bit 0 of the first halfword gives the length (R198). -/
def decode : List Half → Except DecodeError Instr
  | [] => .error .tooShort
  | lo :: rest =>
    if lo.toNat % 2 = 0 then decode16 lo.toNat else
    match rest with
    | [] => .error .tooShort
    | hi :: _ => decode32 (lo.toNat + 65536 * hi.toNat)

/-- Length in bytes of the instruction that begins with this halfword (R198). -/
def lengthOf (lo : Half) : Nat := if lo.toNat % 2 = 0 then 2 else 4

/-- The two halfwords of a word, the low one first. -/
def halves (w : Nat) : List Half := [BitVec.ofNat 16 w, BitVec.ofNat 16 (w / 65536)]

/-- The one halfword of a 16-bit instruction. -/
def half (w : Nat) : List Half := [BitVec.ofNat 16 w]

/-- The header bits [13:0] (R200) below the bits that the row fixes above them. -/
def hdrBits (h : Hdr) (maj above : Nat) : Nat :=
  1 + 2 * h.s.toNat + 8 * h.y.toNat + 16 * h.g.toNat + 128 * maj + above

/-- A field placed at bit `lo`. -/
def put (lo : Nat) {n : Nat} (x : BitVec n) (rest : Nat) : Nat := rest + 2 ^ lo * x.toNat

/-- The halfwords of an encoded instruction; an event row has none. (DEDUCED, log entry 111) -/
def encode : Instr → List Half
  | .xp x_ k_ j_ h_ => halves (put 20 x_ (put 18 k_ (put 16 j_ (put 14 h_ 0x71))))
  | .bra hd i_ => halves (put 14 i_ (hdrBits hd 0x1 0x0))
  | .brx hd a_ => halves (put 14 a_ (hdrBits hd 0x2 0x0))
  | .call hd i_ => halves (put 14 i_ (hdrBits hd 0x3 0x0))
  | .ret hd => halves (hdrBits hd 0x4 0x0)
  | .rcv hd i_ => halves (put 14 i_ (hdrBits hd 0x5 0x0))
  | .brk hd i_ n_ => halves (put 20 i_ (put 14 n_ (hdrBits hd 0x6 0x0)))
  | .exit hd => halves (hdrBits hd 0x7 0x0)
  | .reform hd a_ => halves (put 14 a_ (hdrBits hd 0x8 0x0))
  | .loop hd i_ a_ => halves (put 20 i_ (put 14 a_ (hdrBits hd 0x9 0x0)))
  | .trap hd i_ => halves (put 20 i_ (hdrBits hd 0xa 0x0))
  | .sadd hd c_ b_ a_ => halves (put 26 c_ (put 20 b_ (put 14 a_ (hdrBits hd 0xb 0x0))))
  | .ssub hd c_ b_ a_ => halves (put 26 c_ (put 20 b_ (put 14 a_ (hdrBits hd 0xc 0x0))))
  | .smul hd c_ b_ a_ => halves (put 26 c_ (put 20 b_ (put 14 a_ (hdrBits hd 0xd 0x0))))
  | .smulhI hd c_ b_ a_ => halves (put 26 c_ (put 20 b_ (put 14 a_ (hdrBits hd 0xe 0x0))))
  | .smulhN hd c_ b_ a_ => halves (put 26 c_ (put 20 b_ (put 14 a_ (hdrBits hd 0xf 0x0))))
  | .sdivN hd c_ b_ a_ => halves (put 26 c_ (put 20 b_ (put 14 a_ (hdrBits hd 0x10 0x0))))
  | .sremN hd c_ b_ a_ => halves (put 26 c_ (put 20 b_ (put 14 a_ (hdrBits hd 0x11 0x0))))
  | .sand hd c_ b_ a_ => halves (put 26 c_ (put 20 b_ (put 14 a_ (hdrBits hd 0x12 0x0))))
  | .sor hd c_ b_ a_ => halves (put 26 c_ (put 20 b_ (put 14 a_ (hdrBits hd 0x13 0x0))))
  | .sxor hd c_ b_ a_ => halves (put 26 c_ (put 20 b_ (put 14 a_ (hdrBits hd 0x14 0x0))))
  | .sshl hd c_ b_ a_ => halves (put 26 c_ (put 20 b_ (put 14 a_ (hdrBits hd 0x15 0x0))))
  | .sshr hd c_ b_ a_ => halves (put 26 c_ (put 20 b_ (put 14 a_ (hdrBits hd 0x16 0x0))))
  | .ssra hd c_ b_ a_ => halves (put 26 c_ (put 20 b_ (put 14 a_ (hdrBits hd 0x17 0x0))))
  | .sminI hd c_ b_ a_ => halves (put 26 c_ (put 20 b_ (put 14 a_ (hdrBits hd 0x18 0x0))))
  | .smaxI hd c_ b_ a_ => halves (put 26 c_ (put 20 b_ (put 14 a_ (hdrBits hd 0x19 0x0))))
  | .sminN hd c_ b_ a_ => halves (put 26 c_ (put 20 b_ (put 14 a_ (hdrBits hd 0x1a 0x0))))
  | .smaxN hd c_ b_ a_ => halves (put 26 c_ (put 20 b_ (put 14 a_ (hdrBits hd 0x1b 0x0))))
  | .saddi hd f_ b_ a_ => halves (put 26 f_ (put 20 b_ (put 14 a_ (hdrBits hd 0x1c 0x0))))
  | .smovi hd i_ a_ => halves (put 20 i_ (put 14 a_ (hdrBits hd 0x1d 0x0)))
  | .sins hd i_ a_ => halves (put 20 i_ (put 14 a_ (hdrBits hd 0x1e 0x0)))
  | .scmp hd c_ b_ n_ k_ => halves (put 26 c_ (put 20 b_ (put 17 n_ (put 14 k_ (hdrBits hd 0x1f 0x0)))))
  | .smov hd b_ a_ => halves (put 20 b_ (put 14 a_ (hdrBits hd 0x20 0x0)))
  | .sunary hd f_ b_ a_ => halves (put 26 f_ (put 20 b_ (put 14 a_ (hdrBits hd 0x21 0x0))))
  | .srd hd i_ a_ => halves (put 20 i_ (put 14 a_ (hdrBits hd 0x22 0x0)))
  | .swr hd i_ a_ => halves (put 20 i_ (put 14 a_ (hdrBits hd 0x23 0x0)))
  | .sgetl hd f_ b_ a_ => halves (put 26 f_ (put 20 b_ (put 14 a_ (hdrBits hd 0x24 0x0))))
  | .sshli hd f_ b_ a_ => halves (put 26 f_ (put 20 b_ (put 14 a_ (hdrBits hd 0x25 0x0))))
  | .sshri hd f_ b_ a_ => halves (put 26 f_ (put 20 b_ (put 14 a_ (hdrBits hd 0x26 0x0))))
  | .vadd hd c_ b_ a_ => halves (put 26 c_ (put 20 b_ (put 14 a_ (hdrBits hd 0x27 0x0))))
  | .vsub hd c_ b_ a_ => halves (put 26 c_ (put 20 b_ (put 14 a_ (hdrBits hd 0x28 0x0))))
  | .vmul hd c_ b_ a_ => halves (put 26 c_ (put 20 b_ (put 14 a_ (hdrBits hd 0x29 0x0))))
  | .vmulhI hd c_ b_ a_ => halves (put 26 c_ (put 20 b_ (put 14 a_ (hdrBits hd 0x2a 0x0))))
  | .vmulhN hd c_ b_ a_ => halves (put 26 c_ (put 20 b_ (put 14 a_ (hdrBits hd 0x2b 0x0))))
  | .vmad hd c_ b_ a_ => halves (put 26 c_ (put 20 b_ (put 14 a_ (hdrBits hd 0x2c 0x0))))
  | .vand hd c_ b_ a_ => halves (put 26 c_ (put 20 b_ (put 14 a_ (hdrBits hd 0x2d 0x0))))
  | .vor hd c_ b_ a_ => halves (put 26 c_ (put 20 b_ (put 14 a_ (hdrBits hd 0x2e 0x0))))
  | .vxor hd c_ b_ a_ => halves (put 26 c_ (put 20 b_ (put 14 a_ (hdrBits hd 0x2f 0x0))))
  | .vshl hd c_ b_ a_ => halves (put 26 c_ (put 20 b_ (put 14 a_ (hdrBits hd 0x30 0x0))))
  | .vshr hd c_ b_ a_ => halves (put 26 c_ (put 20 b_ (put 14 a_ (hdrBits hd 0x31 0x0))))
  | .vsra hd c_ b_ a_ => halves (put 26 c_ (put 20 b_ (put 14 a_ (hdrBits hd 0x32 0x0))))
  | .vminI hd c_ b_ a_ => halves (put 26 c_ (put 20 b_ (put 14 a_ (hdrBits hd 0x33 0x0))))
  | .vmaxI hd c_ b_ a_ => halves (put 26 c_ (put 20 b_ (put 14 a_ (hdrBits hd 0x34 0x0))))
  | .vminN hd c_ b_ a_ => halves (put 26 c_ (put 20 b_ (put 14 a_ (hdrBits hd 0x35 0x0))))
  | .vmaxN hd c_ b_ a_ => halves (put 26 c_ (put 20 b_ (put 14 a_ (hdrBits hd 0x36 0x0))))
  | .vaddI64 hd c_ b_ a_ => halves (put 26 c_ (put 20 b_ (put 14 a_ (hdrBits hd 0x37 0x0))))
  | .vsubI64 hd c_ b_ a_ => halves (put 26 c_ (put 20 b_ (put 14 a_ (hdrBits hd 0x38 0x0))))
  | .vmadwN hd c_ b_ a_ => halves (put 26 c_ (put 20 b_ (put 14 a_ (hdrBits hd 0x39 0x0))))
  | .vdot4I8 hd c_ b_ a_ => halves (put 26 c_ (put 20 b_ (put 14 a_ (hdrBits hd 0x3a 0x0))))
  | .vdot8I4 hd c_ b_ a_ => halves (put 26 c_ (put 20 b_ (put 14 a_ (hdrBits hd 0x3b 0x0))))
  | .vaddi hd f_ b_ a_ => halves (put 26 f_ (put 20 b_ (put 14 a_ (hdrBits hd 0x3c 0x0))))
  | .vshli hd f_ b_ a_ => halves (put 26 f_ (put 20 b_ (put 14 a_ (hdrBits hd 0x3d 0x0))))
  | .vshri hd f_ b_ a_ => halves (put 26 f_ (put 20 b_ (put 14 a_ (hdrBits hd 0x3e 0x0))))
  | .vsrai hd f_ b_ a_ => halves (put 26 f_ (put 20 b_ (put 14 a_ (hdrBits hd 0x3f 0x0))))
  | .vmovi hd i_ a_ => halves (put 20 i_ (put 14 a_ (hdrBits hd 0x40 0x0)))
  | .vins hd i_ a_ => halves (put 20 i_ (put 14 a_ (hdrBits hd 0x41 0x0)))
  | .vcmp hd c_ b_ n_ p_ => halves (put 26 c_ (put 20 b_ (put 17 n_ (put 14 p_ (hdrBits hd 0x42 0x0)))))
  | .vsel hd c_ b_ a_ => halves (put 26 c_ (put 20 b_ (put 14 a_ (hdrBits hd 0x43 0x0))))
  | .vunary hd f_ b_ a_ => halves (put 26 f_ (put 20 b_ (put 14 a_ (hdrBits hd 0x44 0x0))))
  | .vbcst hd f_ b_ a_ => halves (put 26 f_ (put 20 b_ (put 14 a_ (hdrBits hd 0x45 0x0))))
  | .vfadd hd c_ b_ a_ => halves (put 26 c_ (put 20 b_ (put 14 a_ (hdrBits hd 0x46 0x0))))
  | .vfsub hd c_ b_ a_ => halves (put 26 c_ (put 20 b_ (put 14 a_ (hdrBits hd 0x47 0x0))))
  | .vfmul hd c_ b_ a_ => halves (put 26 c_ (put 20 b_ (put 14 a_ (hdrBits hd 0x48 0x0))))
  | .vffma hd c_ b_ a_ => halves (put 26 c_ (put 20 b_ (put 14 a_ (hdrBits hd 0x49 0x0))))
  | .vfmin hd c_ b_ a_ => halves (put 26 c_ (put 20 b_ (put 14 a_ (hdrBits hd 0x4a 0x0))))
  | .vfmax hd c_ b_ a_ => halves (put 26 c_ (put 20 b_ (put 14 a_ (hdrBits hd 0x4b 0x0))))
  | .vfaddF64 hd c_ b_ a_ => halves (put 26 c_ (put 20 b_ (put 14 a_ (hdrBits hd 0x4c 0x0))))
  | .vfmulF64 hd c_ b_ a_ => halves (put 26 c_ (put 20 b_ (put 14 a_ (hdrBits hd 0x4d 0x0))))
  | .vffmaF64 hd c_ b_ a_ => halves (put 26 c_ (put 20 b_ (put 14 a_ (hdrBits hd 0x4e 0x0))))
  | .vfaddH2 hd c_ b_ a_ => halves (put 26 c_ (put 20 b_ (put 14 a_ (hdrBits hd 0x4f 0x0))))
  | .vfmulH2 hd c_ b_ a_ => halves (put 26 c_ (put 20 b_ (put 14 a_ (hdrBits hd 0x50 0x0))))
  | .vffmaH2 hd c_ b_ a_ => halves (put 26 c_ (put 20 b_ (put 14 a_ (hdrBits hd 0x51 0x0))))
  | .vfdot2Bh hd c_ b_ a_ => halves (put 26 c_ (put 20 b_ (put 14 a_ (hdrBits hd 0x52 0x0))))
  | .vfcmp hd c_ b_ n_ p_ => halves (put 26 c_ (put 20 b_ (put 17 n_ (put 14 p_ (hdrBits hd 0x53 0x0)))))
  | .vfcmpF64 hd c_ b_ n_ p_ => halves (put 26 c_ (put 20 b_ (put 17 n_ (put 14 p_ (hdrBits hd 0x54 0x0)))))
  | .vfunary hd f_ b_ a_ => halves (put 26 f_ (put 20 b_ (put 14 a_ (hdrBits hd 0x55 0x0))))
  | .vfdiv hd c_ b_ a_ => halves (put 26 c_ (put 20 b_ (put 14 a_ (hdrBits hd 0x56 0x0))))
  | .vfdivF64 hd c_ b_ a_ => halves (put 26 c_ (put 20 b_ (put 14 a_ (hdrBits hd 0x57 0x0))))
  | .vcvt hd f_ b_ a_ => halves (put 26 f_ (put 20 b_ (put 14 a_ (hdrBits hd 0x58 0x0))))
  | .vpkH2 hd c_ b_ a_ => halves (put 26 c_ (put 20 b_ (put 14 a_ (hdrBits hd 0x59 0x0))))
  | .vpkBh2 hd c_ b_ a_ => halves (put 26 c_ (put 20 b_ (put 14 a_ (hdrBits hd 0x5a 0x0))))
  | .vpkI16 hd c_ b_ a_ => halves (put 26 c_ (put 20 b_ (put 14 a_ (hdrBits hd 0x5b 0x0))))
  | .plog hd q_ p_ o_ d_ => halves (put 23 q_ (put 20 p_ (put 17 o_ (put 14 d_ (hdrBits hd 0x5c 0x0)))))
  | .klog hd q_ p_ o_ d_ => halves (put 23 q_ (put 20 p_ (put 17 o_ (put 14 d_ (hdrBits hd 0x5d 0x0)))))
  | .vote hd o_ p_ a_ => halves (put 29 o_ (put 26 p_ (put 14 a_ (hdrBits hd 0x5e 0x0))))
  | .vshfl hd c_ b_ a_ => halves (put 26 c_ (put 20 b_ (put 14 a_ (hdrBits hd 0x5f 0x0))))
  | .vxorl hd f_ b_ a_ => halves (put 26 f_ (put 20 b_ (put 14 a_ (hdrBits hd 0x60 0x0))))
  | .vrotl hd f_ b_ a_ => halves (put 26 f_ (put 20 b_ (put 14 a_ (hdrBits hd 0x61 0x0))))
  | .vredu hd f_ b_ a_ => halves (put 26 f_ (put 20 b_ (put 14 a_ (hdrBits hd 0x62 0x0))))
  | .vscan hd f_ b_ a_ => halves (put 26 f_ (put 20 b_ (put 14 a_ (hdrBits hd 0x63 0x0))))
  | .vrd hd i_ a_ => halves (put 20 i_ (put 14 a_ (hdrBits hd 0x64 0x0)))
  | .vld hd z_ w_ b_ a_ => halves (put 29 z_ (put 26 w_ (put 20 b_ (put 14 a_ (hdrBits hd 0x65 0x0)))))
  | .vst hd z_ w_ b_ a_ => halves (put 29 z_ (put 26 w_ (put 20 b_ (put 14 a_ (hdrBits hd 0x66 0x0)))))
  | .lds hd z_ w_ b_ a_ => halves (put 29 z_ (put 26 w_ (put 20 b_ (put 14 a_ (hdrBits hd 0x67 0x0)))))
  | .sts hd z_ w_ b_ a_ => halves (put 29 z_ (put 26 w_ (put 20 b_ (put 14 a_ (hdrBits hd 0x68 0x0)))))
  | .sld hd f_ b_ a_ => halves (put 26 f_ (put 20 b_ (put 14 a_ (hdrBits hd 0x69 0x0))))
  | .sst hd f_ b_ a_ => halves (put 26 f_ (put 20 b_ (put 14 a_ (hdrBits hd 0x6a 0x0))))
  | .vatom hd z_ w_ b_ a_ => halves (put 29 z_ (put 26 w_ (put 20 b_ (put 14 a_ (hdrBits hd 0x6b 0x0)))))
  | .vcas hd z_ w_ b_ a_ => halves (put 29 z_ (put 26 w_ (put 20 b_ (put 14 a_ (hdrBits hd 0x6c 0x0)))))
  | .fence hd k_ c_ => halves (put 18 k_ (put 14 c_ (hdrBits hd 0x6d 0x0)))
  | .lbind hd c_ b_ a_ => halves (put 26 c_ (put 20 b_ (put 14 a_ (hdrBits hd 0x6e 0x0))))
  | .lacq hd t_ c_ b_ => halves (put 30 t_ (put 26 c_ (put 20 b_ (hdrBits hd 0x6f 0x0))))
  | .lrel hd c_ b_ => halves (put 26 c_ (put 20 b_ (hdrBits hd 0x70 0x0)))
  | .barInit hd b_ a_ => halves (put 20 b_ (put 14 a_ (hdrBits hd 0x71 0x0)))
  | .barArrive hd b_ => halves (put 20 b_ (hdrBits hd 0x71 0x20000000))
  | .barExpin hd b_ a_ => halves (put 20 b_ (put 14 a_ (hdrBits hd 0x71 0x40000000)))
  | .barExpout hd b_ a_ => halves (put 20 b_ (put 14 a_ (hdrBits hd 0x71 0x60000000)))
  | .barWait hd b_ a_ => halves (put 20 b_ (put 14 a_ (hdrBits hd 0x71 0x80000000)))
  | .barTest hd b_ a_ => halves (put 20 b_ (put 14 a_ (hdrBits hd 0x71 0xa0000000)))
  | .monArm hd b_ => halves (put 20 b_ (hdrBits hd 0x72 0x0))
  | .monWait hd a_ => halves (put 14 a_ (hdrBits hd 0x72 0x4000000))
  | .monClr hd => halves (hdrBits hd 0x72 0x8000000)
  | .waitc hd n_ k_ => halves (put 20 n_ (put 14 k_ (hdrBits hd 0x73 0x0)))
  | .cpy hd z_ d_ e_ b_ a_ => halves (put 30 z_ (put 28 d_ (put 26 e_ (put 20 b_ (put 14 a_ (hdrBits hd 0x74 0x0))))))
  | .bcpy hd c_ b_ a_ => halves (put 26 c_ (put 20 b_ (put 14 a_ (hdrBits hd 0x75 0x0))))
  | .coilOpen hd b_ c_ => halves (put 20 b_ (put 14 c_ (hdrBits hd 0x76 0x0)))
  | .coilClose hd c_ => halves (put 14 c_ (hdrBits hd 0x76 0x20000000))
  | .coilDrain hd c_ => halves (put 14 c_ (hdrBits hd 0x76 0x40000000))
  | .mig hd b_ => halves (put 20 b_ (hdrBits hd 0x77 0x0))
  | .tcfg hd f_ b_ t_ => halves (put 26 f_ (put 20 b_ (put 14 t_ (hdrBits hd 0x78 0x0))))
  | .tld hd c_ b_ t_ => halves (put 26 c_ (put 20 b_ (put 14 t_ (hdrBits hd 0x79 0x0))))
  | .tst hd c_ b_ t_ => halves (put 26 c_ (put 20 b_ (put 14 t_ (hdrBits hd 0x7a 0x0))))
  | .mma hd c_ b_ r_ d_ => halves (put 26 c_ (put 20 b_ (put 18 r_ (put 14 d_ (hdrBits hd 0x7b 0x0)))))
  | .talloc hd b_ => halves (put 20 b_ (hdrBits hd 0x7c 0x0))
  | .tfree hd b_ => halves (put 20 b_ (hdrBits hd 0x7c 0x4000000))
  | .tzero hd t_ => halves (put 20 t_ (hdrBits hd 0x7c 0x8000000))
  | .trowget hd t_ a_ => halves (put 20 t_ (put 14 a_ (hdrBits hd 0x7c 0xc000000)))
  | .trowset hd t_ a_ => halves (put 20 t_ (put 14 a_ (hdrBits hd 0x7c 0x10000000)))
  | .sealTensor hd b_ a_ => halves (put 20 b_ (put 14 a_ (hdrBits hd 0x7d 0x0)))
  | .sealRefire hd b_ a_ => halves (put 20 b_ (put 14 a_ (hdrBits hd 0x7d 0x4000000)))
  | .sealFree hd b_ => halves (put 20 b_ (hdrBits hd 0x7d 0x8000000))
  | .rfireGo hd b_ => halves (put 20 b_ (hdrBits hd 0x7e 0x0))
  | .rfireStat hd b_ a_ => halves (put 20 b_ (put 14 a_ (hdrBits hd 0x7e 0x4000000)))
  | .rfireAbort hd b_ => halves (put 20 b_ (hdrBits hd 0x7e 0x8000000))
  | .nop hd => halves (hdrBits hd 0x7f 0x0)
  | .yield hd => halves (hdrBits hd 0x7f 0x4000)
  | .ifence hd => halves (hdrBits hd 0x7f 0x8000)
  | .prog hd i_ => halves (put 20 i_ (hdrBits hd 0x7f 0xc000))
  | .bkpt hd i_ => halves (put 20 i_ (hdrBits hd 0x7f 0x10000))
  | .csum hd i_ => halves (put 20 i_ (hdrBits hd 0x7f 0x14000))
  | .wsync hd => halves (hdrBits hd 0x7f 0x18000)
  | .stchk hd i_ => halves (put 20 i_ (hdrBits hd 0x7f 0x1c000))
  | .vmov16 b_ a_ => half (put 11 b_ (put 5 a_ 0x0))
  | .vadd16 b_ a_ => half (put 11 b_ (put 5 a_ 0x2))
  | .vsub16 b_ a_ => half (put 11 b_ (put 5 a_ 0x4))
  | .vand16 b_ a_ => half (put 11 b_ (put 5 a_ 0x6))
  | .vor16 b_ a_ => half (put 11 b_ (put 5 a_ 0x8))
  | .vxor16 b_ a_ => half (put 11 b_ (put 5 a_ 0xa))
  | .vshli16 n_ a_ => half (put 11 n_ (put 5 a_ 0xc))
  | .vshri16 n_ a_ => half (put 11 n_ (put 5 a_ 0xe))
  | .vfadd16 b_ a_ => half (put 11 b_ (put 5 a_ 0x10))
  | .vfmul16 b_ a_ => half (put 11 b_ (put 5 a_ 0x12))
  | .vaddi16 n_ a_ => half (put 11 n_ (put 5 a_ 0x14))
  | .vmovi16 n_ a_ => half (put 11 n_ (put 5 a_ 0x16))
  | .vldB3216 b_ a_ => half (put 11 b_ (put 5 a_ 0x18))
  | .vstB3216 b_ a_ => half (put 11 b_ (put 5 a_ 0x1a))
  | .nop16 => half 0x1c
  | .yield16 => half 0x3c
  | .ret16 => half 0x5c
  | .exit16 => half 0x7c
  | .ifence16 => half 0x9c
  | .jmpS i_ => half (put 5 i_ 0x1e)
  | .commandRead _ _ => []
  | .launch _ _ => []
  | .signal _ _ => []
  | .wait _ _ => []
  | .inval _ _ => []
  | .replay _ _ => []
  | .fenceCommand _ _ => []
  | .launchStart _ _ => []
  | .launchStartEnd _ => []
  | .laterPlacementEnd _ _ => []
  | .blockEndTimeEnd _ => []
  | .launchCompletion _ => []
  | .launchCompletionEnd _ => []
  | .vfWriteTakeIn _ => []
  | .queueRestart _ _ => []
  | .circuitSetupElapsed _ => []
  | .saveRequestTakeIn _ => []
  | .preemptionHaltDone _ => []
  | .worldSwitchEnd _ => []
  | .imageDrained _ => []
  | .eventRingDoorbell _ _ => []
  | .dirtyLogEpoch _ => []
  | .memoryWipeComplete _ => []
  | .quantumBoundary _ => []
  | .residencyStart _ => []
  | .seatBoundary _ => []
  | .saggarTimeout _ _ _ _ => []
  | .fragmentPriority _ _ => []
  | .branchResolution _ _ => []
  | .resultWrite _ => []
  | .haltComplete _ => []
  | .monWaitTimeout _ _ => []
  | .monitorWake _ _ => []
  | .latchGrant _ => []
  | .barrierWake _ _ => []
  | .drainStep _ => []
  | .coreTlbLookup _ => []
  | .dieTlbLookup _ => []
  | .walkStep _ => []
  | .walkReadReturn _ => []
  | .walkInstall _ => []
  | .lspAccess _ => []
  | .l2Access _ => []
  | .l2FillArrival _ => []
  | .channelAccess _ _ _ => []
  | .refresh _ => []
  | .scrubStep _ _ => []
  | .pfMemoryAccess _ _ => []
  | .circuitMessageArrival _ => []
  | .loadDataArrival _ => []
  | .cpyLineRead _ => []
  | .bcpyLineRead _ => []
  | .engineWritePresent _ => []
  | .tileTransferStart _ => []
  | .tldDataArrival _ => []
  | .tldRetire _ => []
  | .mmaPosition _ => []
  | .tfreeWipe _ _ => []
  | .refireRunStart _ => []
  | .refireStep _ => []
  | .coilDrainComplete _ => []
  | .landingRequestArrival _ => []
  | .landingGrantArrival _ => []
  | .migrationStateArrival _ => []
  | .landingInstall _ => []
  | .invalRemoval _ _ => []
  | .invalComplete _ => []
  | .fullWipeComplete => []
  | .eventRecordSlot _ => []
  | .notify _ _ _ => []
  | .registerWrite _ _ _ => []
  | .partitionEntryWrite _ _ _ => []
  | .seatWordWrite _ _ => []
  | .ownctlRun _ => []
  | .ownctlUnlock _ => []
  | .stage2Invalidation _ _ => []
  | .connectionTableWrite _ _ => []
  | .slotTableWrite _ _ _ => []
  | .contextSave _ => []
  | .contextRestore _ _ => []
  | .lifecycleToBlank _ _ => []
  | .lifecycleToProvisioned _ _ => []
  | .lifecycleToDeployed _ _ => []
  | .lifecycleToRma _ _ => []
  | .pwrlimWrite _ => []
  | .getTdispVersion _ => []
  | .getTdispCapabilities _ => []
  | .lockInterfaceRequest _ => []
  | .getDeviceInterfaceReport _ => []
  | .getDeviceInterfaceState _ => []
  | .startInterfaceRequest _ => []
  | .stopInterfaceRequest _ => []
  | .spdmMessage _ => []
  | .debugToken _ _ _ _ => []
  | .hold _ _ _ _ => []
  | .release _ _ _ _ => []
  | .step _ _ _ _ _ => []
  | .bpset _ _ _ _ _ _ => []
  | .read _ _ _ => []
  | .freeze => []
  | .thaw => []
  | .frzNLow => []
  | .frzNHigh => []
  | .reset _ => []
  | .vfFlr _ => []
  | .pfFlr => []
  | .thermalThrottle => []
  | .thermalRecover => []
  | .thermalShutdown => []
  | .clockStep _ _ => []
  | .peerLinkUp _ _ => []
  | .peerLinkDown _ => []
  | .hostMemoryRequest _ _ _ _ _ _ _ => []
  | .peerRequest _ _ _ _ _ _ => []
  | .externalReply _ _ _ => []
  | .softError _ _ _ _ => []
  | .pfMemoryRequest _ _ _ _ _ => []

/-- The row is an encoded instruction, not an event. -/
def Instr.encoded (i : Instr) : Bool := encode i != []

/-- The defects of R211, orders 3 and 4, that the fields of a row can still hold: reserved function, size, condition
and kind codes, shift counts and lanes beyond their limits, and fields that must be 0. -/
inductive Defect where
  | function
  | size
  | range
  | selector
deriving DecidableEq, Repr

/-- The first defect of an instruction's own word, if any. Each traps ILLEGAL_OP at issue (R211). -/
def defectOf : Instr → Option Defect
  | .sunary _ f _ _ => if f.toNat ≥ 14 then some .function else none
  | .vunary _ f _ _ => if f.toNat ≥ 12 then some .function else none
  | .vbcst _ f _ _ => if f.toNat ≥ 2 then some .function else none
  | .vfunary _ f _ _ => if f.toNat ≥ 13 then some .function else none
  | .vcvt _ f _ _ => if f.toNat ≥ 0x17 then some .function else none
  | .sgetl _ f _ _ => if f.toNat ≥ 32 then some .range else none
  | .vshli _ f _ _ => if f.toNat ≥ 32 then some .range else none
  | .vshri _ f _ _ => if f.toNat ≥ 32 then some .range else none
  | .vsrai _ f _ _ => if f.toNat ≥ 32 then some .range else none
  | .vxorl _ f _ _ => if f.toNat ≥ 32 then some .range else none
  | .vrotl _ f _ _ => if f.toNat ≥ 32 then some .range else none
  | .vote _ o _ _ => if o.toNat ≥ 4 then some .function else none
  | .vredu _ f _ _ => if f.toNat ≥ 11 then some .function else none
  | .vscan _ f _ _ => if f.toNat ≥ 9 then some .function else none
  | .vrd _ i _ => if i.toNat ≥ 4 then some .range else none
  | .vld _ z _ _ _ => if z.toNat = 7 then some .size else none
  | .lds _ z _ _ _ => if z.toNat = 7 then some .size else none
  | .vst _ z _ _ _ => if z.toNat ∈ [1, 3, 7] then some .size else none
  | .sts _ z _ _ _ => if z.toNat ∈ [1, 3, 7] then some .size else none
  | .vcas _ z _ _ _ => if z.toNat ∈ [4, 5] then none else some .size
  | .fence _ k _ => if k.toNat = 3 then some .function else none
  | .waitc _ n _ => if n.toNat > 255 then some .range else none
  | .cpy _ z _ _ _ _ => if z.toNat = 3 then some .size else none
  | .coilOpen _ _ c => if c.toNat = 0 then some .range else none
  | .coilClose _ c => if c.toNat = 0 then some .range else none
  | .coilDrain _ c => if c.toNat = 0 then some .range else none
  | .tcfg _ f _ _ => if f.toNat ≥ 6 then some .function else none
  | .prog _ i => if i.toNat ≥ 8 then some .range else none
  | .stchk _ i => if i.toNat ≥ 2 then some .range else none
  | .loop _ i _ => if i.toNat = 0 ∨ i.toNat > 64 then some .range else none
  | .vsel h _ _ _ => if h.g.toNat = 7 then some .selector else none
  | .plog _ q p o _ => if (o.toNat ≥ 4 ∧ q.toNat ≠ 0) ∨ (o.toNat ≥ 6 ∧ p.toNat ≠ 0) then some .range else none
  | .klog _ q p o _ => if (o.toNat ≥ 4 ∧ q.toNat ≠ 0) ∨ (o.toNat ≥ 6 ∧ p.toNat ≠ 0) then some .range else none
  | _ => none

/-- The halfwords of an instruction of `nbits` bits given as the table numbers them, padded with zero words. -/
def tableHalves (nbits w : Nat) : List Half :=
  if nbits ≤ 16 then [BitVec.ofNat 16 w, 0#16] else halves w

/-- What the decoder reads from an instruction whose bits the opcode table numbers as `w`. (DEDUCED, log entry 111) -/
def decodeTableWord (nbits w : Nat) : Option Instr :=
  match decode (tableHalves nbits w) with
  | .ok i => some i
  | .error _ => none

end Sys2Proof
end

