-- ==== Sys2Proof/WellFormed.lean ====
section
/-! DEFINITION. Which terms of the instruction type are instructions: those whose word carries no code defect of R211. -/

namespace Sys2Proof

/-- The instruction's words are not the halfword 0x0000, which R211 (order 1) makes illegal: it would be `vmov16` of v0 to
v0. -/
def notZeroHalf (i : Instr) : Bool := encode i != [0#16]

/-- The instruction's own fields carry no defect of R211, orders 1, 3 and 4. -/
def WellFormed (i : Instr) : Bool := (defectOf i).isNone && notZeroHalf i

end Sys2Proof
end

