-- ==== Sys2Proof/Machine/Ops.lean ====
section
/-! DEFINITION. The named operations over the state: tables, memory bytes, time and positions, groups and fragments,
results on their way to registers, reconvergence, taking an exception and ending an owner's work. -/

namespace Sys2Proof.Machine

/-! Tables. -/

/-- The entry at a key. -/
def mfind {α : Type} : Map α → Nat → Option α
  | [], _ => none
  | (k, v) :: t, key => if k = key then some v else mfind t key

/-- The entry at a key, the default where absent. -/
def mget {α : Type} [Inhabited α] (m : Map α) (key : Nat) : α := (mfind m key).getD default

/-- Writes an entry, in ascending key. -/
def mset {α : Type} : Map α → Nat → α → Map α
  | [], key, v => [(key, v)]
  | (k, w) :: t, key, v =>
    if k = key then (k, v) :: t else if key < k then (key, v) :: (k, w) :: t else (k, w) :: mset t key v

/-- Removes an entry. -/
def mdel {α : Type} (m : Map α) (key : Nat) : Map α := m.filter (fun e => e.1 != key)

/-- Applies a function to the entry at a key. -/
def mmod {α : Type} [Inhabited α] (m : Map α) (key : Nat) (f : α → α) : Map α := mset m key (f (mget m key))

/-- Applies a function to every entry. -/
def mall {α : Type} (m : Map α) (f : Nat → α → α) : Map α := m.map (fun e => (e.1, f e.1 e.2))

/-- Inserts before the first that it precedes strictly; a stable sort. -/
def insertBy {α : Type} (le : α → α → Bool) (a : α) : List α → List α
  | [] => [a]
  | b :: t => if le a b then a :: b :: t else b :: insertBy le a t
def sortBy {α : Type} (le : α → α → Bool) : List α → List α
  | [] => []
  | a :: t => insertBy le a (sortBy le t)

/-! Bits. -/

/-- Bits [lo+len−1:lo] as a number. -/
def ext {n : Nat} (x : BitVec n) (lo len : Nat) : Nat := x.toNat / 2 ^ lo % 2 ^ len

/-- Bits [lo+len−1:lo] replaced. -/
def putBits {n : Nat} (x : BitVec n) (lo len v : Nat) : BitVec n :=
  BitVec.ofNat n (x.toNat - ext x lo len * 2 ^ lo + v % 2 ^ len * 2 ^ lo)

/-- A number of one flag. -/
def b2n (b : Bool) : Nat := if b then 1 else 0

/-- Little-endian bytes of a number. -/
def bytesOf : Nat → Nat → List (BitVec 8)
  | 0, _ => []
  | n + 1, x => BitVec.ofNat 8 x :: bytesOf n (x / 256)

/-- The number whose little-endian bytes these are (R185). -/
def numOf : List (BitVec 8) → Nat
  | [] => 0
  | b :: t => b.toNat + 256 * numOf t

/-- The lanes of a set, ascending. -/
def lanesOf (m : BitVec 32) : List Nat := (List.range 32).filter (fun l => m.getLsbD l)

/-- The set of some lanes. -/
def maskOf : List Nat → BitVec 32
  | [] => 0
  | l :: t => BitVec.ofNat 32 (2 ^ l) ||| maskOf t

/-! Memory bytes: sorted by address, no entry for a byte that is 0 (R389: the full wipe zeroes every stack). -/

/-- The byte at an address; an unlisted one reads 0. -/
def memGet : List Host.Cell → Nat → BitVec 8
  | [], _ => 0
  | (b, w) :: t, a => if b = a then w else memGet t a

/-- Writes a byte and keeps the form. -/
def memSet : List Host.Cell → Nat → BitVec 8 → List Host.Cell
  | [], a, v => if v = 0 then [] else [(a, v)]
  | (b, w) :: t, a, v =>
    if a < b then (if v = 0 then (b, w) :: t else (a, v) :: (b, w) :: t)
    else if b = a then (if v = 0 then t else (a, v) :: t)
    else (b, w) :: memSet t a v

/-- Every address above `lo`, rising, and no zero byte. -/
def memWfFrom : Option Nat → List Host.Cell → Bool
  | _, [] => true
  | lo, (a, v) :: t => (match lo with | none => true | some b => decide (b < a)) && v != 0 && memWfFrom (some a) t

/-- The canonical form of memory. -/
def Memory.wf (m : List Host.Cell) : Bool := memWfFrom none m

/-- Writes bytes from an address up. -/
def memPut (m : List Host.Cell) : Nat → List (BitVec 8) → List Host.Cell
  | _, [] => m
  | a, b :: t => memPut (memSet m a b) (a + 1) t

/-- Reads `n` bytes from an address up. -/
def memTake (m : List Host.Cell) : Nat → Nat → List (BitVec 8)
  | _, 0 => []
  | a, n + 1 => memGet m a :: memTake m (a + 1) n

/-! Events and identities. -/

/-- Places an event after those due at or before its clock. (DESIGN CHOICE, log entry 12; DESIGN CHOICE, log entry 49) -/
def insertEvent : List (Nat × Instr) → Nat → Instr → List (Nat × Instr)
  | [], due, e => [(due, e)]
  | (d, x) :: t, due, e => if d ≤ due then (d, x) :: insertEvent t due e else (due, e) :: (d, x) :: t

/-- Places an event before the first that is due later, or due at the same clock and met by `p`. -/
def insertBefore (p : Instr → Bool) : List (Nat × Instr) → Nat → Instr → List (Nat × Instr)
  | [], due, e => [(due, e)]
  | (d, x) :: t, due, e =>
    if d < due || (d == due && !p x) then (d, x) :: insertBefore p t due e else (due, e) :: (d, x) :: t

/-- Makes an event due at a clock. (DESIGN CHOICE, log entry 49) -/
def post (s : State) (due : Nat) (e : Instr) : State := { s with agenda := insertEvent s.agenda due e }

/-- The state with the next identity taken. -/
def tick (s : State) : State := { s with nextId := s.nextId + 1 }

/-- Free values of an owner: the i-th from where its counter stands (R170), and the counter moved on. (DESIGN CHOICE, log entry 4) -/
def freeWord (s : State) (o i : Nat) : BitVec 64 := Config.freeValue (32 * (mget s.freeCtr o + i) + o)
/-- DESIGN CHOICE, log entry 4. -/
def drawn (s : State) (o n : Nat) : State := { s with freeCtr := mmod s.freeCtr o (· + n) }

/-- One of some values or 0, as a free value picks: what R33 lets an undefined register hold. (DESIGN CHOICE, log entry 4) -/
def pickOf {w : Nat} (xs : List (BitVec w)) (free : BitVec 64) : BitVec w :=
  match free.toNat % (xs.length + 1) with
  | 0 => 0
  | i + 1 => xs.getD i 0

/-- The turn of a clock (R172). -/
def turnOf (clock : Nat) : Nat := clock / 8

/-- The next common boundary of 768 clocks after a clock (R58, R159). -/
def boundary (clock : Nat) : Nat := (clock / 768 + 1) * 768

/-! Registers of the functions. -/

/-- A word of PF BAR0. -/
def pfGet (s : State) (off : Nat) : BitVec 64 := mget s.pf off

def pfSet (s : State) (off : Nat) (v : BitVec 64) : State := { s with pf := mset s.pf off v }

/-- A word of an owner's VF BAR0. -/
def vfGet (s : State) (o off : Nat) : BitVec 64 := mget s.vf (o * 65536 + off)

def vfSet (s : State) (o off : Nat) (v : BitVec 64) : State := { s with vf := mset s.vf (o * 65536 + off) v }

/-- Offset of a word of an owner's partition-table entry (R49). -/
def entryOff (o w : Nat) : Nat := 0x10000 + o * 0x100 + w

def entry (s : State) (o w : Nat) : BitVec 64 := pfGet s (entryOff o w)

/-- OWNCTL's fields (R350). -/
def owState (s : State) (o : Nat) : Nat := ext (entry s o 0x08) 0 2
def owTdisp (s : State) (o : Nat) : Bool := (entry s o 0x08).getLsbD 8
def owDies (s : State) (o : Nat) : Nat := ext (entry s o 0x08) 16 16
def setOwState (s : State) (o v : Nat) : State := pfSet s (entryOff o 0x08) (putBits (entry s o 0x08) 0 2 v)

/-- A die of a set, and the live dies (R1). (DESIGN CHOICE, log entry 2) -/
def liveDie (s : State) (d : Nat) : Bool := d < s.fuses.dies
def diesOf (mask : Nat) : List Nat := (List.range 16).filter (fun d => mask.testBit d)
def lowestDie (mask : Nat) : Nat := ((diesOf mask).head?).getD 0

/-! Owners, seats and positions. -/

def owner (s : State) (o : Nat) : Owner := mget s.owners o

def modOwner (s : State) (o : Nat) (f : Owner → Owner) : State := { s with owners := mmod s.owners o f }

/-- The seat word's fields (R158). -/
def seatOf (s : State) (o : Nat) : Nat := ext (entry s o 0x48) 0 4
def seated (s : State) (o : Nat) : Bool := (entry s o 0x48).getLsbD 4
def turnWord (s : State) (o : Nat) : Nat := ext (entry s o 0x48) 8 5
/-- The residency length L (R159). -/
def quantumOf (s : State) (o : Nat) : Nat :=
  let q := ext (entry s o 0x48) 32 32
  let q := if q = 0 then 1880000 else q
  (q + 767) / 768 * 768

/-- Owners seated in a seat. -/
def seatOwners (s : State) (seat : Nat) : List Nat := (List.range 32).filter (fun o => seated s o && seatOf s o == seat)

/-- The owner is resident and no drain holds its count (R52, R169). -/
def counts (w : Owner) : Bool := w.resident && w.drain.isNone

/-- Makes an event due when some of the owner's cycles have passed. -/
def postOwner (s : State) (o delay : Nat) (e : Instr) : State :=
  if counts (owner s o) then post s (s.clock + delay) e
  else modOwner s o (fun w => { w with held := w.held ++ [(delay, e)] })

/-- `%ocyc` (R169). -/
def ocyc (s : State) (o : Nat) : Nat :=
  let w := owner s o
  if counts w then w.ocyc + (s.clock - w.since) else w.ocyc

/-- The owner's work may run: in RUN, resident, not draining, halted, discarded or saved. -/
def active (s : State) (o : Nat) : Bool :=
  let w := owner s o
  w.running && counts w && !w.discarding && !w.saved

/-- Clocks of one position of a slot table (R161). -/
def posLen (t : Nat) : Nat := if t < 5 then 1 else match t with | 5 => 16 | 8 => 8 | 9 => 3 | _ => 2

/-- A seat holds position `i` of table `t`. -/
def seatHolds (s : State) (seat t i : Nat) : Bool := mfind s.positions (16 * t + i) == some seat && !(t == 9 && i == 15)

/-- `%rota` of an owner for a table (R167). -/
def rota (s : State) (o t : Nat) : BitVec 16 :=
  if seated s o then
    BitVec.ofNat 16 (((List.range 16).filter (seatHolds s (seatOf s o) t)).foldl (fun a i => a + 2 ^ i) 0)
  else 0

/-- Start of the first position of table `t` under a mask at or after a clock; with none, the next boundary. -/
def nextIn (m : BitVec 16) (t clock : Nat) : Nat :=
  let len := posLen t
  let first := (clock + len - 1) / len
  match (List.range 16).find? (fun k => m.getLsbD ((first + k) % 16)) with
  | some k => (first + k) * len
  | none => boundary clock

/-- The same of the owner's positions. -/
def nextPos (s : State) (o t clock : Nat) : Nat := nextIn (rota s o t) t clock

/-- An owner without a position of a table: what waits for one looks again at the next boundary (R164, R166). (DEDUCED, log entry 121) -/
def vacant (s : State) (o t : Nat) : Bool := rota s o t == 0

/-- How many positions under a mask begin at or after a clock and before another, at most the first number. -/
def positionsIn (m : BitVec 16) (t end_ : Nat) : Nat → Nat → Nat
  | 0, _ => 0
  | n + 1, clock => let p := nextIn m t clock; if p < end_ then positionsIn m t end_ n (p + 1) + 1 else 0

/-- Takes the owner's next free position of a table at an instance of its structure. -/
def claimKey (o t inst : Nat) : Nat := (inst * 10 + t) * 32 + o

def claimAt (s : State) (o t inst clock : Nat) : Nat := nextPos s o t (max clock (mget s.claims (claimKey o t inst)))

def claim (s : State) (o t inst clock : Nat) : State :=
  { s with claims := mset s.claims (claimKey o t inst) (claimAt s o t inst clock + posLen t) }

/-- Posts an event at the end of the position so taken. -/
def postClaim (s : State) (o t inst clock : Nat) (e : Instr) : State :=
  post (claim s o t inst clock) (claimAt s o t inst clock + posLen t) e

/-! The walker's positions (R23). -/

/-- Request order of a piece of the walker's work: that of its miss, for a walk the first it serves. -/
def walkAge (s : State) (i : Instr) : Nat :=
  match i with
  | .dieTlbLookup m => m
  | .walkStep w | .walkInstall w => ((s.misses.filter (fun e => e.2.walk == some w)).map (·.1)).foldl min w
  | _ => 0

/-- It is an owner's on a die. -/
def walkWork (s : State) (o die : Nat) (i : Instr) : Bool :=
  match i with
  | .dieTlbLookup m => (match mfind s.misses m with | some x => x.owner == o && x.die == die | none => false)
  | .walkStep w | .walkInstall w => (match mfind s.walks w with | some x => x.owner == o && x.die == die | none => false)
  | _ => false

/-- Work for the walker from a clock: the positions that the owner's pending work holds, and one more, go to it in request
order. (DEDUCED, log entry 10; DEDUCED, log entry 98) -/
def postWalk (s : State) (o die clock : Nat) (e : Instr) : State :=
  let movable (x : Nat × Instr) : Bool := clock + posLen 8 ≤ x.1 && walkWork s o die x.2
  let moved := s.agenda.filter movable
  let works := sortBy (fun a b => walkAge s a ≤ walkAge s b) (moved.map (·.2) ++ [e])
  let dues := moved.map (·.1) ++ [claimAt s o 8 die clock + posLen 8]
  (dues.zip works).foldl (fun s x => post s x.1 x.2)
    { claim s o 8 die clock with agenda := s.agenda.filter (fun x => !movable x) }

/-! Groups. -/

/-- A group's key in its slot. -/
def gkey (die core part slot : Nat) : Nat := ((die * 32 + core) * 4 + part) * 24 + slot
def slotOf (k : Nat) : Nat := k % 24
def partOf (k : Nat) : Nat := k / 24 % 4
def coreOf (k : Nat) : Nat := k / 96 % 32
def dieOf (k : Nat) : Nat := k / 3072
/-- die × 32 + core, and that × 4 + partition. -/
def coreKey (k : Nat) : Nat := k / 96
def partKey (k : Nat) : Nat := k / 24

/-- DESIGN CHOICE, log entry 3. -/
def group (s : State) (k : Nat) : Group := mget s.groups k
def modGroup (s : State) (k : Nat) (f : Group → Group) : State := { s with groups := mmod s.groups k f }
/-- DESIGN CHOICE, log entry 3. -/
def block (s : State) (b : Nat) : Block := mget s.blocks b
def modBlock (s : State) (b : Nat) (f : Block → Block) : State := { s with blocks := mmod s.blocks b f }
def launch (s : State) (l : Nat) : Launch := mget s.launches l
def modLaunch (s : State) (l : Nat) (f : Launch → Launch) : State := { s with launches := mmod s.launches l f }

/-- Registers read (R31, R32). (DESIGN CHOICE, log entry 3) -/
def rv (g : Group) (r l : Nat) : BitVec 32 := mget g.v (32 * r + l)
def rv64 (g : Group) (r l : Nat) : BitVec 64 := rv g (r + 1) l ++ rv g r l
/-- DESIGN CHOICE, log entry 3. -/
def rs (g : Group) (n : Nat) : BitVec 64 := mget g.s n
/-- DESIGN CHOICE, log entry 3. -/
def rp (g : Group) (r l : Nat) : Bool := (mget g.p r).getLsbD l
/-- DESIGN CHOICE, log entry 3. -/
def rk (g : Group) (r : Nat) : Bool := g.k.getLsbD r

def setV (g : Group) (r l : Nat) (x : BitVec 32) : Group :=
  { g with v := mset g.v (32 * r + l) x, reuse := if g.reuse = some r then none else g.reuse }
def setS (g : Group) (n : Nat) (x : BitVec 64) : Group := { g with s := mset g.s n x }
def setP (g : Group) (r l : Nat) (x : Bool) : Group := { g with p := mset g.p r (putBits (mget g.p r) l 1 (b2n x)) }
def setK (g : Group) (r : Nat) (x : Bool) : Group := { g with k := putBits g.k r 1 (b2n x) }

/-- The writes of a pair and of a quad. -/
def wv (r l : Nat) (x : BitVec 32) : List RegWrite := [.v r l x]
def wv64 (r l : Nat) (x : BitVec 64) : List RegWrite := [.v r l (x.extractLsb' 0 32), .v (r + 1) l (x.extractLsb' 32 32)]
def wv128 (r l : Nat) (x : BitVec 128) : List RegWrite :=
  [.v r l (x.extractLsb' 0 32), .v (r + 1) l (x.extractLsb' 32 32), .v (r + 2) l (x.extractLsb' 64 32),
    .v (r + 3) l (x.extractLsb' 96 32)]

/-- A write that lands on the group's own registers. -/
def landGroup (g : Group) : RegWrite → Group
  | .v r l x => setV g r l x
  | .s n x => setS g n x
  | .p r l x => setP g r l x
  | .k r x => setK g r x
  | .sr 0x010 x => { g with fmode := x }
  | .sr 0x011 x => { g with fflags := x }
  | .sr 0x012 x => { g with cpybar := x }
  | .sr 0x014 x => { g with dbgctl := x }
  | .sr _ _ => g
  | .cone _ => g
  | .shape _ _ _ _ => g
  | .q _ _ _ => g

/-! Queues (R34 to R36). -/

def qItems (b : Block) (q : Nat) : List (BitVec 64) := mget b.queues q

/-- An entry is pushed in a turn: others pop it once that turn has ended (R36). (DEDUCED, log entry 21) -/
def qPush (b : Block) (q turn : Nat) (x : BitVec 64) : Block :=
  { b with queues := mset b.queues q (qItems b q ++ [x]), pushes := (turn, q) :: b.pushes.filter (fun e => turn ≤ e.1 + 1) }

/-- The values that vector and scalar registers are given are noted with the launch (R33). -/
def noteWrite (l : Launch) : RegWrite → Launch
  | .v _ _ x => { l with wroteV := x :: l.wroteV }
  | .s _ x => { l with wroteS := x :: l.wroteS }
  | _ => l
def noteWrites (s : State) (l : Nat) (ws : List RegWrite) : State :=
  if (mfind s.launches l).isSome then modLaunch s l (fun x => ws.foldl noteWrite x) else s

/-- A write that lands, registers kept by the launch and by the block included (R296, R327, R328, R371). -/
def land (s : State) (k : Nat) (w : RegWrite) : State :=
  let g := group s k
  match w with
  | .cone n => modLaunch s g.launch (fun l => { l with cones := mmod l.cones (8 * coreKey k + n) (· + 1) })
  | .sr n x =>
    if 0x38 ≤ n ∧ n < 0x40 then
      modLaunch s g.launch (fun l => { l with cones := mset l.cones (8 * coreKey k + (n - 0x38)) x })
    else if 0x30 ≤ n ∧ n < 0x33 then
      modLaunch s g.launch (fun l => { l with trial := mset l.trial (3 * coreKey k + (n - 0x30)) x })
    else modGroup s k (landGroup · w)
  | .shape t lo len x =>
    modBlock s g.block (fun b => { b with tiles := mmod b.tiles t (fun y => { y with shape := putBits y.shape lo len x }) })
  | .q b n x => if (mfind s.blocks b).isSome then modBlock s b (fun y => qPush y n (turnOf s.clock) x) else s
  | _ => modGroup s k (landGroup · w)

/-- A register that is written holds no error any more (R54): its places in `badRegs`, as `badCode` numbers them. -/
def cleanReg (s : State) (k : Nat) (w : RegWrite) : State :=
  let drop (a : Nat) : State := { s with badRegs := s.badRegs.filter (· != (k, a)) }
  match w with
  | .v r l _ => drop (32 * r + l)
  | .s n _ => drop (4096 + n)
  | .p r _ _ => drop (8192 + r)
  | .k r _ => drop (8208 + r)
  | _ => s

/-- A result lands: its flags, then its registers (R175, R190). -/
def landResult (s : State) (r : Result) : State :=
  let s := if r.flags = 0 then s else modGroup s r.g (fun g => { g with fflags := g.fflags ||| r.flags.setWidth 64 })
  let s := noteWrites s (group s r.g).launch r.writes
  r.writes.foldl (fun s w => land (if s.badRegs.isEmpty then s else cleanReg s r.g w) r.g w) s

/-- Sends a result on its way to land in a turn. -/
def postResult (s : State) (r : Result) : State :=
  post (tick { s with results := mset s.results s.nextId r }) (r.turn * 8) (.resultWrite s.nextId)

/-! Fragments and reconvergence. -/

def frag (g : Group) (f : Nat) : Frag := (g.frags.find? (fun x => x.id == f)).getD default
def modFrag (g : Group) (f : Nat) (u : Frag → Frag) : Group :=
  { g with frags := g.frags.map (fun x => if x.id = f then u x else x) }

/-- IDs a group uses: its fragments' and its entries' (R147). (DEDUCED, log entry 9) -/
def usesId (g : Group) (n : Nat) : Bool := g.frags.any (fun x => x.name == n) || g.stack.any (fun e => e.frag == n)
/-- The lowest fragment ID that the group does not use; where it uses all 32, the spec gives none and the model takes 31. (DEDUCED, log entry 9) -/
def freeId (g : Group) : Nat := ((List.range 32).find? (fun n => !usesId g n)).getD 31

/-- The model's name of a fragment that has ID `n`: `n` itself unless another fragment bears it. (DEDUCED, log entry 9) -/
def freeKey (g : Group) (n : Nat) : Nat :=
  if g.frags.any (fun x => x.id == n) then ((List.range 64).find? (fun i => !g.frags.any (fun x => x.id == 64 + i))).getD 0 + 64 else n

/-- The threads of a group. -/
def threads (g : Group) : BitVec 32 := g.frags.foldl (fun m f => m ||| f.mask) 0

/-- The topmost entry that holds a lane (R153): its place, top first. -/
def topEntry (g : Group) (l : Nat) : Option (Nat × RcEntry) :=
  (g.stack.zipIdx.find? (fun e => e.1.mask.getLsbD l)).map (fun e => (e.2, e.1))

/-- Threads of a fragment that stand at the PC of their topmost entry. -/
def arrived (g : Group) (f : Frag) : BitVec 32 :=
  maskOf ((lanesOf f.mask).filter (fun l => match topEntry g l with | some (_, e) => e.pc == f.pc | none => false))

/-- A fragment parks where its threads' topmost entries wait; where only some do, they park apart. -/
def parkOne (g : Group) (f : Frag) : Group :=
  match f.status with
  | .run =>
    let m := arrived g f
    if m = 0 then g
    else if m = f.mask then modFrag g f.id (fun x => { x with status := .parked })
    else
      let g' := modFrag g f.id (fun x => { x with mask := f.mask &&& ~~~m })
      let n := freeId g'
      { g' with frags := g'.frags ++ [{ f with id := freeKey g' n, name := n, parent := f.name, mask := m, status := .parked }] }
  | _ => g

/-- Every thread of the entry at place `i` has arrived or left. -/
def complete (g : Group) (i : Nat) (e : RcEntry) : Bool :=
  (lanesOf e.mask).all (fun l =>
    (match topEntry g l with | some (j, _) => j == i | none => false) &&
    g.frags.any (fun f => f.status == .parked && f.pc == e.pc && f.mask.getLsbD l))

/-- A fragment that keeps its threads outside a popped entry stays as it is. (DEDUCED, log entry 9) -/
def leaveBehind (g : Group) (f : Frag) : Group :=
  if f.mask = 0 then g else { g with frags := g.frags ++ [{ f with id := freeKey g f.id }] }

/-- Pops one complete entry, or discards empty ones (R153). (DEDUCED, log entry 9) -/
def popOne (g : Group) : Group :=
  let g := { g with stack := g.stack.filter (fun e => e.mask != 0) }
  match g.stack.zipIdx.find? (fun e => complete g e.2 e.1) with
  | none => g
  | some (e, i) =>
    let rest := g.frags.filter (fun f => (f.mask &&& e.mask) = 0)
    let old := (g.frags.filter (fun f => (f.mask &&& e.mask) != 0))
    let f0 := old.head?.getD default
    let g := { g with
      stack := g.stack.eraseIdx i
      frags := rest ++ [{ f0 with id := freeKey { g with frags := rest } e.frag, name := e.frag, parent := e.parent, mask := e.mask,
                                  pc := e.pc, status := .run,
                                  notBefore := old.foldl (fun n f => max n f.notBefore) 0 }] }
    (old.map (fun f => { f with mask := f.mask &&& ~~~e.mask })).foldl leaveBehind g

/-- A fragment that waits for a replay takes the replay's threads when they reach its PC (R182). -/
def joinOne (g : Group) (f : Frag) : Group :=
  match f.status with
  | .joining r =>
    match g.frags.find? (fun x => x.id == r) with
    | none => modFrag g f.id (fun x => { x with status := .run })
    | some q =>
      if q.pc = f.pc ∧ q.status = .run then
        let g' := { g with
          frags := g.frags.filter (fun x => x.id != r)
          running := if g.running = some r then some f.id else g.running }
        modFrag g' f.id (fun x => { x with status := .run, mask := x.mask ||| q.mask, notBefore := max x.notBefore q.notBefore })
      else g
  | _ => g

def settleN : Nat → Group → Group
  | 0, g => g
  | n + 1, g =>
    let g := { g with frags := g.frags.filter (fun f => f.mask != 0) }
    let g := g.frags.foldl joinOne g
    let g := g.frags.foldl parkOne g
    settleN n (popOne g)

/-- Parks, pops and discards until nothing changes: the stack holds at most 16 entries. -/
def settle (g : Group) : Group := settleN 17 g

/-- Threads leave a group, its entries and its loop (R151, R225). -/
def removeThreads (g : Group) (m : BitVec 32) : Group :=
  { g with
    frags := g.frags.map (fun f => { f with mask := f.mask &&& ~~~m })
    stack := g.stack.map (fun e => { e with mask := e.mask &&& ~~~m })
    tid := g.tid.filter (fun t => !m.getLsbD t.1)
    loop := g.loop.map (fun p => { p with lanes := p.lanes &&& ~~~m, suspended := p.suspended &&& ~~~m }) }

/-- A set of threads with a common target and the earliest turn of its next issue. -/
structure Dest where
  pc : BitVec 64
  mask : BitVec 32
  turn : Nat
deriving DecidableEq, Repr, Inhabited

/-- Adds a lane to the destinations, which stand in ascending PC. -/
def addDest : List Dest → BitVec 64 → Nat → Nat → List Dest
  | [], pc, l, t => [⟨pc, maskOf [l], t⟩]
  | d :: r, pc, l, t =>
    if d.pc = pc then { d with mask := d.mask ||| maskOf [l] } :: r
    else if pc < d.pc then ⟨pc, maskOf [l], t⟩ :: d :: r
    else d :: addDest r pc l t

/-- New fragments for destinations, in ascending target (R147). -/
def spawn (g : Group) (f : Frag) : List Dest → Group
  | [] => g
  | d :: r =>
    spawn { g with frags := g.frags ++ [{ f with id := freeKey g (freeId g), name := freeId g, parent := f.name, mask := d.mask,
                                                  pc := d.pc, notBefore := d.turn, status := .run, prio := false }] } f r

/-- The split of R147: threads that stay keep the fragment's ID; with none, the set of the lowest lane keeps it. -/
def scatter (g : Group) (f : Frag) (stay : Dest) (moves : List Dest) : Group :=
  let keep := if stay.mask != 0 then stay
    else (moves.find? (fun d => (lanesOf f.mask).head?.any d.mask.getLsbD)).getD stay
  let rest := moves.filter (fun d => d.pc != keep.pc || d.mask != keep.mask)
  let g := modFrag g f.id (fun x => { x with mask := keep.mask, pc := keep.pc, notBefore := keep.turn, status := .run })
  spawn g f rest

/-! Circuits (R73, R78). -/

/-- Wavelengths of the owner's circuits from a die (or port code) to another, as its residency started with them. -/
def circuitWidth (s : State) (o src dst : Nat) : Nat :=
  (((owner s o).circuits.map (fun e => pfGet s (0x20000 + 16 * e))).map (fun w =>
    if ext w 24 4 = src ∧ ext w 20 4 = dst then ((List.range 16).filter (fun i => w.getLsbD i)).length else 0)).sum

/-- The owner holds a lane of a peer port (R90). -/
def hasLane (s : State) (o port : Nat) : Bool := (owner s o).lanes.any (fun l => l / 16 == port)

/-! The executing instruction. -/

/-- What an instruction's meaning reads of the front end: the group with the window's shadow laid over it, the
fragment, the lanes the instruction acts for, and the prefix. -/
structure Ctx where
  k : Nat
  g : Group
  f : Frag
  /-- active lanes: the fragment's, or in a window the speculated threads' -/
  act : BitVec 32
  /-- participating lanes (R240), or the active lanes of a uniform instruction -/
  lanes : BitVec 32
  x : Prefix
  /-- an `xp` is present -/
  prefixed : Bool
  pc : BitVec 64
  next : BitVec 64
  /-- issue turn n (R172) -/
  n : Nat
  o : Nat
  window : Bool
deriving DecidableEq, Repr, Inhabited

/-- A window that is still open for the fragment. (DEDUCED, log entry 23) -/
def openWindow (g : Group) (f : Nat) : Option Window :=
  match g.window with
  | some w => if w.frag = f ∧ w.spec ∧ !w.ended then some w else none
  | none => none

/-- The shadow results that have landed by a turn, in the order in which they land (R175). -/
def Window.landed (w : Window) (n : Nat) : List Shadow := sortBy (fun a b => a.turn ≤ b.turn) (w.shadow.filter (fun e => e.turn ≤ n))

/-- The group as an instruction of the window reads it in a turn (R182). -/
def overlay (g : Group) (w : Window) (n : Nat) : Group := (w.landed n).foldl (fun g e => e.writes.foldl landGroup g) g

/-- The fragment ID that the window's path has once the branch has resolved (R147, R182). (DEDUCED, log entry 23) -/
def Window.pathName (g : Group) (w : Window) (f : Frag) : Nat :=
  if w.onTaken ∧ w.target ≠ w.fall ∧ w.active &&& ~~~w.taken ≠ 0 then freeId g else f.name

def ctx (s : State) : Ctx :=
  let g := group s s.cur.g
  let f := frag g s.cur.frag
  let c : Ctx := ⟨s.cur.g, g, f, f.mask, f.mask, s.pfx.getD default, s.pfx.isSome, s.cur.pc, s.cur.next, s.cur.turn, g.owner, false⟩
  match openWindow g s.cur.frag with
  | some w => { c with g := overlay g w (turnOf s.clock), f := { f with name := w.pathName g f }, act := w.lanes, lanes := w.lanes, window := true }
  | none => c

/-- The launch's flag bits (R144). -/
def launchFlag (s : State) (g : Group) (i : Nat) : Bool := (launch s g.launch).flags.getLsbD i

/-- Extra turns of a causal trial (R372). -/
def trialDelay (s : State) (k : Nat) (pc : BitVec 64) : Nat :=
  let l := launch s (group s k).launch
  let lo := mget l.trial (3 * coreKey k)
  let hi := mget l.trial (3 * coreKey k + 1)
  let d := ext (mget l.trial (3 * coreKey k + 2)) 0 6
  if l.flags.getLsbD 3 ∧ lo < hi ∧ !(lo ≤ pc ∧ pc < hi) then d else 0

/-! Fatal faults (R337 to R340). -/

/-- The detail word of R27. -/
def detailWord (engine : Bool) (lane kind stage level reason : Nat) (okind olevel : Nat) : BitVec 32 :=
  BitVec.ofNat 32 (reason + 16 * level + 64 * stage + 256 * kind + 1024 * lane + 32768 * b2n engine + 65536 * okind +
    262144 * olevel)

/-- The cause codes of R334. -/
def Cause.code : Cause → Nat
  | .illegalOp => 1 | .illegalReg => 2 | .illegalScope => 3 | .misaligned => 4 | .translation => 5 | .permission => 6
  | .stallCheck => 7 | .barrierClobber => 8 | .software => 9 | .breakpoint => 10 | .singleStep => 11
  | .refireExit => 12 | .handleInvalid => 13 | .tileShape => 14 | .divergenceDepth => 15 | .migrateDenied => 16
  | .circuitAbsent => 17 | .migratedAccess => 18 | .uncorrectable => 19 | .sealFormat => 20 | .coilHome => 21

/-- Fatal causes; the others are recoverable (R334). -/
def Cause.fatal : Cause → Bool
  | .translation | .permission | .migrateDenied | .circuitAbsent | .migratedAccess | .uncorrectable | .coilHome => true
  | _ => false

/-- What a trap or fault carries. -/
structure Trap where
  cause : Cause
  info : BitVec 64 := 0
  detail : BitVec 32 := 0
  va : BitVec 64 := 0
deriving DecidableEq, Repr, Inhabited

/-- Causes whose report carries an address (R339). -/
def Cause.addressed : Cause → Bool
  | .translation | .permission | .circuitAbsent | .coilHome | .migrateDenied | .misaligned => true
  | _ => false

/-- The first 0x38 bytes of a fault report (R339). -/
def reportBytes (s : State) (o : Nat) (t : Trap) (pc : BitVec 64) (extra : BitVec 64)
    (blk slot frag parent part lanes others : Nat) : List (BitVec 8) :=
  bytesOf 4 t.cause.code ++ bytesOf 4 t.detail.toNat ++ bytesOf 8 (if t.cause.addressed then t.va.toNat else 0) ++ bytesOf 8 pc.toNat ++
  bytesOf 8 (ocyc s o) ++ bytesOf 8 extra.toNat ++ bytesOf 4 blk ++ bytesOf 1 slot ++ bytesOf 1 (frag % 32) ++
  bytesOf 1 parent ++ bytesOf 1 part ++ bytesOf 4 lanes ++ bytesOf 4 others

/-- Raises a fatal fault: the halt begins, and completes after two whole turns (R337). A fault while another one's
halt is in progress adds nothing. (DEDUCED, log entry 67) -/
def raiseFault (s : State) (o : Nat) (report : List (BitVec 8)) (queue : Option (Nat × Nat × BitVec 8))
    (blk : Option Nat) : State :=
  if (owner s o).halting then s else
  let s := modOwner s o (fun w => { w with halting := true, report := report, faultQueue := queue, faultBlock := blk })
  let s := { s with groups := mall s.groups (fun _ g => if g.owner = o then { g with skid := 0 } else g) }
  postOwner s o ((turnOf s.clock + 3) * 8 - s.clock) (.haltComplete o)

/-- A fatal fault of a group's fragment. (DEDUCED, log entry 46; DEDUCED, log entry 67) -/
def groupFault (s : State) (k f : Nat) (t : Trap) (pc : BitVec 64) (extra : BitVec 64) (engine : Bool) : State :=
  let g := group s k
  let x := frag g f
  let l := launch s g.launch
  let report := reportBytes s g.owner t pc extra g.blkIndex (slotOf k) (if engine then 0 else x.name)
    (if engine then 0 else x.parent) (partOf k) (if engine then 0 else x.mask.toNat)
    (if engine then 0 else (threads g &&& ~~~x.mask).toNat)
  let s := if engine then s else modGroup s k (fun g => modFrag g f (fun y => { y with status := .halted }))
  raiseFault s g.owner report (some (l.queue, 1, BitVec.ofNat 8 t.cause.code)) (some g.block)

/-! Taking an exception (R335, R336) and the operation that returns from one is `ret` (R222). -/

/-- The address at which a trapped fragment resumes (R335). (DEDUCED, log entry 19) -/
def resumeAt (cause : Cause) (pc next : BitVec 64) : BitVec 64 :=
  match cause with
  | .software | .breakpoint | .singleStep => next
  | _ => pc

/-- The registers of R331, and the group's reuse latch, as a recoverable trap of a fragment writes them (R335). (DEDUCED, log entry 102) -/
def noteTrap (g : Group) (f : Nat) (t : Trap) (pc : BitVec 64) : Group :=
  let x := frag g f
  let word := t.cause.code + 256 * (x.name % 32) + 8192 * x.parent + 2 ^ 32 * x.mask.toNat
  { g with
    tcause := BitVec.ofNat 64 word
    tpc := pc
    tinfo := t.info
    tsib := (threads g &&& ~~~x.mask).setWidth 64
    reuse := none }

/-- Entry to the handler: v63, the fragment's PC and its next issue turn (R335, R336); in a loop its threads are suspended
(R229). -/
def enterHandler (g : Group) (f : Nat) (base handler resume : BitVec 64) (n : Nat) : Group :=
  let x := frag g f
  let g := { g with
    loop := g.loop.map (fun p => if (p.lanes &&& x.mask) != 0 then { p with suspended := p.suspended ||| x.mask } else p) }
  let g := (lanesOf x.mask).foldl (fun g l => setV g 63 l ((resume - base).setWidth 32)) g
  modFrag g f (fun x => { x with pc := handler, notBefore := n + 3, since := n, status := .run, prio := false, stepOwed := none })

/-- A trap of a fragment, decided in turn `n` (R144, R334 to R336): a recoverable one enters the launch's handler; a
fatal one, or one with no handler or too far from the code base, ends the owner's work. (DEDUCED, log entry 14; DEDUCED, log entry 102) -/
def takeTrap (s : State) (k f : Nat) (t : Trap) (pc next : BitVec 64) (n : Nat) : State :=
  let l := launch s (group s k).launch
  let resume := resumeAt t.cause pc next
  if t.cause.fatal then groupFault s k f t pc 0 false
  else if l.handler = 0 then groupFault s k f t pc t.info false
  else
    let s := modGroup s k (fun g => noteTrap g f t pc)
    if 2 ^ 32 ≤ (resume - l.entry).toNat then groupFault s k f t pc t.info false
    else
      let s := noteWrites s (group s k).launch [.v 63 0 ((resume - l.entry).setWidth 32)]
      modGroup s k (fun g => enterHandler g f l.entry l.handler resume n)

/-! Engine counters (R118, R119). -/

/-- The outstanding operations of a class: 0 C, 1 X, 2 M, 3 F. -/
def classOps (g : Group) (c : Nat) : List (Nat × Bool) :=
  match c with | 0 => g.classC | 1 => g.classX | 2 => g.classM | _ => g.classF

def setClass (g : Group) (c : Nat) (l : List (Nat × Bool)) : Group :=
  match c with
  | 0 => { g with classC := l } | 1 => { g with classX := l } | 2 => { g with classM := l } | _ => { g with classF := l }

/-- The counter a program sees. -/
def counter (g : Group) (c : Nat) : Nat := (classOps g c).length

def countOp (g : Group) (c id : Nat) : Group := setClass g c (classOps g c ++ [(id, false)])

/-- An operation finishes: it and the finished ones it held back leave the counter in issue order (R119). -/
def finishOp (g : Group) (c id : Nat) : Group :=
  setClass g c (((classOps g c).map (fun e => if e.1 = id then (id, true) else e)).dropWhile (fun e => e.2))

/-- Every class counter reads 0. -/
def idleEngines (g : Group) : Bool := g.classC.isEmpty && g.classX.isEmpty && g.classM.isEmpty && g.classF.isEmpty

end Sys2Proof.Machine
end

