-- ==== Sys2Proof/Machine/Operands.lean ====
section
/-! DEFINITION. The operand forms of every instruction (R201 to R208), the checks made at issue in their order (R211,
R176, R368), what can hold an instruction back (R35, R119, R175), and the two ways an instruction completes. -/

namespace Sys2Proof.Machine

/-- What the guard field names (R203, R204). -/
inductive GuardKind where
  | thread | uniform | selector
  /-- an event row: no word, no guard -/
  | none
deriving DecidableEq, Repr, Inhabited

/-- What an A, B or C field names. -/
inductive Field where
  | none
  /-- a vector register: number, registers of the operand, read, written -/
  | v (n count : Nat) (rd wr : Bool)
  /-- a scalar register or queue, which H extends (R202) -/
  | s (n : Nat) (rd wr : Bool)
  /-- the first of four scalar registers (R301) -/
  | four (n : Nat)
  /-- a scalar register that is no queue: a loop's counter (R228) -/
  | counter (n : Nat)
deriving DecidableEq, Repr, Inhabited

/-- Operands that no H bits extend, and the scope of the instruction's own word. -/
inductive Extra where
  | p (n : Nat) (rd wr : Bool)
  | k (n : Nat) (rd wr : Bool)
  | base (n : Nat)
  | v63 (rd wr : Bool)
  | scope (n : Nat)
deriving DecidableEq, Repr, Inhabited

/-- The use of X12 (R207, R208). -/
inductive XUse where
  | zero
  /-- it extends an immediate: every value is allowed -/
  | imm
  /-- it extends a shift count, with the entry's limit -/
  | shift (f limit : Nat)
  | rounding
  | row
  /-- modifiers: the orders accepted, and whether a scope, a coil and a policy are -/
  | mods (orders : List Nat) (scope coil policy : Bool)
deriving DecidableEq, Repr, Inhabited

/-- An instruction's operand form: guard kind, latency class (1 to 3; 0 = V, R174), the three fields, the rest. -/
structure Shape where
  kind : GuardKind
  cls : Nat
  a : Field
  b : Field
  c : Field
  more : List Extra
  x : XUse
deriving DecidableEq, Repr, Inhabited

/-- An event row's form. -/
def Shape.event : Shape := ⟨.none, 1, .none, .none, .none, [], .zero⟩

/-- Registers that a size code moves (R267). -/
def sizeRegs (z : Nat) : Nat := match z with | 5 => 2 | 6 => 4 | _ => 1

/-- Bytes that a size code moves. -/
def sizeBytes (z : Nat) : Nat := match z with | 0 | 1 => 1 | 2 | 3 => 2 | 4 => 4 | 5 => 8 | _ => 16

/-- Latency classes by function code (R174, R253, R256, R332). -/
def vfunaryClass (f : Nat) : Nat := if f < 2 then 1 else if f = 10 ∨ f = 11 then 2 else 3
def vcvtClass (f : Nat) : Nat := if f ∈ [4, 5, 6, 7, 0x12, 0x13, 0x16] then 2 else 1
def vcvtDst (f : Nat) : Nat := if f ∈ [4, 6, 0x12, 0x13, 0x16] then 2 else 1
def vcvtSrc (f : Nat) : Nat := if f ∈ [5, 7, 0x12, 0x13, 0x16] then 2 else 1
def srdClass (i : Nat) : Nat := if i ∈ [0x013, 0x015, 0x050, 0x051] ∨ (0x38 ≤ i ∧ i < 0x40) then 0 else 1

/-- The registers that `plog` and `klog` name and read (R259). -/
def logOperands (r : Nat → Bool → Bool → Extra) (d a b o : Nat) : List Extra :=
  r d false true :: ((if o < 6 then [r a true false] else []) ++ (if o < 4 then [r b true false] else []))

/-- The operand form of each row. -/
def shapeOf : Instr → Shape
  | .xp _ _ _ _ => ⟨.uniform, 1, .none, .none, .none, [], .zero⟩
  | .bra h _ => ⟨if h.g = 7 then .uniform else .thread, 1, .none, .none, .none, [], .imm⟩
  | .brx _ a => ⟨.thread, 1, .v a.toNat 1 true false, .none, .none, [], .zero⟩
  | .call _ _ => ⟨.thread, 1, .none, .none, .none, [.v63 false true], .imm⟩
  | .ret _ => ⟨.thread, 1, .none, .none, .none, [.v63 true false], .zero⟩
  | .rcv _ _ => ⟨.thread, 1, .none, .none, .none, [], .imm⟩
  | .brk _ _ _ => ⟨.thread, 1, .none, .none, .none, [], .imm⟩
  | .exit _ => ⟨.thread, 1, .none, .none, .none, [], .zero⟩
  | .reform _ _ => ⟨.thread, 1, .none, .none, .none, [], .zero⟩
  | .loop _ _ a => ⟨.uniform, 1, .counter a.toNat, .none, .none, [], .zero⟩
  | .trap _ _ => ⟨.uniform, 1, .none, .none, .none, [], .imm⟩
  | .sadd _ c b a => ⟨.uniform, 1, .s a.toNat false true, .s b.toNat true false, .s c.toNat true false, [], .zero⟩
  | .ssub _ c b a => ⟨.uniform, 1, .s a.toNat false true, .s b.toNat true false, .s c.toNat true false, [], .zero⟩
  | .smul _ c b a => ⟨.uniform, 1, .s a.toNat false true, .s b.toNat true false, .s c.toNat true false, [], .zero⟩
  | .smulhI _ c b a => ⟨.uniform, 1, .s a.toNat false true, .s b.toNat true false, .s c.toNat true false, [], .zero⟩
  | .smulhN _ c b a => ⟨.uniform, 1, .s a.toNat false true, .s b.toNat true false, .s c.toNat true false, [], .zero⟩
  | .sdivN _ c b a => ⟨.uniform, 0, .s a.toNat false true, .s b.toNat true false, .s c.toNat true false, [], .zero⟩
  | .sremN _ c b a => ⟨.uniform, 0, .s a.toNat false true, .s b.toNat true false, .s c.toNat true false, [], .zero⟩
  | .sand _ c b a => ⟨.uniform, 1, .s a.toNat false true, .s b.toNat true false, .s c.toNat true false, [], .zero⟩
  | .sor _ c b a => ⟨.uniform, 1, .s a.toNat false true, .s b.toNat true false, .s c.toNat true false, [], .zero⟩
  | .sxor _ c b a => ⟨.uniform, 1, .s a.toNat false true, .s b.toNat true false, .s c.toNat true false, [], .zero⟩
  | .sshl _ c b a => ⟨.uniform, 1, .s a.toNat false true, .s b.toNat true false, .s c.toNat true false, [], .zero⟩
  | .sshr _ c b a => ⟨.uniform, 1, .s a.toNat false true, .s b.toNat true false, .s c.toNat true false, [], .zero⟩
  | .ssra _ c b a => ⟨.uniform, 1, .s a.toNat false true, .s b.toNat true false, .s c.toNat true false, [], .zero⟩
  | .sminI _ c b a => ⟨.uniform, 1, .s a.toNat false true, .s b.toNat true false, .s c.toNat true false, [], .zero⟩
  | .smaxI _ c b a => ⟨.uniform, 1, .s a.toNat false true, .s b.toNat true false, .s c.toNat true false, [], .zero⟩
  | .sminN _ c b a => ⟨.uniform, 1, .s a.toNat false true, .s b.toNat true false, .s c.toNat true false, [], .zero⟩
  | .smaxN _ c b a => ⟨.uniform, 1, .s a.toNat false true, .s b.toNat true false, .s c.toNat true false, [], .zero⟩
  | .saddi _ _ b a => ⟨.uniform, 1, .s a.toNat false true, .s b.toNat true false, .none, [], .imm⟩
  | .smovi _ _ a => ⟨.uniform, 1, .s a.toNat false true, .none, .none, [], .imm⟩
  | .sins _ _ a => ⟨.uniform, 1, .s a.toNat true true, .none, .none, [], .imm⟩
  | .scmp _ c b _ k => ⟨.uniform, 1, .none, .s b.toNat true false, .s c.toNat true false, [.k k.toNat false true], .zero⟩
  | .smov _ b a => ⟨.uniform, 1, .s a.toNat false true, .s b.toNat true false, .none, [], .zero⟩
  | .sunary _ _ b a => ⟨.uniform, 1, .s a.toNat false true, .s b.toNat true false, .none, [], .zero⟩
  | .srd _ i a => ⟨.uniform, (srdClass i.toNat), .s a.toNat false true, .none, .none, [], .zero⟩
  | .swr _ _ a => ⟨.uniform, 1, .s a.toNat true false, .none, .none, [], .zero⟩
  | .sgetl _ _ b a => ⟨.uniform, 1, .s a.toNat false true, .v b.toNat 1 true false, .none, [], .zero⟩
  | .sshli _ f b a => ⟨.uniform, 1, .s a.toNat false true, .s b.toNat true false, .none, [], .shift f.toNat 63⟩
  | .sshri _ f b a => ⟨.uniform, 1, .s a.toNat false true, .s b.toNat true false, .none, [], .shift f.toNat 63⟩
  | .vadd _ c b a => ⟨.thread, 1, .v a.toNat 1 false true, .v b.toNat 1 true false, .v c.toNat 1 true false, [], .zero⟩
  | .vsub _ c b a => ⟨.thread, 1, .v a.toNat 1 false true, .v b.toNat 1 true false, .v c.toNat 1 true false, [], .zero⟩
  | .vmul _ c b a => ⟨.thread, 1, .v a.toNat 1 false true, .v b.toNat 1 true false, .v c.toNat 1 true false, [], .zero⟩
  | .vmulhI _ c b a => ⟨.thread, 2, .v a.toNat 1 false true, .v b.toNat 1 true false, .v c.toNat 1 true false, [], .zero⟩
  | .vmulhN _ c b a => ⟨.thread, 2, .v a.toNat 1 false true, .v b.toNat 1 true false, .v c.toNat 1 true false, [], .zero⟩
  | .vmad _ c b a => ⟨.thread, 1, .v a.toNat 1 true true, .v b.toNat 1 true false, .v c.toNat 1 true false, [], .zero⟩
  | .vand _ c b a => ⟨.thread, 1, .v a.toNat 1 false true, .v b.toNat 1 true false, .v c.toNat 1 true false, [], .zero⟩
  | .vor _ c b a => ⟨.thread, 1, .v a.toNat 1 false true, .v b.toNat 1 true false, .v c.toNat 1 true false, [], .zero⟩
  | .vxor _ c b a => ⟨.thread, 1, .v a.toNat 1 false true, .v b.toNat 1 true false, .v c.toNat 1 true false, [], .zero⟩
  | .vshl _ c b a => ⟨.thread, 1, .v a.toNat 1 false true, .v b.toNat 1 true false, .v c.toNat 1 true false, [], .zero⟩
  | .vshr _ c b a => ⟨.thread, 1, .v a.toNat 1 false true, .v b.toNat 1 true false, .v c.toNat 1 true false, [], .zero⟩
  | .vsra _ c b a => ⟨.thread, 1, .v a.toNat 1 false true, .v b.toNat 1 true false, .v c.toNat 1 true false, [], .zero⟩
  | .vminI _ c b a => ⟨.thread, 1, .v a.toNat 1 false true, .v b.toNat 1 true false, .v c.toNat 1 true false, [], .zero⟩
  | .vmaxI _ c b a => ⟨.thread, 1, .v a.toNat 1 false true, .v b.toNat 1 true false, .v c.toNat 1 true false, [], .zero⟩
  | .vminN _ c b a => ⟨.thread, 1, .v a.toNat 1 false true, .v b.toNat 1 true false, .v c.toNat 1 true false, [], .zero⟩
  | .vmaxN _ c b a => ⟨.thread, 1, .v a.toNat 1 false true, .v b.toNat 1 true false, .v c.toNat 1 true false, [], .zero⟩
  | .vaddI64 _ c b a => ⟨.thread, 1, .v a.toNat 2 false true, .v b.toNat 2 true false, .v c.toNat 2 true false, [], .zero⟩
  | .vsubI64 _ c b a => ⟨.thread, 1, .v a.toNat 2 false true, .v b.toNat 2 true false, .v c.toNat 2 true false, [], .zero⟩
  | .vmadwN _ c b a => ⟨.thread, 2, .v a.toNat 2 true true, .v b.toNat 1 true false, .v c.toNat 1 true false, [], .zero⟩
  | .vdot4I8 _ c b a => ⟨.thread, 2, .v a.toNat 1 true true, .v b.toNat 1 true false, .v c.toNat 1 true false, [], .zero⟩
  | .vdot8I4 _ c b a => ⟨.thread, 2, .v a.toNat 1 true true, .v b.toNat 1 true false, .v c.toNat 1 true false, [], .zero⟩
  | .vaddi _ _ b a => ⟨.thread, 1, .v a.toNat 1 false true, .v b.toNat 1 true false, .none, [], .imm⟩
  | .vshli _ f b a => ⟨.thread, 1, .v a.toNat 1 false true, .v b.toNat 1 true false, .none, [], .shift f.toNat 31⟩
  | .vshri _ f b a => ⟨.thread, 1, .v a.toNat 1 false true, .v b.toNat 1 true false, .none, [], .shift f.toNat 31⟩
  | .vsrai _ f b a => ⟨.thread, 1, .v a.toNat 1 false true, .v b.toNat 1 true false, .none, [], .shift f.toNat 31⟩
  | .vmovi _ _ a => ⟨.thread, 1, .v a.toNat 1 false true, .none, .none, [], .imm⟩
  | .vins _ _ a => ⟨.thread, 1, .v a.toNat 1 true true, .none, .none, [], .imm⟩
  | .vcmp _ c b _ p => ⟨.thread, 1, .none, .v b.toNat 1 true false, .v c.toNat 1 true false, [.p p.toNat false true], .zero⟩
  | .vsel h c b a => ⟨.selector, 1, .v a.toNat 1 false true, .v b.toNat 1 true false, .v c.toNat 1 true false, [.p h.g.toNat true false], .zero⟩
  | .vunary _ _ b a => ⟨.thread, 1, .v a.toNat 1 false true, .v b.toNat 1 true false, .none, [], .zero⟩
  | .vbcst _ f b a => ⟨.thread, 1, .v a.toNat (if f.toNat = 1 then 2 else 1) false true, .s b.toNat true false, .none, [], .zero⟩
  | .vfadd _ c b a => ⟨.thread, 1, .v a.toNat 1 false true, .v b.toNat 1 true false, .v c.toNat 1 true false, [], .zero⟩
  | .vfsub _ c b a => ⟨.thread, 1, .v a.toNat 1 false true, .v b.toNat 1 true false, .v c.toNat 1 true false, [], .zero⟩
  | .vfmul _ c b a => ⟨.thread, 1, .v a.toNat 1 false true, .v b.toNat 1 true false, .v c.toNat 1 true false, [], .zero⟩
  | .vffma _ c b a => ⟨.thread, 1, .v a.toNat 1 true true, .v b.toNat 1 true false, .v c.toNat 1 true false, [], .zero⟩
  | .vfmin _ c b a => ⟨.thread, 1, .v a.toNat 1 false true, .v b.toNat 1 true false, .v c.toNat 1 true false, [], .zero⟩
  | .vfmax _ c b a => ⟨.thread, 1, .v a.toNat 1 false true, .v b.toNat 1 true false, .v c.toNat 1 true false, [], .zero⟩
  | .vfaddF64 _ c b a => ⟨.thread, 2, .v a.toNat 2 false true, .v b.toNat 2 true false, .v c.toNat 2 true false, [], .zero⟩
  | .vfmulF64 _ c b a => ⟨.thread, 2, .v a.toNat 2 false true, .v b.toNat 2 true false, .v c.toNat 2 true false, [], .zero⟩
  | .vffmaF64 _ c b a => ⟨.thread, 2, .v a.toNat 2 true true, .v b.toNat 2 true false, .v c.toNat 2 true false, [], .zero⟩
  | .vfaddH2 _ c b a => ⟨.thread, 1, .v a.toNat 1 false true, .v b.toNat 1 true false, .v c.toNat 1 true false, [], .zero⟩
  | .vfmulH2 _ c b a => ⟨.thread, 1, .v a.toNat 1 false true, .v b.toNat 1 true false, .v c.toNat 1 true false, [], .zero⟩
  | .vffmaH2 _ c b a => ⟨.thread, 1, .v a.toNat 1 true true, .v b.toNat 1 true false, .v c.toNat 1 true false, [], .zero⟩
  | .vfdot2Bh _ c b a => ⟨.thread, 2, .v a.toNat 1 true true, .v b.toNat 1 true false, .v c.toNat 1 true false, [], .zero⟩
  | .vfcmp _ c b _ p => ⟨.thread, 1, .none, .v b.toNat 1 true false, .v c.toNat 1 true false, [.p p.toNat false true], .zero⟩
  | .vfcmpF64 _ c b _ p => ⟨.thread, 2, .none, .v b.toNat 2 true false, .v c.toNat 2 true false, [.p p.toNat false true], .zero⟩
  | .vfunary _ f b a => ⟨.thread, (vfunaryClass f.toNat), .v a.toNat (if f.toNat ≥ 10 then 2 else 1) false true, .v b.toNat (if f.toNat ≥ 10 then 2 else 1) true false, .none, [], .zero⟩
  | .vfdiv _ c b a => ⟨.thread, 0, .v a.toNat 1 false true, .v b.toNat 1 true false, .v c.toNat 1 true false, [], .zero⟩
  | .vfdivF64 _ c b a => ⟨.thread, 0, .v a.toNat 2 false true, .v b.toNat 2 true false, .v c.toNat 2 true false, [], .zero⟩
  | .vcvt _ f b a => ⟨.thread, (vcvtClass f.toNat), .v a.toNat (vcvtDst f.toNat) false true, .v b.toNat (vcvtSrc f.toNat) true false, .none, [], .rounding⟩
  | .vpkH2 _ c b a => ⟨.thread, 1, .v a.toNat 1 false true, .v b.toNat 1 true false, .v c.toNat 1 true false, [], .zero⟩
  | .vpkBh2 _ c b a => ⟨.thread, 1, .v a.toNat 1 false true, .v b.toNat 1 true false, .v c.toNat 1 true false, [], .zero⟩
  | .vpkI16 _ c b a => ⟨.thread, 1, .v a.toNat 1 false true, .v b.toNat 1 true false, .v c.toNat 1 true false, [], .zero⟩
  | .plog _ q p o d => ⟨.thread, 1, .none, .none, .none, logOperands Extra.p d.toNat p.toNat q.toNat o.toNat, .zero⟩
  | .klog _ q p o d => ⟨.uniform, 1, .none, .none, .none, logOperands Extra.k d.toNat p.toNat q.toNat o.toNat, .zero⟩
  | .vote _ _ p a => ⟨.thread, 1, .s a.toNat false true, .none, .none, [.p p.toNat true false], .zero⟩
  | .vshfl _ c b a => ⟨.thread, 2, .v a.toNat 1 false true, .v b.toNat 1 true false, .v c.toNat 1 true false, [], .zero⟩
  | .vxorl _ _ b a => ⟨.thread, 1, .v a.toNat 1 false true, .v b.toNat 1 true false, .none, [], .zero⟩
  | .vrotl _ _ b a => ⟨.thread, 1, .v a.toNat 1 false true, .v b.toNat 1 true false, .none, [], .zero⟩
  | .vredu _ _ b a => ⟨.thread, 3, .s a.toNat false true, .v b.toNat 1 true false, .none, [], .zero⟩
  | .vscan _ _ b a => ⟨.thread, 3, .v a.toNat 1 false true, .v b.toNat 1 true false, .none, [], .zero⟩
  | .vrd _ _ a => ⟨.thread, 1, .v a.toNat 1 false true, .none, .none, [], .zero⟩
  | .vld _ z w b a => ⟨.thread, 0, .v a.toNat (sizeRegs z.toNat) false true, .v b.toNat 1 true false, .none, [.base w.toNat], .mods [0, 1] true false true⟩
  | .vst _ z w b a => ⟨.thread, 1, .v a.toNat (sizeRegs z.toNat) true false, .v b.toNat 1 true false, .none, [.base w.toNat], .mods [0, 2] true true true⟩
  | .lds _ z w b a => ⟨.thread, 0, .v a.toNat (sizeRegs z.toNat) false true, .v b.toNat 1 true false, .none, [.base w.toNat], .mods [0, 1] true false false⟩
  | .sts _ z w b a => ⟨.thread, 1, .v a.toNat (sizeRegs z.toNat) true false, .v b.toNat 1 true false, .none, [.base w.toNat], .mods [0, 2] true false false⟩
  | .sld _ _ b a => ⟨.uniform, 0, .s a.toNat false true, .s b.toNat true false, .none, [], .mods [0, 1] true false true⟩
  | .sst _ _ b a => ⟨.uniform, 1, .s a.toNat true false, .s b.toNat true false, .none, [], .mods [0, 2] true true true⟩
  | .vatom _ _ w b a => ⟨.thread, 0, .v a.toNat 1 true true, .v b.toNat 1 true false, .none, [.base w.toNat], .mods [0, 1, 2, 3] true true true⟩
  | .vcas _ z w b a => ⟨.thread, 0, .v a.toNat (if z.toNat = 5 then 4 else 2) true true, .v b.toNat 1 true false, .none, [.base w.toNat], .mods [0, 1, 2, 3] true true true⟩
  | .fence _ _ c => ⟨.thread, 1, .none, .none, .none, [.scope c.toNat], .mods [0] false false false⟩
  | .lbind _ c b a => ⟨.uniform, 1, .s a.toNat true false, .s b.toNat true false, .s c.toNat true false, [], .mods [0] false false false⟩
  | .lacq _ t c b => ⟨.uniform, 0, .none, .s b.toNat true false, .none, (if t.toNat = 1 then [.k 0 false true, .scope c.toNat] else [.scope c.toNat]), .mods [0] false false false⟩
  | .lrel _ c b => ⟨.uniform, 1, .none, .s b.toNat true false, .none, [.scope c.toNat], .mods [0] false false false⟩
  | .barInit _ b a => ⟨.uniform, 1, .s a.toNat true false, .s b.toNat true false, .none, [], .mods [0] false false false⟩
  | .barArrive _ b => ⟨.uniform, 1, .none, .s b.toNat true false, .none, [], .mods [0] false false false⟩
  | .barExpin _ b a => ⟨.uniform, 1, .s a.toNat true false, .s b.toNat true false, .none, [], .mods [0] false false false⟩
  | .barExpout _ b a => ⟨.uniform, 1, .s a.toNat true false, .s b.toNat true false, .none, [], .mods [0] false false false⟩
  | .barWait _ b a => ⟨.uniform, 1, .s a.toNat true false, .s b.toNat true false, .none, [], .mods [0] false false false⟩
  | .barTest _ b a => ⟨.uniform, 0, .s a.toNat true false, .s b.toNat true false, .none, [.k 0 false true], .mods [0] false false false⟩
  | .monArm _ b => ⟨.uniform, 1, .none, .s b.toNat true false, .none, [], .mods [0] false false false⟩
  | .monWait _ a => ⟨.uniform, 1, .s a.toNat true false, .none, .none, [], .mods [0] false false false⟩
  | .monClr _ => ⟨.uniform, 1, .none, .none, .none, [], .mods [0] false false false⟩
  | .waitc _ _ _ => ⟨.uniform, 1, .none, .none, .none, [], .mods [0] false false false⟩
  | .cpy _ _ d e b a => ⟨.thread, 1, .v a.toNat 1 true false, .v b.toNat 1 true false, .none, [.base d.toNat, .base (e.toNat + 4)], .mods [0] false false true⟩
  | .bcpy _ c b a => ⟨.uniform, 1, .s a.toNat true false, .s b.toNat true false, .s c.toNat true false, [], .mods [0] false true true⟩
  | .coilOpen _ b _ => ⟨.uniform, 1, .none, .s b.toNat true false, .none, [], .mods [0] false false false⟩
  | .coilClose _ _ => ⟨.uniform, 1, .none, .none, .none, [], .mods [0] false false false⟩
  | .coilDrain _ _ => ⟨.uniform, 1, .none, .none, .none, [], .mods [0] false false false⟩
  | .mig _ b => ⟨.uniform, 1, .none, .s b.toNat true false, .none, [], .mods [0] false false false⟩
  | .tcfg _ _ b _ => ⟨.uniform, 1, .none, .s b.toNat true false, .none, [], .zero⟩
  | .tld _ c b _ => ⟨.uniform, 1, .none, .s b.toNat true false, .four c.toNat, [], .zero⟩
  | .tst _ c b _ => ⟨.uniform, 1, .none, .s b.toNat true false, .four c.toNat, [], .zero⟩
  | .mma _ _ _ _ _ => ⟨.uniform, 1, .none, .none, .none, [], .zero⟩
  | .talloc _ b => ⟨.uniform, 0, .none, .s b.toNat true false, .none, [.k 0 false true], .zero⟩
  | .tfree _ b => ⟨.uniform, 1, .none, .s b.toNat true false, .none, [], .zero⟩
  | .tzero _ _ => ⟨.uniform, 0, .none, .none, .none, [], .zero⟩
  | .trowget _ _ a => ⟨.uniform, 0, .v a.toNat 1 false true, .none, .none, [], .row⟩
  | .trowset _ _ a => ⟨.uniform, 0, .v a.toNat 1 true false, .none, .none, [], .row⟩
  | .sealTensor _ b a => ⟨.uniform, 0, .s a.toNat false true, .s b.toNat true false, .none, [], .zero⟩
  | .sealRefire _ b a => ⟨.uniform, 0, .s a.toNat false true, .s b.toNat true false, .none, [], .zero⟩
  | .sealFree _ b => ⟨.uniform, 0, .none, .s b.toNat true false, .none, [], .zero⟩
  | .rfireGo _ b => ⟨.uniform, 1, .none, .s b.toNat true false, .none, [], .zero⟩
  | .rfireStat _ b a => ⟨.uniform, 0, .s a.toNat false true, .s b.toNat true false, .none, [], .zero⟩
  | .rfireAbort _ b => ⟨.uniform, 1, .none, .s b.toNat true false, .none, [], .zero⟩
  | .nop _ => ⟨.uniform, 1, .none, .none, .none, [], .zero⟩
  | .yield _ => ⟨.uniform, 1, .none, .none, .none, [], .zero⟩
  | .ifence _ => ⟨.uniform, 1, .none, .none, .none, [], .zero⟩
  | .prog _ _ => ⟨.uniform, 1, .none, .none, .none, [], .zero⟩
  | .bkpt _ _ => ⟨.uniform, 1, .none, .none, .none, [], .zero⟩
  | .csum _ _ => ⟨.uniform, 1, .none, .none, .none, [], .zero⟩
  | .wsync _ => ⟨.uniform, 1, .none, .none, .none, [], .zero⟩
  | .stchk _ _ => ⟨.uniform, 1, .none, .none, .none, [], .zero⟩
  | .vmov16 b a => ⟨.thread, 1, .v a.toNat 1 false true, .v b.toNat 1 true false, .none, [], .zero⟩
  | .vadd16 b a => ⟨.thread, 1, .v a.toNat 1 true true, .v b.toNat 1 true false, .none, [], .zero⟩
  | .vsub16 b a => ⟨.thread, 1, .v a.toNat 1 true true, .v b.toNat 1 true false, .none, [], .zero⟩
  | .vand16 b a => ⟨.thread, 1, .v a.toNat 1 true true, .v b.toNat 1 true false, .none, [], .zero⟩
  | .vor16 b a => ⟨.thread, 1, .v a.toNat 1 true true, .v b.toNat 1 true false, .none, [], .zero⟩
  | .vxor16 b a => ⟨.thread, 1, .v a.toNat 1 true true, .v b.toNat 1 true false, .none, [], .zero⟩
  | .vshli16 _ a => ⟨.thread, 1, .v a.toNat 1 true true, .none, .none, [], .zero⟩
  | .vshri16 _ a => ⟨.thread, 1, .v a.toNat 1 true true, .none, .none, [], .zero⟩
  | .vfadd16 b a => ⟨.thread, 1, .v a.toNat 1 true true, .v b.toNat 1 true false, .none, [], .zero⟩
  | .vfmul16 b a => ⟨.thread, 1, .v a.toNat 1 true true, .v b.toNat 1 true false, .none, [], .zero⟩
  | .vaddi16 _ a => ⟨.thread, 1, .v a.toNat 1 true true, .none, .none, [], .zero⟩
  | .vmovi16 _ a => ⟨.thread, 1, .v a.toNat 1 false true, .none, .none, [], .zero⟩
  | .vldB3216 b a => ⟨.thread, 0, .v a.toNat 1 false true, .v b.toNat 1 true false, .none, [.base 0], .zero⟩
  | .vstB3216 b a => ⟨.thread, 1, .v a.toNat 1 true false, .v b.toNat 1 true false, .none, [.base 0], .zero⟩
  | .nop16 => ⟨.uniform, 1, .none, .none, .none, [], .zero⟩
  | .yield16 => ⟨.uniform, 1, .none, .none, .none, [], .zero⟩
  | .ret16 => ⟨.thread, 1, .none, .none, .none, [.v63 true false], .zero⟩
  | .exit16 => ⟨.thread, 1, .none, .none, .none, [], .zero⟩
  | .ifence16 => ⟨.uniform, 1, .none, .none, .none, [], .zero⟩
  | .jmpS _ => ⟨.uniform, 1, .none, .none, .none, [], .zero⟩
  | .commandRead _ _ => .event
  | .launch _ _ => .event
  | .signal _ _ => .event
  | .wait _ _ => .event
  | .inval _ _ => .event
  | .replay _ _ => .event
  | .fenceCommand _ _ => .event
  | .launchStart _ _ => .event
  | .launchStartEnd _ => .event
  | .laterPlacementEnd _ _ => .event
  | .blockEndTimeEnd _ => .event
  | .launchCompletion _ => .event
  | .launchCompletionEnd _ => .event
  | .vfWriteTakeIn _ => .event
  | .queueRestart _ _ => .event
  | .circuitSetupElapsed _ => .event
  | .saveRequestTakeIn _ => .event
  | .preemptionHaltDone _ => .event
  | .worldSwitchEnd _ => .event
  | .imageDrained _ => .event
  | .eventRingDoorbell _ _ => .event
  | .dirtyLogEpoch _ => .event
  | .memoryWipeComplete _ => .event
  | .quantumBoundary _ => .event
  | .residencyStart _ => .event
  | .seatBoundary _ => .event
  | .saggarTimeout _ _ _ _ => .event
  | .fragmentPriority _ _ => .event
  | .branchResolution _ _ => .event
  | .resultWrite _ => .event
  | .haltComplete _ => .event
  | .monWaitTimeout _ _ => .event
  | .monitorWake _ _ => .event
  | .latchGrant _ => .event
  | .barrierWake _ _ => .event
  | .drainStep _ => .event
  | .coreTlbLookup _ => .event
  | .dieTlbLookup _ => .event
  | .walkStep _ => .event
  | .walkReadReturn _ => .event
  | .walkInstall _ => .event
  | .lspAccess _ => .event
  | .l2Access _ => .event
  | .l2FillArrival _ => .event
  | .channelAccess _ _ _ => .event
  | .refresh _ => .event
  | .scrubStep _ _ => .event
  | .pfMemoryAccess _ _ => .event
  | .circuitMessageArrival _ => .event
  | .loadDataArrival _ => .event
  | .cpyLineRead _ => .event
  | .bcpyLineRead _ => .event
  | .engineWritePresent _ => .event
  | .tileTransferStart _ => .event
  | .tldDataArrival _ => .event
  | .tldRetire _ => .event
  | .mmaPosition _ => .event
  | .tfreeWipe _ _ => .event
  | .refireRunStart _ => .event
  | .refireStep _ => .event
  | .coilDrainComplete _ => .event
  | .landingRequestArrival _ => .event
  | .landingGrantArrival _ => .event
  | .migrationStateArrival _ => .event
  | .landingInstall _ => .event
  | .invalRemoval _ _ => .event
  | .invalComplete _ => .event
  | .fullWipeComplete => .event
  | .eventRecordSlot _ => .event
  | .notify _ _ _ => .event
  | .registerWrite _ _ _ => .event
  | .partitionEntryWrite _ _ _ => .event
  | .seatWordWrite _ _ => .event
  | .ownctlRun _ => .event
  | .ownctlUnlock _ => .event
  | .stage2Invalidation _ _ => .event
  | .connectionTableWrite _ _ => .event
  | .slotTableWrite _ _ _ => .event
  | .contextSave _ => .event
  | .contextRestore _ _ => .event
  | .lifecycleToBlank _ _ => .event
  | .lifecycleToProvisioned _ _ => .event
  | .lifecycleToDeployed _ _ => .event
  | .lifecycleToRma _ _ => .event
  | .pwrlimWrite _ => .event
  | .getTdispVersion _ => .event
  | .getTdispCapabilities _ => .event
  | .lockInterfaceRequest _ => .event
  | .getDeviceInterfaceReport _ => .event
  | .getDeviceInterfaceState _ => .event
  | .startInterfaceRequest _ => .event
  | .stopInterfaceRequest _ => .event
  | .spdmMessage _ => .event
  | .debugToken _ _ _ _ => .event
  | .hold _ _ _ _ => .event
  | .release _ _ _ _ => .event
  | .step _ _ _ _ _ => .event
  | .bpset _ _ _ _ _ _ => .event
  | .read _ _ _ => .event
  | .freeze => .event
  | .thaw => .event
  | .frzNLow => .event
  | .frzNHigh => .event
  | .reset _ => .event
  | .vfFlr _ => .event
  | .pfFlr => .event
  | .thermalThrottle => .event
  | .thermalRecover => .event
  | .thermalShutdown => .event
  | .clockStep _ _ => .event
  | .peerLinkUp _ _ => .event
  | .peerLinkDown _ => .event
  | .hostMemoryRequest _ _ _ _ _ _ _ => .event
  | .peerRequest _ _ _ _ _ _ => .event
  | .externalReply _ _ _ => .event
  | .softError _ _ _ _ => .event
  | .pfMemoryRequest _ _ _ _ _ => .event

/-! Register numbers. -/

/-- N of a scalar field under its prefix bits (R202). -/
def numN (h : BitVec 2) (n : Nat) : Nat := 64 * h.toNat + n
/-- N names a queue register. -/
def isQueue (n : Nat) : Bool := 56 ≤ n && n < 64
/-- The scalar register that N names. -/
def sregOf (n : Nat) : Nat := if n < 64 then n else n - 8
/-- N can be named in the group (R32). -/
def scalarOk (g : Group) (n : Nat) : Bool := isQueue n || (n < 168 && sregOf n < g.scount)
/-- A vector register or an aligned pair or quad of them can be named (R31, R202). -/
def vectorOk (g : Group) (n count : Nat) : Bool :=
  n % count == 0 && (List.range count).all (fun i => n + i < g.budget || n + i == 63)

/-- A field under the prefix bits of its place. -/
def extend (h : BitVec 2) : Field → Field
  | .s n r w => .s (numN h n) r w
  | .four n => .four (numN h n)
  | .counter n => .counter (numN h n)
  | f => f

/-- Prefix bits on a field that is no register (R206). -/
def hIllegal (h : BitVec 2) (f : Field) : Bool := h != 0 && f == .none
/-- Prefix bits on a vector field (R206). -/
def hOnVector (h : BitVec 2) : Field → Bool
  | .v _ _ _ _ => h != 0
  | _ => false

/-- X12 holds a value that R207 or R208 refuses. A scope from 10 to 15 is decided later. -/
def xIllegal (x : BitVec 12) : XUse → Bool
  | .zero => x != 0
  | .imm => false
  | .shift f limit => x.toNat * 64 + f > limit
  | .rounding => x.toNat > 5
  | .row => x.toNat > 31
  | .mods orders scope coil policy =>
    x.getLsbD 11 || !orders.contains (ext x 4 2) || (!coil && ext x 6 3 != 0) || (!policy && ext x 9 2 != 0) ||
    (!scope && 0 < ext x 0 4 && ext x 0 4 < 10)

/-- X12's scope field names no scope (R95). -/
def xScope (x : BitVec 12) : XUse → Bool
  | .mods _ _ _ _ => 10 ≤ ext x 0 4
  | _ => false

def fieldOk (g : Group) : Field → Bool
  | .none => true
  | .v n count _ _ => vectorOk g n count
  | .s n _ _ => scalarOk g n
  | .four n => !isQueue n && n < 165 && sregOf n + 3 < g.scount
  | .counter n => !isQueue n && scalarOk g n

def extraOk (g : Group) : Extra → Bool
  | .p n _ _ => n < 7
  | .k n _ _ => n < 7
  | .base n => n < g.scount
  | .v63 _ _ => true
  | .scope _ => true

def scopeOk : Extra → Bool
  | .scope n => n < 10
  | _ => true

/-- Rows that trap ILLEGAL_OP when they issue from a loop buffer (R228, R329). -/
def loopForbidden : Instr → Bool
  | .brx _ _ | .call _ _ | .ret _ | .ret16 | .rcv _ _ | .reform _ _ | .loop _ _ _ | .trap _ _ | .mig _ _
  | .ifence _ | .ifence16 | .bkpt _ _ => true
  | _ => false

/-- The decode checks of R211 that an instruction's registers and prefix decide, in its order, then those of a loop's body
(R228). -/
def issueDefect (s : State) (c : Ctx) (i : Instr) : Option Cause :=
  let h := shapeOf i
  let x := c.x
  if (defectOf i).isSome then some .illegalOp
  else if hIllegal x.ha h.a || hIllegal x.hb h.b || hIllegal x.hc h.c || xIllegal x.x h.x then some .illegalOp
  else if hOnVector x.ha h.a || hOnVector x.hb h.b || hOnVector x.hc h.c then some .illegalReg
  else if !(fieldOk c.g (extend x.ha h.a) && fieldOk c.g (extend x.hb h.b) && fieldOk c.g (extend x.hc h.c) &&
    h.more.all (extraOk c.g)) then some .illegalReg
  else if xScope x.x h.x || !h.more.all scopeOk then some .illegalScope
  else if s.cur.looped && (loopForbidden i || (match c.g.loop with | some p => p.stop < c.next | none => false)) then
    some .illegalOp
  else none

/-! The registers an instruction touches: kind, number, written. -/

def fieldRegs : Field → List (RegKind × Nat × Bool)
  | .none => []
  | .v n count _ w => (List.range count).map (fun i => (.v, n + i, w))
  | .s n _ w => if isQueue n then [] else [(.s, sregOf n, w)]
  | .four n => (List.range 4).map (fun i => (.s, sregOf n + i, false))
  | .counter n => [(.s, sregOf n, false)]

def extraRegs : Extra → List (RegKind × Nat × Bool)
  | .p n _ w => [(.p, n, w)]
  | .k n _ w => [(.k, n, w)]
  | .base n => [(.s, n, false)]
  | .v63 _ w => [(.v, 63, w)]
  | .scope _ => []

/-- The guard's register. -/
def guardRegs (kind : GuardKind) (g : BitVec 3) : List (RegKind × Nat × Bool) :=
  if g = 7 then [] else match kind with
  | .thread => [(.p, g.toNat, false)]
  | .uniform => [(.k, g.toNat, false)]
  | _ => []

def touched (i : Instr) (h : Hdr) (x : Prefix) : List (RegKind × Nat × Bool) :=
  let p := shapeOf i
  (match i with | .reform _ a => (List.range (a.toNat + 1)).map (fun r => (.v, r, false)) | _ => []) ++
  guardRegs p.kind h.g ++ fieldRegs (extend x.ha p.a) ++ fieldRegs (extend x.hb p.b) ++ fieldRegs (extend x.hc p.c) ++
    p.more.flatMap extraRegs

/-- The counter that the instruction decrements: it is the last of its loop's body (R227). -/
def edgeOf (s : State) (g : Group) : Option Nat :=
  if s.cur.looped then g.loop.bind (fun p => if s.cur.next = p.stop then some p.ctr else none) else none

/-- The registers an instruction touches where it stands. -/
def touchedAt (s : State) (g : Group) (i : Instr) (h : Hdr) (x : Prefix) : List (RegKind × Nat × Bool) :=
  touched i h x ++ ((edgeOf s g).toList.map (fun n => (.s, n, true)))

def writeReg : RegWrite → Option (RegKind × Nat)
  | .v r _ _ => some (.v, r)
  | .s n _ => some (.s, n)
  | .p r _ _ => some (.p, r)
  | .k r _ => some (.k, r)
  | _ => none

/-- Registers that wait for a class V result: of results under way and of accesses in flight (R175). (DEDUCED, log entry 21) -/
def heldRegs (s : State) (k : Nat) : List (RegKind × Nat) :=
  (match (group s k).window with
   | some w => w.shadow.flatMap (fun e => if e.held ∧ turnOf s.clock < e.turn then e.writes.filterMap writeReg else [])
   | none => []) ++
  (if (block s (group s k).block).wants.any (fun w => w.2.2.1 == k) then [(.k, 0)] else []) ++
  s.results.flatMap (fun e => if e.2.g = k ∧ e.2.held then e.2.writes.filterMap writeReg else []) ++
  s.accs.flatMap (fun e => if e.2.g = k ∧ e.2.lanes ≠ 0 then
    (match e.2.kind with
     | .load _ b => (List.range (max 1 (b / 4))).map (fun i => (RegKind.v, e.2.dst + i))
     | .atomic _ _ => [(.v, e.2.dst)]
     | .cas b => (List.range (b / 2)).map (fun i => (RegKind.v, e.2.dst + i))
     | .sload _ _ => if isQueue e.2.dst then [] else [(.s, sregOf e.2.dst)]
     | .sealRec _ => if isQueue e.2.dst then [] else [(.s, sregOf e.2.dst)]
     | .lacq true => [(.k, 0)]
     | .bar 5 _ => [(.k, 0)]
     | _ => []) else [])

/-- The scoreboard holds the instruction back (R175); a `bra`'s guard waits for every pending write (R176). (DEDUCED, log entry 21) -/
def scoreboarded (s : State) (k : Nat) (i : Instr) (h : Hdr) (x : Prefix) : Bool :=
  let t := touchedAt s (group s k) i h x
  (heldRegs s k).any (fun r => t.any (fun q => q.1 == r.1 && q.2.1 == r.2)) ||
  (match i with
   | .bra h _ => h.g != 7 && s.results.any (fun e => e.2.g == k && e.2.writes.any (fun w => writeReg w == some (.p, h.g.toNat)))
   | _ => false)

def RegKind.code : RegKind → Nat
  | .v => 0 | .s => 1 | .p => 2 | .k => 3

/-- The stall checker's finding (R176): an L1 to L3 result of the group not yet written, as its first beat issues, that
the instruction touches. (DEDUCED, log entry 16) -/
def stallCheck (s : State) (c : Ctx) (i : Instr) (h : Hdr) : Option Trap :=
  let g := group s c.k
  let n := turnOf s.clock
  if launchFlag s g 1 || g.dbgctl.getLsbD 0 || g.checker then
    let t := (touchedAt s g i h c.x).filter (fun q => match i with | .bra h _ => q.1 != .p || q.2.1 != h.g.toNat | _ => true)
    let pending := (s.results.filter (fun e => e.2.g == c.k && !e.2.held && n < e.2.turn)).map (fun e => (e.2.turn, e.2.writes)) ++
      (match openWindow g c.f.id with
       | some w => (w.shadow.filter (fun e => !e.held && n < e.turn)).map (fun e => (e.turn, e.writes))
       | none => [])
    pending.findSome? (fun e => e.2.findSome? (fun w => match writeReg w with
      | some r => if t.any (fun q => q.1 == r.1 && q.2.1 == r.2)
          then some (⟨.stallCheck, BitVec.ofNat 64 ((e.1 - n) % 16 * 65536 + r.1.code * 256 + r.2), 0, 0⟩ : Trap) else none
      | none => none))
  else none

/-- Key of a hardware breakpoint (R368): owner, core over all dies, number. -/
def bpKey (o core n : Nat) : Nat := (o * 512 + core) * 4 + n

/-- The hardware breakpoint that matches (R368). (DEDUCED, log entry 14) -/
def breakpointHit (s : State) (c : Ctx) : Option Nat :=
  (List.range 4).find? (fun n =>
    let b := mget s.breakpoints (bpKey c.o (coreKey c.k) n)
    b.enable && b.addr == c.pc && (b.lanes &&& c.lanes) != 0)

/-! Queues (R34 to R36). -/

/-- Entries of a queue that can be popped in a turn: not those pushed in it (R36). (DEDUCED, log entry 21) -/
def qReady (b : Block) (q turn : Nat) : Nat :=
  (qItems b q).length - (b.pushes.filter (fun e => turn ≤ e.1 && e.2 == q)).length

/-- The pops and pushes an instruction makes, by queue. -/
def queuePops (i : Instr) (x : Prefix) : List Nat :=
  let p := shapeOf i
  [extend x.ha p.a, extend x.hb p.b, extend x.hc p.c].filterMap (fun f => match f with
    | .s n true _ => if isQueue n then some (n - 56) else none | _ => none)
def queuePush (i : Instr) (x : Prefix) : Option Nat :=
  match extend x.ha (shapeOf i).a with
  | .s n _ true => if isQueue n then some (n - 56) else none
  | _ => none

/-- Registers that a field or another operand reads. -/
def fieldReads : Field → List (RegKind × Nat)
  | .v n count true _ => (List.range count).map (fun i => (.v, n + i))
  | .s n true _ => if isQueue n then [] else [(.s, sregOf n)]
  | .four n => (List.range 4).map (fun i => (.s, sregOf n + i))
  | .counter n => [(.s, sregOf n)]
  | _ => []

def extraReads : Extra → List (RegKind × Nat)
  | .p n true _ => [(.p, n)]
  | .k n true _ => [(.k, n)]
  | .base n => [(.s, n)]
  | .v63 true _ => [(.v, 63)]
  | _ => []

/-- A place of the register file or the queue store in `badRegs`: a lane's vector register, a scalar, p or k register of
a slot; a queue of a block. -/
def badCode : RegKind → Nat → Nat → Nat
  | .v, n, lane => 32 * n + lane
  | .s, n, _ => 4096 + n
  | .p, n, _ => 8192 + n
  | .k, n, _ => 8208 + n
def badQueue (q place : Nat) : Nat := 2 ^ 20 + 32 * q + place

/-- The places of a block's queue after a pop: each entry stands one place nearer, and the popped one's error is gone. -/
def popBad (s : State) (b q : Nat) : State :=
  if s.badRegs.isEmpty then s
  else { s with badRegs := s.badRegs.filterMap (fun e =>
    if e.1 = b ∧ badQueue q 0 ≤ e.2 ∧ e.2 < badQueue (q + 1) 0 then (if e.2 = badQueue q 0 then none else some (b, e.2 - 1)) else some e) }

/-- The registers whose values an instruction takes beside its operand fields: the records of a `reform` (R151) and what a
`csum` covers (R376). -/
def bulkReads (g : Group) (i : Instr) : List (RegKind × Nat) :=
  match i with
  | .reform _ a => (List.range (a.toNat + 1)).map (fun r => (.v, r))
  | .csum _ _ => (List.range g.budget).map (fun r => (RegKind.v, r)) ++ (List.range 16).map (fun n => (.s, n))
  | _ => []

/-- The instruction reads a register or a queue entry that an uncorrectable error has struck (R54): its guard, and where it
acts the sources of the threads it acts for (R203). -/
def struck (s : State) (c d : Ctx) (acts : Bool) (i : Instr) (h : Hdr) : Bool :=
  let p := shapeOf i
  let hit (lanes : BitVec 32) (r : RegKind × Nat) : Bool := (lanesOf lanes).any (fun l => s.badRegs.contains (c.k, badCode r.1 r.2 l))
  let pops := queuePops i c.x
  !s.badRegs.isEmpty &&
  ((guardRegs p.kind h.g).any (fun r => hit c.act (r.1, r.2.1)) ||
   (acts &&
    ((fieldReads (extend c.x.ha p.a) ++ fieldReads (extend c.x.hb p.b) ++ fieldReads (extend c.x.hc p.c) ++
        p.more.flatMap extraReads ++ bulkReads c.g i).any (hit d.lanes) ||
     pops.any (fun q => (List.range (pops.count q)).any (fun j => s.badRegs.contains (c.g.block, badQueue q j))))))

/-- The instruction names a queue register. -/
def namesQueue (i : Instr) (x : Prefix) : Bool := !(queuePops i x).isEmpty || (queuePush i x).isSome

/-- Loads, seals and results of a block under way that will be entries of a queue. -/
def queueLoads (s : State) (b q : Nat) : Nat :=
  (s.accs.filter (fun e => e.2.block == b && e.2.dst == 56 + q &&
    (match e.2.kind with | .sload _ _ | .sealRec _ => true | _ => false))).length +
  (s.results.filter (fun e => e.2.writes.any (fun w => match w with | .q c n _ => c == b && n == q | _ => false))).length

/-- Every named queue holds enough entries, and the destination has room after the pops (R35). -/
def queueReady (s : State) (k : Nat) (i : Instr) (x : Prefix) : Bool :=
  let b := block s k
  let pops := queuePops i x
  pops.all (fun q => pops.count q ≤ qReady b q (turnOf s.clock)) &&
  (match queuePush i x with
   | some q => (qItems b q).length + queueLoads s k q - pops.count q < 16
   | none => true)

/-- Reads a scalar operand: a register, or one entry popped. -/
def takeScalar (s : State) (c : Ctx) (n : Nat) : BitVec 64 × State :=
  if isQueue n then
    ((qItems (block s c.g.block) (n - 56)).head?.getD 0,
      popBad (modBlock s c.g.block (fun b => { b with queues := mset b.queues (n - 56) (qItems b (n - 56)).tail })) c.g.block (n - 56))
  else (rs c.g (sregOf n), s)

/-- Writes of a scalar destination: a result, or one entry pushed in the turn of issue. (DEDUCED, log entry 21) -/
def giveScalar (s : State) (c : Ctx) (n : Nat) (x : BitVec 64) : List RegWrite × State :=
  if isQueue n then
    ([], modBlock s c.g.block (fun b => qPush b (n - 56) c.n x))
  else ([.s (sregOf n) x], s)

/-! Completion. -/

/-- All the flags of some lanes. -/
def allFlags (fl : List (Nat × BitVec 5)) : BitVec 5 := fl.foldl (fun m e => m ||| e.2) 0

/-- A result enters the shadow buffer (R182). -/
def shadowWrite (g : Group) (e : Shadow) : Group := { g with window := g.window.map (fun w => { w with shadow := w.shadow ++ [e] }) }

/-- The writes and flags of an instruction go to the group's results, or in a window to its shadow buffer (R175, R182). -/
def send (s : State) (c : Ctx) (turn : Nat) (ws : List RegWrite) (fl : List (Nat × BitVec 5)) (held : Bool) : State :=
  if ws.isEmpty ∧ fl.isEmpty then s
  else if c.window then
    modGroup s c.k (fun g => shadowWrite g ⟨((g.window.map (fun w => w.pcs.length)).getD 0), turn, held, ws, fl⟩)
  else postResult s ⟨c.k, turn, ws, allFlags fl, held, c.f.id⟩

/-- The lanes a per-thread instruction acts for (R240); none for a uniform one whose condition is false (R203). -/
def guarded (kind : GuardKind) (h : Hdr) (c : Ctx) : Ctx :=
  if h.g = 7 then c else
  match kind with
  | .thread => { c with lanes := maskOf ((lanesOf c.act).filter (rp c.g h.g.toNat)) }
  | .uniform => if rk c.g h.g.toNat then c else { c with lanes := 0 }
  | _ => c

/-- Reuse latch after an instruction issues (R177): its operand B and its Y bit. -/
def latchReuse (i : Instr) (h : Hdr) (g : Group) : Group :=
  match (shapeOf i).b with
  | .v n 1 true _ => if h.y = 1 then { g with reuse := some n } else { g with reuse := none }
  | _ => { g with reuse := none }

/-- A `yield` whose condition holds (R327). -/
def yields (i : Instr) (c : Ctx) : Bool :=
  match i with
  | .yield h => h.g == 7 || rk c.g h.g.toNat
  | .yield16 => true
  | _ => false

/-- The group after one of its instructions has issued in turn `n` (R173, R175, R372). -/
def issued (s : State) (c : Ctx) (i : Instr) (h : Hdr) : State :=
  let d := if 32 ≤ c.f.id then 0 else trialDelay s c.k c.pc
  let s := modGroup s c.k (fun g =>
    { latchReuse i h g with
      nextTurn := max g.nextTurn (c.n + 1 + h.s.toNat + d)
      lastStart := s.clock + 1
      running := some c.f.id
      skid := if (owner s c.o).haltOver then g.skid else g.skid + 1
      frags := g.frags.map (fun f =>
        if f.id = c.f.id then { f with since := c.n, prio := false, yielded := yields i c, fetchFault := none } else { f with yielded := false }) })
  { s with pfx := none }

/-- The instruction has not completed: the fragment waits in it. -/
def inWait : FragStatus → Bool
  | .run | .parked | .branch | .halted => false
  | _ => true

/-- SINGLE_STEP of every fragment the instruction leaves (R330, R335); of one that waits in it, once the wait ends. (DEDUCED, log entry 96) -/
def stepTrap (s : State) (c : Ctx) : State :=
  if (group s c.k).dbgctl.getLsbD 1 ∧ !c.window then
    ((group s c.k).frags.filter (fun f => (f.mask &&& c.f.mask) != 0)).foldl
      (fun s f => if inWait f.status then modGroup s c.k (fun g => modFrag g f.id (fun x => { x with stepOwed := some (c.pc, c.act) }))
        else takeTrap s c.k f.id ⟨.singleStep, c.act.setWidth 64, 0, 0⟩ c.pc f.pc c.n) s
  else s

/-- Threads that stand outside the body and are not suspended have left the loop (R228); an empty loop ends. (DEDUCED, log entry 33) -/
def trimLoop (g : Group) : Group :=
  match g.loop with
  | none => g
  | some p =>
    let inside := g.frags.foldl (fun m f => if p.start ≤ f.pc ∧ f.pc < p.stop then m ||| f.mask else m) 0
    let lanes := p.lanes &&& (inside ||| p.suspended)
    { g with loop := if lanes = 0 then none else some { p with lanes := lanes, suspended := p.suspended &&& lanes } }

/-- The counter as the decrement of the last body instruction reads it: what that instruction itself writes to it in the
same turn, or the register (R227). (DEDUCED, log entry 20) -/
def edgeValue (s : State) (c : Ctx) (ctr : Nat) : BitVec 64 :=
  let own := s.results.filterMap (fun e =>
    if e.2.g = c.k ∧ e.2.frag = c.f.id ∧ e.2.turn = c.n + 1 ∧ !e.2.held then
      e.2.writes.findSome? (fun w => match w with | .s n x => if n = ctr then some x else none | _ => none)
    else none)
  own.getLast?.getD (rs c.g ctr)

/-- The last body instruction's own result for the counter is class V: the decrement waits for it. (DEDUCED, log entry 20) -/
def edgeWaits (s : State) (c : Ctx) : Bool :=
  match edgeOf s c.g with
  | some n => (heldRegs s c.k).contains (.s, n)
  | none => false

/-- Where the fragment goes after an ordinary instruction, and the decrement of a loop's back edge (R227). (DEDUCED, log entry 20) -/
def backEdge (s : State) (c : Ctx) : BitVec 64 × List RegWrite :=
  match c.g.loop with
  | some p =>
    if s.cur.looped ∧ c.next = p.stop then
      let v := edgeValue s c p.ctr - 1
      (if v = 0 then p.stop else p.start, [.s p.ctr v])
    else (c.next, [])
  | none => (c.next, [])

/-- The loop has ended for some threads (R229). -/
def endLoopFor (m : BitVec 32) (g : Group) : Group :=
  { g with loop := g.loop.bind (fun p =>
      let lanes := p.lanes &&& ~~~m
      if lanes = 0 then none else some { p with lanes := lanes, suspended := p.suspended &&& lanes }) }

/-- An instruction that moves no thread completes: the next PC, or the window's. -/
def complete1 (s : State) (c : Ctx) (i : Instr) (h : Hdr) : State :=
  let s := issued s c i h
  if c.window then
    modGroup s c.k (fun g => { g with window := g.window.map (fun w => { w with pcs := w.pcs ++ [c.pc], next := c.next }) })
  else
    if edgeWaits s c then
      stepTrap (modGroup s c.k (fun g => modFrag g c.f.id (fun f => { f with status := .edge }))) c
    else
      let (pc, ws) := backEdge s c
      let s := send s c (c.n + 1) ws [] false
      let s := modGroup s c.k (fun g => settle (trimLoop (modFrag g c.f.id (fun f => { f with pc := pc }))))
      stepTrap s c

/-- Nothing issues this turn: the fragment stalls at the instruction (R35, R119, R173). -/
def retry (s : State) (c : Ctx) : State :=
  { modGroup s c.k (fun g => { g with nextTurn := max g.nextTurn (c.n + 1) }) with pfx := none }

/-- The instruction traps; in a window, the window ends before it and it issues after the resolution (R181). -/
def trapNow (s : State) (c : Ctx) (t : Trap) : State :=
  if c.window then
    retry (modGroup s c.k (fun g => { g with window := g.window.map (fun w => { w with ended := true }) })) c
  else
    let (next, ws) := if t.cause = .breakpoint then backEdge s c else (c.next, [])
    let s := if t.cause = .breakpoint ∧ ws ≠ [] ∧ c.g.loop.any (fun p => p.stop == next) then modGroup s c.k (endLoopFor c.f.mask) else s
    let s := takeTrap (send s c (c.n + 1) ws [] false) c.k c.f.id t c.pc next c.n
    { modGroup s c.k (fun g => { g with nextTurn := max g.nextTurn (c.n + 1), skid := g.skid + 1 }) with pfx := none }

end Sys2Proof.Machine
end

