-- ==== Sys2Proof/Machine/Waits.lean ====
section
/-! DEFINITION. What holds an instruction back at issue (R35, R119, R173, R181, R270, R273, R323), the gate every
instruction passes, and the two frames in which a meaning runs. -/

namespace Sys2Proof.Machine

/-! Addresses (R266). -/

/-- Sign extension of a vector element. -/
def sext32 (x : BitVec 32) : BitVec 64 := x.signExtend 64

/-- The address s(w) + sext(v b) of a lane. -/
def laneAddr (c : Ctx) (w b l : Nat) : BitVec 64 := rs c.g w + sext32 (rv c.g b l)

/-- The scratchpad offset (s(w) + zext(v b)) mod 2^18 of a lane. -/
def laneOff (c : Ctx) (w b l : Nat) : Nat := ((rs c.g w).toNat + (rv c.g b l).toNat) % 2 ^ 18

/-- The untranslated window (R5). -/
def inWindow (va : BitVec 64) : Bool := va.toNat < 0x400000

/-- The canonical form (R3): bits 63 to 54 agree. -/
def canonical (va : BitVec 64) : Bool := ext va 54 10 = 0 || ext va 54 10 = 1023

/-- A 128-byte line's number. -/
def lineOf (va : BitVec 64) : Nat := va.toNat / 128

/-- Beats of 16 lanes, ascending (R148). -/
def beats (ls : List Nat) : List (List Nat) := [ls.take 16, ls.drop 16].filter (fun b => !b.isEmpty)

/-- Line writes of a store (R273): the distinct lines of each beat outside the scratchpads. -/
def storeLines (c : Ctx) (w b : Nat) : Nat :=
  ((beats (lanesOf c.lanes)).map (fun ls =>
    (((ls.map (fun l => laneAddr c w b l)).filter (fun va => !inWindow va)).map lineOf).eraseDups.length)).sum

/-! Modifiers (R208). -/

/-- The scope, order, coil and policy of the prefix; a default scope where there is none (R270). -/
def scopeOf (c : Ctx) (dflt : Nat) : Nat := if c.prefixed then ext c.x.x 0 4 else dflt
def orderOf (c : Ctx) : Nat := ext c.x.x 4 2
def coilOf (c : Ctx) : Nat := ext c.x.x 6 3
def policyOf (c : Ctx) : Nat := ext c.x.x 9 2
/-- An order that acquires, and one that releases (R102). -/
def acquires (order : Nat) : Bool := order % 2 == 1
def releases (order : Nat) : Bool := order / 2 == 1

/-! Accesses in flight. -/

/-- The translation that covers an address. -/
def xlatOf (xs : List Xlat) (va : Nat) : Option Xlat := xs.find? (fun x => x.va ≤ va && va < x.va + x.size)

/-- Physical and guest-physical address under a translation. -/
def paOf (x : Xlat) (va : Nat) : Nat := x.pa + (va - x.va)
def gpaOf (x : Xlat) (va : Nat) : Nat := x.gpa + (va - x.va)

/-- The space of a physical address, its die and its stack offset (R8). -/
def spaceOf (pa : Nat) : Nat := pa / 2 ^ 48
def homeOf (pa : Nat) : Nat := pa / 2 ^ 36 % 16
def offsetOf (pa : Nat) : Nat := pa % 2 ^ 36

/-- The access writes memory. -/
def AccKind.writes : AccKind → Bool
  | .store _ | .sstore _ | .atomic _ _ | .cas _ | .lbind _ _ | .lrel | .lacq _ | .bar _ _ | .trace _ _ => true
  | _ => false

/-- A release or fence at scope `sc` on die `die` waits for a write to the physical address (R107). -/
def covers (sc die : Nat) (pa : Nat) : Bool :=
  if spaceOf pa = 0 then homeOf pa == die || sc ≥ 6
  else if spaceOf pa = 1 then sc ≥ 8
  else sc == 7 || sc == 9

/-- Threads of a group's lanes, by their index in the block. -/
def tidsOf (g : Group) (lanes : BitVec 32) : List Nat := (lanesOf lanes).map (fun l => mget g.tid l)

/-- Some threads of a block issued the access. A `reform` moves them to other slots (R150). -/
def ofThreads (b : Nat) (tids : List Nat) (a : Access) : Bool := a.block == b && a.tids.any tids.contains

/-- The access reads memory for its threads. -/
def AccKind.loads : AccKind → Bool
  | .load _ _ | .sload _ _ | .atomic _ _ | .cas _ => true
  | _ => false

/-- A line of an engine, or an access of the queue path: lane 0 reads, lane 8 writes; what it reads, and what it writes with the
mask of its bits, stand in `got` at 0, 8 and 9 as whole lines. -/
def AccKind.apart : AccKind → Bool
  | .line _ _ | .queue _ => true
  | _ => false

/-- The lane's turn in the load-store positions has not come. -/
def laneQueued (a : Access) (r : LaneReq) : Bool := !a.checked || a.passes.any (fun p => p.contains r.lane)

/-- The lane's write is one that a release at the scope on the die waits for, and has not been performed or, on another
die or in a peer, acknowledged; one to the host is waited for until it is emitted (R107, R109). An address not yet
translated may be covered. (DEDUCED, log entry 35) -/
def laneOwed (s : State) (id : Nat) (a : Access) (sc die : Nat) (r : LaneReq) : Bool :=
  if a.spad || inWindow r.va then laneQueued a r
  else match xlatOf a.xlats r.va.toNat with
    | none => true
    | some x =>
      let pa := paOf x r.va.toNat
      covers sc die pa && (laneQueued a r ||
        (match spaceOf pa with
         | 0 => s.reqs.any (fun q => q.2.agent == .acc id && q.2.line == pa / 128 && (!q.2.served || q.2.home != q.2.die))
         | 1 => s.reqs.any (fun q => q.2.agent == .acc id && q.2.line == pa / 128)
         | _ => s.exts.any (fun e => e.2.who == .acc id r.lane)))

/-- The lane's read has not been served. (DEDUCED, log entry 35) -/
def laneUnread (s : State) (id : Nat) (a : Access) (r : LaneReq) : Bool :=
  laneQueued a r ||
  (!a.spad && !inWindow r.va && (match xlatOf a.xlats r.va.toNat with
    | none => true
    | some x =>
      let pa := paOf x r.va.toNat
      if spaceOf pa = 0 then s.reqs.any (fun q => q.2.agent == .acc id && q.2.line == pa / 128 && !q.2.served)
      else s.exts.any (fun e => e.2.who == .acc id r.lane) || s.reqs.any (fun q => q.2.agent == .acc id && q.2.line == pa / 128)))

/-- The store's writes are owed. -/
def storeOwed (s : State) (id : Nat) (a : Access) (sc die : Nat) : Bool := a.kind.writes && a.reqs.any (laneOwed s id a sc die)

/-- A write of an engine operation that the group's `waitc` has covered, and that a release waits for (R134). -/
def lineOwed (s : State) (k id : Nat) (a : Access) (sc : Nat) : Bool :=
  match a.kind with
  | .line op _ => a.g == k && (mfind s.ops op).isNone && a.reqs.any (fun r => r.lane == 8 && laneOwed s id a sc (dieOf k) r)
  | _ => false

/-- A scope contains the threads of an access on the same core (R94). -/
def contains (sc k b : Nat) (a : Access) : Bool := sc ≥ 3 || (sc == 2 && a.block == b) || (sc == 1 && a.g == k)

/-- An earlier access of some threads that a release of theirs at the scope waits for: a write (R107), a read that is still
to be served (R104, R105), or another thread's write that they have read (R106). (DEDUCED, log entry 35) -/
def owed (s : State) (k b : Nat) (tids : List Nat) (sc before : Nat) : Bool :=
  s.accs.any (fun e => e.1 < before && ofThreads b tids e.2 &&
    (storeOwed s e.1 e.2 sc (dieOf k) || (e.2.kind.loads && e.2.reqs.any (laneUnread s e.1 e.2)))) ||
  s.accs.any (fun e => lineOwed s k e.1 e.2 sc) ||
  s.seen.any (fun x => x.1 == b && x.2.1.any tids.contains &&
    (match mfind s.accs x.2.2 with | some a => contains sc k b a && storeOwed s x.2.2 a sc (dieOf k) | none => false))

/-- An acquire, or an L1 refresh, of some threads is outstanding (R270, R279). (DEDUCED, log entry 100) -/
def acquiring (s : State) (b : Nat) (tids : List Nat) : Bool :=
  s.accs.any (fun e => (acquires e.2.order || e.2.kind == .refresh) && ofThreads b tids e.2)

/-- Line writes of stores issued and not yet performed by a group (R273). (DEDUCED, log entry 35) -/
def unperformed (s : State) (k : Nat) : Nat :=
  (s.accs.map (fun e => if e.2.g = k ∧ e.2.lanes ≠ 0 then (match e.2.kind with | .store _ | .sstore _ => e.2.unperformed | _ => 0) else 0)).sum

/-- Outstanding memory operations of a fragment (R178). -/
def memOps (s : State) (k f : Nat) : Nat :=
  (s.accs.filter (fun e => e.2.g == k && e.2.frag == f &&
    (match e.2.kind with | .load _ _ | .sload _ _ | .atomic _ _ | .cas _ => true | _ => false))).length +
  (s.ops.filter (fun e => e.2.g == k && e.2.frag == f && e.2.cls < 2)).length

/-! What may follow in a window (R181) and behind an acquire (R270). -/

/-- A per-thread instruction that writes only vector or p registers, with no queue, and no lane exchange; `vld`; `lds`. -/
def windowAllowed (i : Instr) (x : Prefix) : Bool :=
  let p := shapeOf i
  match i with
  | .vshfl _ _ _ _ | .vxorl _ _ _ _ | .vrotl _ _ _ _ | .vscan _ _ _ _ | .bra _ _ | .brx _ _ | .call _ _ | .ret _ | .ret16
  | .rcv _ _ | .brk _ _ _ | .exit _ | .exit16 | .reform _ _ | .vst _ _ _ _ _ | .vstB3216 _ _ | .sts _ _ _ _ _
  | .vatom _ _ _ _ _ | .vcas _ _ _ _ _ | .fence _ _ _ | .cpy _ _ _ _ _ _ => false
  | _ =>
    (p.kind == .thread || p.kind == .selector) && !namesQueue i x &&
    (match p.a with | .s _ _ true => false | _ => true)

/-- The instruction ends the window: it may not stand in one, or it is the last of a loop body, whose back edge writes
the counter (R181, R227). -/
def endsWindow (s : State) (c : Ctx) (i : Instr) : Bool :=
  !windowAllowed i c.x || (s.cur.looped && (match c.g.loop with | some p => p.stop == c.next | none => false))

/-- Memory, atomic, engine and synchronisation instructions (R270). -/
def memoryLike : Instr → Bool
  | .vld _ _ _ _ _ | .vst _ _ _ _ _ | .lds _ _ _ _ _ | .sts _ _ _ _ _ | .sld _ _ _ _ | .sst _ _ _ _
  | .vatom _ _ _ _ _ | .vcas _ _ _ _ _ | .fence _ _ _ | .lbind _ _ _ _ | .lacq _ _ _ _ | .lrel _ _ _
  | .barInit _ _ _ | .barArrive _ _ | .barExpin _ _ _ | .barExpout _ _ _ | .barWait _ _ _ | .barTest _ _ _
  | .monArm _ _ | .monWait _ _ | .monClr _ | .waitc _ _ _ | .cpy _ _ _ _ _ _ | .bcpy _ _ _ _
  | .coilOpen _ _ _ | .coilClose _ _ | .coilDrain _ _ | .mig _ _ | .tld _ _ _ _ | .tst _ _ _ _ | .mma _ _ _ _ _
  | .talloc _ _ | .tfree _ _ | .tzero _ _ | .trowget _ _ _ | .trowset _ _ _ | .sealTensor _ _ _ | .sealRefire _ _ _
  | .sealFree _ _ | .rfireGo _ _ | .rfireStat _ _ _ | .rfireAbort _ _ | .vldB3216 _ _ | .vstB3216 _ _ => true
  | _ => false

/-- A scalar operand without popping it. -/
def peekScalar (s : State) (c : Ctx) (n : Nat) : BitVec 64 := (takeScalar s c n).1

/-- The die a coil is open to. -/
def coilDie (b : Block) (n : Nat) : Option Nat := (mfind b.coils n).bind (·.die)

/-- The instruction counts an operation of this class when it issues (R118). -/
def countsIn (s : State) (c : Ctx) (i : Instr) : Option Nat :=
  let b := block s c.g.block
  match i with
  | .cpy _ _ _ _ _ _ => some 0
  | .bcpy _ n _ _ => if peekScalar s c (numN c.x.hc n.toNat) = 0 then none else some 1
  | .vst _ _ _ _ _ | .sst _ _ _ _ | .vatom _ _ _ _ _ | .vcas _ _ _ _ _ => if coilOf c = 0 then none else some 1
  | .coilOpen _ n q => match coilDie b q.toNat with
    | some d => if d = (peekScalar s c (numN c.x.hb n.toNat)).toNat then none else some 1
    | none => none
  | .coilClose _ q | .coilDrain _ q => if (coilDie b q.toNat).isSome then some 1 else none
  | .mig _ _ => some 1
  | .tld _ _ _ _ | .tst _ _ _ _ | .mma _ _ _ _ _ => some 2
  | .rfireGo _ _ => some 3
  | _ => none

/-- A coil-tagged write stalls while its coil closes or is bound anew (R292). -/
def coilBusy (s : State) (c : Ctx) (i : Instr) : Bool :=
  match i with
  | .vst _ _ _ _ _ | .sst _ _ _ _ | .vatom _ _ _ _ _ | .vcas _ _ _ _ _ | .bcpy _ _ _ _ =>
    coilOf c != 0 && (mget (block s c.g.block).coils (coilOf c)).rebinding
  | _ => false

/-- Key of a tile of the group's block in its partition. -/
def tileKey (k t : Nat) : Nat := 16 * partOf k + t

/-- A class M operation of the block names the tile and has not completed (R123). (DEDUCED, log entry 18) -/
def tileBusy (s : State) (b key : Nat) : Bool := s.ops.any (fun e => e.2.block == b && e.2.cls == 2 && e.2.tiles.contains key)

/-- A saggar with the key exists or can be created (R149). -/
def saggarRoom (b : Block) (part stage : Nat) (pc : BitVec 64) : Bool :=
  b.saggars.any (fun g => g.part == part && g.stage == stage && g.pc == pc) ||
  (b.saggars.filter (fun g => g.part == part)).length < 8

/-- Runs queued on a core for an owner (R323). -/
def queuedRuns (s : State) (o core : Nat) : Nat :=
  (s.runs.filter (fun e => e.2.owner == o && 32 * e.2.die + e.2.core == core && e.2.state == 1)).length

/-- The waits of single instructions. (DEDUCED, log entry 18; DEDUCED, log entry 20) -/
def ownWait (s : State) (c : Ctx) (i : Instr) : Bool :=
  match i with
  | .loop _ _ _ => c.g.loop.isSome
  | .vst _ _ w b _ => unperformed s c.k + storeLines c w.toNat b.toNat > 64
  | .vstB3216 b _ => unperformed s c.k + storeLines c 0 b.toNat > 64
  | .sst _ _ _ _ => unperformed s c.k + 1 > 64
  | .reform _ a => !c.g.migrated && c.g.latches.isEmpty && a.toNat + 1 ≤ c.g.budget && !saggarRoom (block s c.g.block) (partOf c.k) c.g.stage c.next
  | .rfireGo _ _ => !c.g.migrated && queuedRuns s c.o (coreKey c.k) ≥ 32
  | .tzero _ t => tileBusy s c.g.block (tileKey c.k t.toNat)
  | .trowget _ t _ => tileBusy s c.g.block (tileKey c.k t.toNat)
  | .trowset _ t _ => tileBusy s c.g.block (tileKey c.k t.toNat)
  | .mig _ _ => !idleEngines c.g || s.accs.any (fun e => e.2.g == c.k) || owed s c.k c.g.block (tidsOf c.g (threads c.g)) 9 s.nextId
  | _ => false

/-- The guard lets the instruction act: some thread participates, or its k condition holds. -/
def acts (i : Instr) (h : Hdr) (c : Ctx) : Bool :=
  match i with
  | .vote _ _ _ _ | .vredu _ _ _ _ => true
  | _ => match (shapeOf i).kind with
    | .uniform => h.g = 7 || rk c.g h.g.toNat
    | _ => (guarded (shapeOf i).kind h c).lanes != 0

/-- The instruction cannot issue now. (DEDUCED, log entry 18) -/
def stalls (s : State) (c : Ctx) (i : Instr) (h : Hdr) : Bool :=
  (c.window && endsWindow s c i) || scoreboarded s c.k i h c.x ||
  (acts i h c &&
    (let d := guarded (shapeOf i).kind h c
     (!c.g.migrated && !queueReady s c.g.block i c.x) ||
     (match countsIn s c i with | some q => counter c.g q ≥ 255 | none => false) ||
     coilBusy s c i || (memoryLike i && acquiring s c.g.block (tidsOf c.g c.f.mask)) || ownWait s d i))

/-- What an instruction meets at issue. -/
inductive Gate where
  | go
  | wait
  | trap (t : Trap)
deriving DecidableEq, Repr, Inhabited

/-- The checks every instruction passes at issue, in order: the decode checks (R211), the stalls, the stall checker
(R176, under its guard: R203), hardware breakpoints (R368), a queue named by a migrated group (R35), and registers in error
(R54). -/
def gate (i : Instr) (h : Hdr) (s : State) (c : Ctx) : Gate :=
  match issueDefect s c i with
  | some d => .trap ⟨d, 0, 0, 0⟩
  | none =>
    if stalls s c i h then .wait
    else match (if acts i h c then stallCheck s c i h else none) with
      | some t => .trap t
      | none => match breakpointHit s (guarded (shapeOf i).kind h c) with
        | some n => .trap ⟨.breakpoint, BitVec.ofNat 64 (0x1000 + n), 0, 0⟩
        | none =>
          if c.g.migrated && namesQueue i c.x && acts i h c then .trap ⟨.migratedAccess, 0, 0, 0⟩
          else if struck s c (guarded (shapeOf i).kind h c) (acts i h c) i h then .trap ⟨.uncorrectable, 0, 0, 0⟩
          else .go

/-- Where an instruction cannot issue: in a window the window ends (R181); elsewhere the fragment stalls. -/
def hold (s : State) (c : Ctx) (i : Instr) : State :=
  if c.window && endsWindow s c i then
    retry (modGroup s c.k (fun g => { g with window := g.window.map (fun w => { w with ended := true }) })) c
  else retry s c

/-- A meaning, or what its checks raise. -/
abbrev Run := Ctx → State → Except Trap State

/-- An instruction that moves no thread: `run` is its effect, under its guard. -/
def plain (i : Instr) (h : Hdr) (s : State) (run : Run) : State :=
  let c := ctx s
  match gate i h s c with
  | .wait => hold s c i
  | .trap t => trapNow s c t
  | .go =>
    if acts i h c then
      match run (guarded (shapeOf i).kind h c) s with
      | .error t => trapNow s c t
      | .ok s' => complete1 s' c i h
    else complete1 s c i h

/-- An instruction that moves threads: `run` places them, even where no guard holds. -/
def control (i : Instr) (h : Hdr) (s : State) (run : Run) : State :=
  let c := ctx s
  match gate i h s c with
  | .wait => hold s c i
  | .trap t => trapNow s c t
  | .go =>
    match run (guarded (shapeOf i).kind h c) s with
    | .error t => trapNow s c t
    | .ok s' =>
      let s' := issued s' c i h
      stepTrap (modGroup s' c.k (fun g => settle (trimLoop g))) c

/-- The header a 16-bit instruction stands for: unguarded, Y clear, its implied stall count (R175, R209). -/
def shortHdr (stall : Nat) : Hdr := ⟨7, 0, BitVec.ofNat 2 stall⟩

end Sys2Proof.Machine
end

