-- ==== Sys2Proof/Machine/Spad.lean ====
section
/-! DEFINITION. The scratchpads: the untranslated window (R5, R6), bytes, barrier-typed granules (R124), and the barrier
object with its completion check (R125 to R127). -/

namespace Sys2Proof.Machine

/-- The block at a cluster rank of a block's cluster. (DEDUCED, log entry 30; DEDUCED, log entry 114) -/
def rankBlock (s : State) (b n : Nat) : Option Nat :=
  let x := block s b
  if n < (launch s x.launch).clusterSize then
    (s.blocks.find? (fun e => e.2.launch == x.launch && e.2.cluster == x.cluster && e.2.rank == n && (e.1 == b || !e.2.released))).map (·.1)
  else none

/-- What a window address of a block reaches: a block and an offset (R5); none where it reaches nothing (R6). (DEDUCED, log entry 30) -/
def windowTarget (s : State) (own : Nat) (va : BitVec 64) : Option (Nat × Nat) :=
  let a := va.toNat
  let t := if a < 0x40000 then some (own, a)
    else if 0x100000 ≤ a ∧ a < 0x300000 then
      (rankBlock s own ((a - 0x100000) / 0x40000)).map (fun b => (b, (a - 0x100000) % 0x40000))
    else none
  t.bind (fun p => if p.2 < (block s p.1).spadSize then some p else none)

/-! The load-store positions of a core's ports (R38, R39). -/

/-- Block and offset that a lane's access reaches in a scratchpad; none for a translated address. -/
def spadTarget (s : State) (a : Access) (r : LaneReq) : Option (Nat × Nat) :=
  if a.spad then some (a.block, r.va.toNat)
  else if inWindow r.va then windowTarget s a.block r.va
  else none

/-- An access's own core, over all dies, and port. -/
def Access.coreKey (a : Access) : Nat := 32 * a.die + a.core
def Access.port (a : Access) : Nat := a.part / 2

/-- Where the next pass is served: the core over all dies, its port, and whether it lies on another core. -/
def passPlace (s : State) (a : Access) (lanes : List Nat) : Nat × Nat × Bool :=
  match a.reqs.find? (fun r => lanes.contains r.lane) with
  | none => (a.coreKey, a.port, false)
  | some r => match spadTarget s a r with
    | none => (a.coreKey, a.port, false)
    | some (b, _) =>
      let x := block s b
      if b = a.block then (a.coreKey, a.port, false) else (32 * x.die + x.core, 0, true)

/-- A barrier operation (R125). -/
def AccKind.isBar : AccKind → Bool
  | .bar _ _ => true
  | _ => false

/-- What comes later in a clock on a core than a pass of access `a` on a port: passes of a higher port, and of barrier
operations those of a higher partition and then port (R38, R283); the reads, writes and decrements of a copy engine (R126, R288). -/
def laterPass (s : State) (a : Access) (core port : Nat) : Instr → Bool
  | .lspAccess id =>
    let b := mget s.accs id
    (match b.passes with
     | [] => false
     | p :: _ =>
       let x := passPlace s b p
       x.1 == core && !b.transit &&
         (if a.kind.isBar && b.kind.isBar then a.part < b.part || (a.part == b.part && port < x.2.1) else port < x.2.1))
  | .engineWritePresent _ | .cpyLineRead _ | .bcpyLineRead _ => true
  | _ => false

/-- Posts an event at the owner's next position of a port of a core. (DEDUCED, log entry 10) -/
def postLsp (s : State) (o core port clock : Nat) (e : Instr) : State :=
  match e with
  | .lspAccess id =>
    let due := claimAt s o 4 (core * 2 + port) clock + 1
    let s := claim s o 4 (core * 2 + port) clock
    { s with agenda := insertBefore (laterPass s (mget s.accs id) core port) s.agenda due e }
  | _ => postClaim s o 4 (core * 2 + port) clock e

/-! What later memory instructions wait behind (R270). -/

/-- An access that only holds back what follows it in the program order of an access's threads. -/
def Access.holder (a : Access) : Access :=
  { (default : Access) with
    g := a.g, block := a.block, frag := a.frag, lanes := a.lanes, tids := a.tids, owner := a.owner, launch := a.launch, die := a.die
    core := a.core, part := a.part, kind := .refresh, checked := true }

/-- The same for some lanes of a group's fragment. -/
def holderOf (s : State) (k frag : Nat) (lanes : BitVec 32) : Access :=
  let g := group s k
  { (default : Access) with
    g := k, block := g.block, frag := frag, lanes := lanes, tids := tidsOf g lanes, owner := g.owner, launch := g.launch, die := dieOf k
    core := coreOf k, part := partOf k, kind := .refresh, checked := true }

/-- The L1 refresh of an acquire at .clu or wider: one position of the issuing port (R44). Later accesses wait for it,
and for a clock. (DEDUCED, log entry 100) -/
def postRefresh (s : State) (h : Access) (hold : Nat) : State :=
  let id := s.nextId
  postLsp (tick { s with accs := mset s.accs id { h with passes := [[]], avail := hold } }) h.owner h.coreKey h.port s.clock (.lspAccess id)

/-- Later accesses wait for a clock alone: the landing of an acquire's value (R270). (DEDUCED, log entry 100) -/
def postHold (s : State) (h : Access) (hold : Nat) : State :=
  post (tick { s with accs := mset s.accs s.nextId h }) hold (.lspAccess s.nextId)

/-- An acquire or full fence's refresh, which its fragment waits for (R44, R279). -/
def beginRefresh (s : State) (k f : Nat) (lanes : BitVec 32) : State :=
  postRefresh (modGroup s k (fun g => modFrag g f (fun x => { x with status := .refresh }))) (holderOf s k f lanes) 0

/-- Bytes of a scratchpad. -/
def spadTake (b : Block) (off n : Nat) : List (BitVec 8) := (List.range n).map (fun i => mget b.spad (off + i))
def spadPut (b : Block) (off : Nat) (xs : List (BitVec 8)) : Block :=
  { b with spad := xs.zipIdx.foldl (fun m e => mset m (off + e.2) e.1) b.spad }

/-- Some of `n` bytes lie in a barrier-typed granule (R128). -/
def typedAt (b : Block) (off n : Nat) : Bool := b.typed.any (fun g => off < g + 16 && g < off + n)

/-- A write at a window address would touch a typed granule. (DEDUCED, log entry 37) -/
def clobbers (s : State) (own : Nat) (va : BitVec 64) (n : Nat) : Bool :=
  inWindow va && (match windowTarget s own va with | some (b, off) => typedAt (block s b) off n | none => false)

/-! Barrier objects (R124). -/

/-- The object's fields. -/
structure Bar where
  outbound : BitVec 32
  inbound : BitVec 32
  expected : BitVec 16
  pending : BitVec 12
  gen : BitVec 4
deriving DecidableEq, Repr, Inhabited

def barOf (xs : List (BitVec 8)) : Bar :=
  let n := numOf xs
  ⟨BitVec.ofNat 32 (n / 2 ^ 64), BitVec.ofNat 32 (n / 2 ^ 32), BitVec.ofNat 16 (n / 2 ^ 16), BitVec.ofNat 12 (n / 16), BitVec.ofNat 4 n⟩

def Bar.bytes (b : Bar) : List (BitVec 8) :=
  bytesOf 16 (b.gen.toNat + 16 * b.pending.toNat + 2 ^ 16 * b.expected.toNat + 2 ^ 32 * b.inbound.toNat + 2 ^ 64 * b.outbound.toNat)

/-- The effect of operation `op` with operand `x` and `a` active threads (R125). -/
def Bar.apply (b : Bar) (op : Nat) (x : BitVec 64) (a : Nat) : Bar :=
  match op with
  | 0 => ⟨0, 0, x.setWidth 16, x.setWidth 12, 0⟩
  | 1 => { b with pending := b.pending - BitVec.ofNat 12 a }
  | 2 => { b with inbound := b.inbound + x.setWidth 32 }
  | 3 => { b with outbound := b.outbound + x.setWidth 32 }
  | _ => b

/-- The phase is complete. -/
def Bar.done (b : Bar) : Bool := b.pending == 0 && b.inbound == 0 && b.outbound == 0
/-- The completion check (R125). -/
def Bar.check (b : Bar) : Bar := if b.done then { b with gen := b.gen + 1, pending := b.expected.setWidth 12 } else b

/-- Fragments parked in `bar.wait` on the object at an offset of a block, on a generation. -/
def barWaiters (s : State) (b off : Nat) (gen : BitVec 4) : List (Nat × Nat) :=
  s.groups.flatMap (fun e => e.2.frags.filterMap (fun f =>
    match f.status with
    | .barWait va n => if n = gen ∧ windowTarget s e.2.block va = some (b, off) then some (e.1, f.id) else none
    | _ => none))

/-- The object as it stands at an offset of a block. -/
def barAt (s : State) (b off : Nat) : Bar := barOf (spadTake (block s b) off 16)

/-- Writes an object, checks it, and releases the fragments of a completed phase (R125, R282): each wakes 4 clocks
later. -/
def putBar (s : State) (b off : Nat) (x : Bar) : State :=
  let s1 := modBlock s b (fun y => spadPut y off x.check.bytes)
  if x.done then (barWaiters s b off x.gen).foldl (fun s e => post s (s.clock + 4) (.barrierWake e.1 e.2)) s1 else s1

end Sys2Proof.Machine
end

