-- ==== Sys2Proof/Machine/Scalar.lean ====
section
/-! DEFINITION. The scalar instructions (R231 to R239) and the special registers they reach (R332). -/

namespace Sys2Proof.Machine

/-- An answer of every meaning in this model. -/
abbrev Answer := Host.Outcome State Fault Refusal

/-- Sends a scalar result: a register at turn n + `lat`, or an entry pushed at once; a division's entry is pushed when its
result is written (R233). A result of an instruction that names a queue is class V (R174). (DEDUCED, log entry 21) -/
def giveS (s : State) (c : Ctx) (a : BitVec 6) (lat : Nat) (held : Bool) (x : BitVec 64) : State :=
  let n := numN c.x.ha a.toNat
  if lat = 9 ∧ isQueue n then send s c (c.n + lat) [.q c.g.block (n - 56) x] [] held else
  let (ws, s) := giveScalar s c (numN c.x.ha a.toNat) x
  send s c (c.n + lat) ws [] held

/-- sA := f(sB, sC), the sources read in the order B, C (R231). -/
def scalar3 (i : Instr) (h : Hdr) (q b a : BitVec 6) (lat : Nat) (held : Bool) (f : BitVec 64 → BitVec 64 → BitVec 64)
    (s : State) : State :=
  plain i h s (fun c s =>
    let (y, s) := takeScalar s c (numN c.x.hb b.toNat)
    let (z, s) := takeScalar s c (numN c.x.hc q.toNat)
    .ok (giveS s c a lat (held || namesQueue i c.x) (f y z)))

/-- sA := f(sB). -/
def scalar2 (i : Instr) (h : Hdr) (b a : BitVec 6) (f : Ctx → BitVec 64 → BitVec 64) (s : State) : State :=
  plain i h s (fun c s =>
    let (y, s) := takeScalar s c (numN c.x.hb b.toNat)
    .ok (giveS s c a 1 (namesQueue i c.x) (f c y)))

/-- Shifts by a count that may be too large (R232). -/
def shl64 (x y : BitVec 64) : BitVec 64 := if y.toNat < 64 then x <<< y.toNat else 0
def shr64 (x y : BitVec 64) : BitVec 64 := if y.toNat < 64 then x >>> y.toNat else 0
def sra64 (x y : BitVec 64) : BitVec 64 := x.sshiftRight (min y.toNat 64)

/-- The high halves of products. -/
def mulhSigned64 (x y : BitVec 64) : BitVec 64 := BitVec.ofInt 64 (x.toInt * y.toInt / 2 ^ 64)
def mulhUnsigned64 (x y : BitVec 64) : BitVec 64 := BitVec.ofNat 64 (x.toNat * y.toNat / 2 ^ 64)

/-- Division; by zero, all ones (R233). -/
def div64 (x y : BitVec 64) : BitVec 64 := if y = 0 then BitVec.allOnes 64 else BitVec.ofNat 64 (x.toNat / y.toNat)
def rem64 (x y : BitVec 64) : BitVec 64 := if y = 0 then BitVec.allOnes 64 else BitVec.ofNat 64 (x.toNat % y.toNat)

def minSigned {n : Nat} (x y : BitVec n) : BitVec n := if x.toInt ≤ y.toInt then x else y
def maxSigned {n : Nat} (x y : BitVec n) : BitVec n := if x.toInt ≤ y.toInt then y else x
def minUnsigned {n : Nat} (x y : BitVec n) : BitVec n := if x.toNat ≤ y.toNat then x else y
def maxUnsigned {n : Nat} (x y : BitVec n) : BitVec n := if x.toNat ≤ y.toNat then y else x

/-- The conditions of R234 and R248. -/
def condition {n : Nat} (code : Nat) (x y : BitVec n) : Bool :=
  match code with
  | 0 => x == y
  | 1 => x != y
  | 2 => x.toInt < y.toInt
  | 3 => x.toInt ≤ y.toInt
  | 4 => x.toNat < y.toNat
  | 5 => x.toNat ≤ y.toNat
  | 6 => true
  | _ => false

/-- Set bits, leading and trailing zeros, reversals. -/
def popcount {n : Nat} (x : BitVec n) : Nat := ((List.range n).filter (fun i => x.getLsbD i)).length
def leadingZeros {n : Nat} (x : BitVec n) : Nat := (((List.range n).find? (fun i => x.getLsbD (n - 1 - i))).getD n)
def trailingZeros {n : Nat} (x : BitVec n) : Nat := ((List.range n).find? (fun i => x.getLsbD i)).getD n
def reverseBits {n : Nat} (x : BitVec n) : BitVec n :=
  BitVec.ofNat n (((List.range n).map (fun i => if x.getLsbD i then 2 ^ (n - 1 - i) else 0)).sum)
def reverseBytes {n : Nat} (x : BitVec n) : BitVec n := BitVec.ofNat n (numOf (bytesOf (n / 8) x.toNat).reverse)
/-- Extensions of the low `k` bits. -/
def signLow {n : Nat} (k : Nat) (x : BitVec n) : BitVec n := (BitVec.ofNat k x.toNat).signExtend n
def zeroLow {n : Nat} (k : Nat) (x : BitVec n) : BitVec n := BitVec.ofNat n (x.toNat % 2 ^ k)

/-- `sunary` (R236). -/
def scalarUnary (f : Nat) (x : BitVec 64) : BitVec 64 :=
  match f with
  | 0 => BitVec.ofNat 64 (popcount x)
  | 1 => BitVec.ofNat 64 (leadingZeros x)
  | 2 => BitVec.ofNat 64 (trailingZeros x)
  | 3 => reverseBits x
  | 4 => reverseBytes x
  | 5 => signLow 8 x
  | 6 => signLow 16 x
  | 7 => signLow 32 x
  | 8 => zeroLow 8 x
  | 9 => zeroLow 16 x
  | 10 => zeroLow 32 x
  | 11 => 0 - x
  | 12 => ~~~x
  | _ => if x.toInt < 0 then 0 - x else x

/-- The 6-bit immediate, or the 18-bit one X12:F (R207). -/
def imm6 (n : Nat) (c : Ctx) (f : BitVec 6) : BitVec n :=
  if c.prefixed then (c.x.x ++ f).signExtend n else f.signExtend n
/-- The 12-bit immediate, or the 24-bit one X12:I12, signed. -/
def imm12 (n : Nat) (c : Ctx) (i : BitVec 12) : BitVec n :=
  if c.prefixed then (c.x.x ++ i).signExtend n else i.signExtend n
/-- The same, unsigned. -/
def uimm12 (n : Nat) (c : Ctx) (i : BitVec 12) : BitVec n :=
  if c.prefixed then (c.x.x ++ i).setWidth n else i.setWidth n
/-- `sins` and `vins` (R237, R245). -/
def insertImm {n : Nat} (c : Ctx) (i : BitVec 12) (x : BitVec n) : BitVec n :=
  (x <<< (if c.prefixed then 24 else 12)) ||| uimm12 n c i

/-! The three-register operations (R232, R233). -/

def execSadd (h : Hdr) (q b a : BitVec 6) (s : State) : Answer := .next (scalar3 (.sadd h q b a) h q b a 1 false (· + ·) s)
def execSsub (h : Hdr) (q b a : BitVec 6) (s : State) : Answer := .next (scalar3 (.ssub h q b a) h q b a 1 false (· - ·) s)
def execSmul (h : Hdr) (q b a : BitVec 6) (s : State) : Answer := .next (scalar3 (.smul h q b a) h q b a 1 false (· * ·) s)
def execSmulhI (h : Hdr) (q b a : BitVec 6) (s : State) : Answer := .next (scalar3 (.smulhI h q b a) h q b a 1 false mulhSigned64 s)
def execSmulhN (h : Hdr) (q b a : BitVec 6) (s : State) : Answer := .next (scalar3 (.smulhN h q b a) h q b a 1 false mulhUnsigned64 s)
def execSand (h : Hdr) (q b a : BitVec 6) (s : State) : Answer := .next (scalar3 (.sand h q b a) h q b a 1 false (· &&& ·) s)
def execSor (h : Hdr) (q b a : BitVec 6) (s : State) : Answer := .next (scalar3 (.sor h q b a) h q b a 1 false (· ||| ·) s)
def execSxor (h : Hdr) (q b a : BitVec 6) (s : State) : Answer := .next (scalar3 (.sxor h q b a) h q b a 1 false (· ^^^ ·) s)
def execSshl (h : Hdr) (q b a : BitVec 6) (s : State) : Answer := .next (scalar3 (.sshl h q b a) h q b a 1 false shl64 s)
def execSshr (h : Hdr) (q b a : BitVec 6) (s : State) : Answer := .next (scalar3 (.sshr h q b a) h q b a 1 false shr64 s)
def execSsra (h : Hdr) (q b a : BitVec 6) (s : State) : Answer := .next (scalar3 (.ssra h q b a) h q b a 1 false sra64 s)
def execSminI (h : Hdr) (q b a : BitVec 6) (s : State) : Answer := .next (scalar3 (.sminI h q b a) h q b a 1 false minSigned s)
def execSmaxI (h : Hdr) (q b a : BitVec 6) (s : State) : Answer := .next (scalar3 (.smaxI h q b a) h q b a 1 false maxSigned s)
def execSminN (h : Hdr) (q b a : BitVec 6) (s : State) : Answer := .next (scalar3 (.sminN h q b a) h q b a 1 false minUnsigned s)
def execSmaxN (h : Hdr) (q b a : BitVec 6) (s : State) : Answer := .next (scalar3 (.smaxN h q b a) h q b a 1 false maxUnsigned s)
/-- Class V: the result lands at turn n + 9 (R233). -/
def execSdivN (h : Hdr) (q b a : BitVec 6) (s : State) : Answer := .next (scalar3 (.sdivN h q b a) h q b a 9 true div64 s)
def execSremN (h : Hdr) (q b a : BitVec 6) (s : State) : Answer := .next (scalar3 (.sremN h q b a) h q b a 9 true rem64 s)

/-- R234. -/
def execScmp (h : Hdr) (q b : BitVec 6) (n k : BitVec 3) (s : State) : Answer :=
  .next (plain (.scmp h q b n k) h s (fun c s =>
    let (y, s) := takeScalar s c (numN c.x.hb b.toNat)
    let (z, s) := takeScalar s c (numN c.x.hc q.toNat)
    .ok (send s c (c.n + 1) [.k k.toNat (condition n.toNat y z)] [] (namesQueue (.scmp h q b n k) c.x))))

/-! Immediate, one-source and constant forms (R235 to R237). -/

def execSaddi (h : Hdr) (f b a : BitVec 6) (s : State) : Answer :=
  .next (scalar2 (.saddi h f b a) h b a (fun c y => y + imm6 64 c f) s)
def execSshli (h : Hdr) (f b a : BitVec 6) (s : State) : Answer :=
  .next (scalar2 (.sshli h f b a) h b a (fun _ y => y <<< f.toNat) s)
def execSshri (h : Hdr) (f b a : BitVec 6) (s : State) : Answer :=
  .next (scalar2 (.sshri h f b a) h b a (fun _ y => y >>> f.toNat) s)
def execSmov (h : Hdr) (b a : BitVec 6) (s : State) : Answer :=
  .next (scalar2 (.smov h b a) h b a (fun _ y => y) s)
def execSunary (h : Hdr) (f b a : BitVec 6) (s : State) : Answer :=
  .next (scalar2 (.sunary h f b a) h b a (fun _ y => scalarUnary f.toNat y) s)
def execSmovi (h : Hdr) (i : BitVec 12) (a : BitVec 6) (s : State) : Answer :=
  .next (plain (.smovi h i a) h s (fun c s => .ok (giveS s c a 1 (namesQueue (.smovi h i a) c.x) (imm12 64 c i))))
/-- A queue as `sins`'s operand pops the value it extends and takes the result (R35). -/
def execSins (h : Hdr) (i : BitVec 12) (a : BitVec 6) (s : State) : Answer :=
  .next (plain (.sins h i a) h s (fun c s =>
    let (x, s) := takeScalar s c (numN c.x.ha a.toNat)
    .ok (giveS s c a 1 (namesQueue (.sins h i a) c.x) (insertImm c i x))))

/-! Special registers (R238, R332). -/

/-- `%rota.xd` (R81): the owner's circuits from the group's die, and to its peer ports. -/
def rotaXd (s : State) (o die : Nat) : BitVec 64 :=
  let at_ (d : Nat) : Nat :=
    let w := circuitWidth s o die d
    if w = 0 then 0
    else if 12 ≤ d then (if hasLane s o (d - 12) then 2 ^ (48 + d) else 0)
    else if d = die ∨ !liveDie s d then 0
    else 2 ^ (48 + d) + (w - 1) * 2 ^ (4 * d)
  BitVec.ofNat 64 (((List.range 16).map at_).sum)

/-- The value of a special register; none for an unassigned number. -/
def readSpecial (s : State) (c : Ctx) (n : Nat) : Option (BitVec 64) :=
  let g := c.g
  let key := coreKey c.k
  let l := launch s g.launch
  let mp := c.o * 1536 + partKey c.k
  let rot (t : Nat) : Option (BitVec 64) := some ((rota s c.o t).setWidth 64)
  if 0x38 ≤ n ∧ n < 0x40 then some (mget l.cones (8 * key + (n - 0x38)))
  else if 0x30 ≤ n ∧ n < 0x33 then some (if l.flags.getLsbD 3 then mget l.trial (3 * key + (n - 0x30)) else 0)
  else match n with
  | 0x000 => some (BitVec.ofNat 64 (ocyc s c.o))
  | 0x001 => some (BitVec.ofNat 64 c.o)
  | 0x002 => some (BitVec.ofNat 64 (seatOf s c.o))
  | 0x003 => some (BitVec.ofNat 64 (dieOf c.k))
  | 0x004 => some (BitVec.ofNat 64 (coreOf c.k))
  | 0x005 => some (BitVec.ofNat 64 (partOf c.k))
  | 0x006 => some (BitVec.ofNat 64 (slotOf c.k))
  | 0x007 => some (BitVec.ofNat 64 g.stage)
  | 0x008 => some (BitVec.ofNat 64 g.blkx)
  | 0x009 => some (BitVec.ofNat 64 g.blky)
  | 0x00A => some (BitVec.ofNat 64 g.blkz)
  | 0x00B => some (BitVec.ofNat 64 g.rank)
  | 0x00C => some (c.act.setWidth 64)
  | 0x010 => some g.fmode
  | 0x011 => some g.fflags
  | 0x012 => some g.cpybar
  | 0x013 => some g.sealerr
  | 0x014 => some g.dbgctl
  | 0x015 => some g.monwhy
  | 0x020 => some 16
  | 0x021 => rot (partOf c.k)
  | 0x022 => rot 4
  | 0x023 => rot 7
  | 0x024 => rot 9
  | 0x025 => rot 5
  | 0x026 => rot 6
  | 0x027 => rot 8
  | 0x028 => some (rotaXd s c.o (dieOf c.k))
  | 0x029 => some (BitVec.ofNat 64 (owner s c.o).quantum)
  | 0x050 => some (mget s.mphit mp)
  | 0x051 => some (mget s.mpmiss mp)
  | 0x060 => some g.tcause
  | 0x061 => some g.tpc
  | 0x062 => some g.tinfo
  | 0x063 => some g.tsib
  | _ => none

/-- `srd`: L1, or engine state at turn n + 2 (R332). -/
def execSrd (h : Hdr) (i : BitVec 12) (a : BitVec 6) (s : State) : Answer :=
  .next (plain (.srd h i a) h s (fun c s =>
    match readSpecial s c i.toNat with
    | none => .error ⟨.illegalOp, 0, 0, 0⟩
    | some x =>
      let v := srdClass i.toNat == 0
      .ok (giveS s c a (if v then 2 else 1) (v || namesQueue (.srd h i a) c.x) x)))

/-- What a written value meets (R126, R189, R190, R330, R371): a trap, or none. -/
def refusesSpecial (s : State) (c : Ctx) (n : Nat) (x : BitVec 64) : Option Cause :=
  match n with
  | 0x010 => if x.toNat ≤ 4 then none else some .illegalOp
  | 0x011 => if x.toNat < 32 then none else some .illegalOp
  | 0x012 =>
    if x = 0 then none
    else if x.toNat % 16 ≠ 0 then some .misaligned
    else if inWindow x && !c.g.migrated && (windowTarget s c.g.block x).isSome then none else some .illegalOp
  | 0x014 => if x.toNat < 8 then none else some .illegalOp
  | _ =>
    if 0x38 ≤ n ∧ n < 0x40 then none
    else if 0x30 ≤ n ∧ n < 0x33 ∧ (launch s c.g.launch).flags.getLsbD 3 then
      (if (n < 0x32 ∧ x.getLsbD 0) ∨ (n = 0x32 ∧ 64 ≤ x.toNat) then some .illegalOp else none)
    else some .illegalOp

/-- Same-turn order of special writes: `%fflags` before the flag updates (R190), a trial register before those of a
higher partition, then port (R371). -/
def srLater (s : State) (c : Ctx) (n : Nat) (e : Instr) : Bool :=
  match e with
  | .resultWrite id =>
    let r := mget s.results id
    if n = 0x011 then r.g == c.k
    else 0x30 ≤ n && n < 0x33 && coreKey r.g == coreKey c.k && 2 * partOf c.k + slotOf c.k % 2 < 2 * partOf r.g + slotOf r.g % 2
  | _ => false

/-- `swr`: the register changes at the start of the next turn (R238). -/
def execSwr (h : Hdr) (i : BitVec 12) (a : BitVec 6) (s : State) : Answer :=
  .next (plain (.swr h i a) h s (fun c s =>
    let x := peekScalar s c (numN c.x.ha a.toNat)
    match refusesSpecial s c i.toNat x with
    | some t => .error ⟨t, 0, 0, 0⟩
    | none =>
      let s := (takeScalar s c (numN c.x.ha a.toNat)).2
      let e := insertBefore (srLater s c i.toNat) s.agenda ((c.n + 1) * 8) (.resultWrite s.nextId)
      .ok (tick { s with agenda := e, results := mset s.results s.nextId ⟨c.k, c.n + 1, [.sr i.toNat x], 0, false, c.f.id⟩ })))

/-- `sgetl` (R239): a lane that holds no thread gives an undefined value (R33). -/
def execSgetl (h : Hdr) (f b a : BitVec 6) (s : State) : Answer :=
  .next (plain (.sgetl h f b a) h s (fun c s =>
    if (threads c.g).getLsbD f.toNat then .ok (giveS s c a 1 (namesQueue (.sgetl h f b a) c.x) ((rv c.g b.toNat f.toNat).setWidth 64))
    else
      let x := pickOf (launch s c.g.launch).wroteV (freeWord s c.o 0)
      .ok (giveS (drawn s c.o 1) c a 1 (namesQueue (.sgetl h f b a) c.x) (x.setWidth 64))))

end Sys2Proof.Machine
end

