-- ==== Sys2Proof/Machine/View.lean ====
section
/-! DEFINITION. Memory as it stands at its points of coherence: the stacks with their sealed and poisoned units
(R56, R66, R365), the L2 slices (R42 to R48), what a performed write sets off (R130, R132, R360), the TLBs (R17, R18) and
the page tables (R11 to R16). -/

namespace Sys2Proof.Machine

/-! Stacks. A unit is 64 bytes, named by its address / 64. -/

/-- Bytes as one number of 512 bits, and back. -/
def unitBits (xs : List (BitVec 8)) : BitVec 512 := BitVec.ofNat 512 (numOf xs)

/-- The present seal of an owner: its lock count, while its memory key exists (R365). (DESIGN CHOICE, log entry 6) -/
def sealOf (s : State) (o : Nat) : Option (BitVec 64) := if (owner s o).key.isSome then some (owner s o).lockCount else none

/-- A unit as owner `o` reads it from the stack; the physical function (none) reads ciphertext. (DESIGN CHOICE, log entry 6) -/
def stackUnit (s : State) (o : Option Nat) (unit : Nat) : BitVec 512 :=
  let plain := unitBits (memTake s.mem (unit * 64) 64)
  match mfind s.sealedUnits unit with
  | none => plain
  | some (p, n) => if o = some p ∧ sealOf s p = some n then plain else Config.cipher p n unit plain

/-- Writes bytes of one unit; a write that does not match the unit's seal meets what it stands for in the stack. -/
def stackWrite (s : State) (o : Nat) (prot : Bool) (pa : Nat) (xs : List (BitVec 8)) : State :=
  let unit := pa / 64
  let tag := if prot then (sealOf s o).map (fun n => (o, n)) else none
  let whole := xs.length = 64
  let s := if mfind s.sealedUnits unit = tag ∨ whole then s
    else { s with mem := memPut s.mem (unit * 64) (bytesOf 64 (stackUnit s (some o) unit).toNat) }
  { s with
    mem := memPut s.mem pa xs
    sealedUnits := (match tag with | some t => mset s.sealedUnits unit t | none => mdel s.sealedUnits unit)
    poison := if whole then s.poison.filter (· != unit) else s.poison
    errors := if whole then mdel s.errors unit else s.errors }

/-! L2 slices. -/

/-- Line number of a physical address, and its first address. -/
def lineNo (pa : Nat) : Nat := pa / 128
def sliceOf (pa : Nat) : Nat := offsetOf pa / 128 % 48
def setOf (pa : Nat) : Nat := offsetOf pa / 128 / 48 % 512

def l2Find (s : State) (o die line : Nat) (rep : Bool) : Option L2Line :=
  s.l2.find? (fun l => l.owner == o && l.die == die && l.line == line && l.replica == rep)

def l2Same (a b : L2Line) : Bool := a.owner == b.owner && a.die == b.die && a.line == b.line && a.replica == b.replica
def l2Put (s : State) (l : L2Line) : State :=
  { s with l2 := if s.l2.any (l2Same l) then s.l2.map (fun x => if l2Same l x then l else x) else s.l2 ++ [l] }
def l2Drop (s : State) (l : L2Line) : State := { s with l2 := s.l2.filter (fun x => !l2Same l x) }

/-- Bit mask of some bytes of a line. -/
def byteMask (first n : Nat) : BitVec 128 := BitVec.ofNat 128 ((2 ^ n - 1) * 2 ^ first)
/-- Bytes of a line under a mask replaced. -/
def mergeLine (old new : BitVec 1024) (mask : BitVec 128) : BitVec 1024 :=
  BitVec.ofNat 1024 (((List.range 128).map (fun i => (if mask.getLsbD i then ext new (8 * i) 8 else ext old (8 * i) 8) * 2 ^ (8 * i))).sum)
def lineBytes (l : BitVec 1024) (first n : Nat) : List (BitVec 8) := bytesOf n (l.toNat / 2 ^ (8 * first))

/-- A line as the stack holds it, and whether a unit of it is poisoned or in error beyond correction (R66). -/
def stackLine (s : State) (o line : Nat) : BitVec 1024 :=
  stackUnit s (some o) (2 * line + 1) ++ stackUnit s (some o) (2 * line)
/-- DESIGN CHOICE, log entry 126. -/
def badUnit (s : State) (unit : Nat) : Bool := s.poison.contains unit || 2 < mget s.errors unit

/-- A correction or a failed decode is counted (R67). -/
def noteDecode (s : State) (unit o : Nat) (scrub : Bool) : State :=
  let die := homeOf (unit * 64)
  let off := 0x200 + 0x20 * die
  let s := if badUnit s unit then
      let c := pfGet s (off + 0x10)
      let s := pfSet s (off + 0x10) (putBits c 0 32 (min (2 ^ 32 - 1) (ext c 0 32 + 1)))
      if (pfGet s (off + 8)).getLsbD 63 then s
      else pfSet s (off + 8) (BitVec.ofNat 64 (2 ^ 63 + unit % 2 ^ 46 * 64 + (if scrub then 32 else o)))
    else if 0 < mget s.errors unit then
      let c := pfGet s off
      pfSet s off (putBits c 0 32 (min (2 ^ 32 - 1) (ext c 0 32 + 1)))
    else s
  s

/-- An L2 way that a running drain empties, which takes no new line (R52). -/
def drained (w : Owner) (way : Nat) : Bool := match w.drain with | some d => d.l2.getLsbD way | none => false

/-- The victim among the owner's ways of the set: the lowest invalid way, otherwise the least recent line (R46). -/
def l2Victim (s : State) (o die line : Nat) : Nat × Option L2Line :=
  let ways := (List.range 32).filter (fun w => (owner s o).l2ways.getLsbD w && !drained (owner s o) w)
  let here := s.l2.filter (fun l => l.owner == o && l.die == die && sliceOf (l.line * 128) == sliceOf (line * 128) &&
    !drained (owner s o) l.way && setOf (l.line * 128) == setOf (line * 128))
  match ways.find? (fun w => !here.any (fun l => l.way == w)) with
  | some w => (w, none)
  | none =>
    let old := here.foldl (fun m l => match m with | none => some l | some x => if l.used < x.used then some l else some x) none
    (match old with | some l => l.way | none => 0, old)

/-- Recency of an access under a policy: a stream access makes its line the next victim (R47). -/
def recency (s : State) (policy : Nat) : Nat := if policy = 1 then 2 ^ 63 - s.nextId else 2 ^ 63 + s.nextId

/-! The channels (R57, R59 to R63). -/

/-- A line's bank group. -/
def bankGroup (line : Nat) : Nat := offsetOf (line * 128) / 128 / 48 % 8

/-- An owner's requests at a slice that no position has served. -/
def chanQueue (s : State) (o die slice : Nat) : List (Nat × ChanReq) :=
  s.channels.filter (fun e => e.2.owner == o && e.2.die == die && sliceOf (e.2.line * 128) == slice && !e.2.served)

/-- The owner's next memory-channel position is watched while requests wait. -/
def watchChannel (s : State) (o die slice clock : Nat) : State :=
  if s.agenda.any (fun e => match e.2 with | .channelAccess d c p => d == die && c == slice && p == o | _ => false) then s
  else post s (nextPos s o 9 clock) (.channelAccess die slice o)

/-- A request goes to the slice's two channels: at most 16 are queued, those on their 6 clocks' way included; others wait at the
slice (R61, R62). (DEDUCED, log entry 118) -/
def chanSend (s : State) (r : ChanReq) : State :=
  let slice := sliceOf (r.line * 128)
  let queued := (chanQueue s r.owner r.die slice).filter (fun e => e.2.entered.isSome)
  let r := { r with entered := if queued.length < 16 then some (s.clock + 6) else none }
  watchChannel (tick { s with channels := mset s.channels s.nextId r }) r.owner r.die slice (s.clock + 6)

/-- The fill read of a line, and the write of a victim. -/
def fillOf (o die line : Nat) : ChanReq := { (default : ChanReq) with owner := o, die := die, line := line }
/-- DEDUCED, log entry 27. -/
def victimOf (l : L2Line) : ChanReq :=
  { (default : ChanReq) with
    owner := l.owner, die := homeOf (l.line * 128), line := l.line, write := true, kept := l.data, mask := l.valid, prot := l.prot
    poisoned := l.poisoned }

/-- A line leaves its way. What a fill under way for it brings is older than the bytes that were valid. (DEDUCED, log entry 27) -/
def dropLine (s : State) (l : L2Line) : State :=
  let s := l2Drop s l
  if l.replica ∨ l.valid = BitVec.allOnes 128 then s
  else { s with channels := mall s.channels (fun _ c =>
    if c.owner = l.owner ∧ c.line = l.line ∧ !c.write then { c with kept := mergeLine c.kept l.data l.valid, mask := c.mask ||| l.valid } else c) }

/-- A line leaves its way, and its channels are sent its write where it is dirty (R62). -/
def evict (s : State) (l : L2Line) : State := if l.dirty = 0 then dropLine s l else chanSend (dropLine s l) (victimOf l)

/-- One half of a victim reaches the stack, poison included (R54, R66). (DEDUCED, log entry 27) -/
def writeHalf (s : State) (c : ChanReq) (half : Nat) : State :=
  let unit := 2 * c.line + half
  let old := stackUnit s (some c.owner) unit
  let bad := c.poisoned || (badUnit s unit && ext c.mask (64 * half) 64 != 2 ^ 64 - 1)
  let new := BitVec.ofNat 512 (((List.range 64).map (fun i =>
    (if c.mask.getLsbD (64 * half + i) then ext c.kept (8 * (64 * half + i)) 8 else ext old (8 * i) 8) * 2 ^ (8 * i))).sum)
  let s := stackWrite s c.owner c.prot (unit * 64) (bytesOf 64 new.toNat)
  if bad then { s with poison := unit :: s.poison } else s

/-- A write request's position on its two channels (R62, R63). -/
def writeVictim (s : State) (c : ChanReq) : State := writeHalf (writeHalf s c 0) c 1

/-- A line is allocated with nothing valid: its fill read is sent first, then a dirty victim's write (R45, R62). -/
def l2Allocate (s : State) (o die line policy : Nat) (rep hc prot fill : Bool) : State :=
  let (w, victim) := l2Victim s o die line
  let s := match victim with | some v => dropLine s v | none => s
  let s := tick (l2Put s ⟨o, die, line, w, 0, 0, 0, rep, false, false, hc, prot, recency s policy, 0, default⟩)
  let s := if fill then chanSend s (fillOf o die line) else s
  match victim with
  | some v => if v.dirty = 0 then s else chanSend s (victimOf v)
  | none => s

/-- Fill data reaches a line: only bytes no write has covered since its allocation (R45); poison as R66 gives. -/
def l2Fill (s : State) (o die line : Nat) (rep : Bool) (data : BitVec 1024) (bad : Bool) : State :=
  match l2Find s o die line rep with
  | none => s
  | some l => l2Put s { l with data := mergeLine data l.data l.valid, valid := BitVec.allOnes 128, poisoned := l.poisoned || bad }

/-- A line as its stack will hold it once its victims' writes on the way are performed. -/
def pendingLine (s : State) (o line : Nat) : BitVec 1024 :=
  (s.channels.filter (fun e => e.2.owner == o && e.2.line == line && e.2.write)).foldl (fun d e => mergeLine d e.2.kept e.2.mask) (stackLine s o line)

/-- A line that no code corrects: of the slice, or of the stack. -/
def badLine (s : State) (o line : Nat) : Bool :=
  match l2Find s o (homeOf (line * 128)) line false with
  | some l => l.poisoned
  | none => badUnit s (2 * line) || badUnit s (2 * line + 1)

/-- Bytes at a space-0 address as a read served now at its home returns them. -/
def homeBytes (s : State) (o pa n : Nat) : List (BitVec 8) :=
  let line := lineNo pa
  let base := pendingLine s o line
  match l2Find s o (homeOf pa) line false with
  | some l => lineBytes (mergeLine base l.data l.valid) (pa % 128) n
  | none => lineBytes base (pa % 128) n

/-- Bytes of one line as a read of the stack that takes no position finds them, decoded and counted; none where they are
uncorrectable (R66, R67). -/
def readHome (s : State) (o pa n : Nat) : Option (List (BitVec 8)) × State :=
  let line := lineNo pa
  let held := (l2Find s o (homeOf pa) line false).isSome
  let s := if held then s else noteDecode (noteDecode s (2 * line) o false) (2 * line + 1) o false
  (if badLine s o line then none else some (homeBytes s o pa n), s)

/-! What a performed write sets off. -/

/-- A request that arrives in the same clock later: of a higher source die (R75). -/
def laterRequest (s : State) (src : Nat) : Instr → Bool
  | .circuitMessageArrival m => let x := mget s.messages m; (match x.payload with | .request _ => decide (src < x.src) | _ => false)
  | _ => false

/-- A message arrives 36 clocks after its last clock (R73). Requests of one clock arrive in ascending source die (R75). -/
def postMessage (s : State) (m : Nat) : State :=
  let x := mget s.messages m
  match x.payload with
  | .request _ => { s with agenda := insertBefore (laterRequest s x.src) s.agenda x.arrives (.circuitMessageArrival m) }
  | _ => post s x.arrives (.circuitMessageArrival m)

/-- Messages take their clocks on a circuit one after another from a clock on. -/
def layMessages (s : State) (from_ : Nat) : List Nat → State
  | [] => s
  | m :: rest =>
    let x := mget s.messages m
    let last := from_ + x.clocks
    let s := { s with messages := mset s.messages m { x with arrives := last + 36 }
                      agenda := s.agenda.filter (fun e => e.2 != .circuitMessageArrival m) }
    let s := modOwner s x.owner (fun w => { w with busy := mset w.busy (16 * x.src + x.dst) last })
    layMessages (postMessage s m) last rest

/-- Presents a message of some flits to an owner's circuit: it takes the next free clocks. Messages presented in one clock go
by their source: cores first, ascending, then slices (R73). (DEDUCED, log entry 116) -/
def presentFrom (s : State) (rank o src dst flits clock : Nat) (p : Payload) : State :=
  let width := max 1 (circuitWidth s o src dst)
  let clocks := (flits + width - 1) / width
  let m := s.nextId
  let after := s.messages.filter (fun x => x.2.owner == o && x.2.src == src && x.2.dst == dst && x.2.at_ == clock && rank < x.2.rank)
  let free := max clock (mget (owner s o).busy (16 * src + dst))
  let first := after.foldl (fun n x => min n (x.2.arrives - 36 - x.2.clocks)) free
  let s := tick { s with messages := mset s.messages m ⟨o, src, dst, clock, rank, clocks, 0, p⟩ }
  layMessages s first (m :: (sortBy (fun a b => a.2.rank ≤ b.2.rank) after).map (·.1))

/-- The same for a message of a slice. -/
def present (s : State) (o src dst flits clock : Nat) (p : Payload) : State := presentFrom s 32 o src dst flits clock p

/-- Sends the fire notice of a watcher: 8 clocks on its own die, a circuit message otherwise (R130). A queue's WAIT
reads its location again (R133, R353). -/
def sendNotice (s : State) (w : Watcher) (code : Nat) : State :=
  match w.queue with
  | some q => post { s with queues := mmod s.queues q (fun x => { x with watcher := none }) } (s.clock + 8) (.wait (q / 64) (q % 64))
  | none =>
    if dieOf w.g = w.die then post s (s.clock + 8) (.monitorWake w.g code)
    else presentFrom s (33 + sliceOf (w.line * 128)) w.owner w.die (dieOf w.g) 2 s.clock (.fire w.g code)

/-- Watchers that a write to a line of a slice fires: the line's own, and every overflowed one of the slice (R132). -/
def fireWatchers (s : State) (o line : Nat) : State :=
  let die := homeOf (line * 128)
  let hits := s.watchers.filter (fun e => e.2.owner == o && e.2.installed && e.2.die == die &&
    (e.2.line == line || (e.2.overflowed && sliceOf (e.2.line * 128) == sliceOf (line * 128))))
  hits.foldl (fun s e =>
    let s := { s with watchers := mdel s.watchers e.1 }
    let s := match e.2.queue with
      | none => modGroup s e.2.g (fun g => if g.armed = some e.1 then { g with armed := none } else g)
      | some _ => s
    sendNotice s e.2 (if e.2.line = line then 0 else 3)) s

/-- The dirty-page log (R360, R361): the page of a performed write, once in an epoch. -/
def logPage (s : State) (o gpa : Nat) : State :=
  let page := gpa / 65536
  if (vfGet s o 0xA08).getLsbD 0 && !(owner s o).logged.contains page then
    let s := modOwner s o (fun w => { w with logged := page :: w.logged })
    let size := ext (vfGet s o 0xA00) 0 5
    let produced := ext (vfGet s o 0xA10) 0 32
    let used := (produced + 2 ^ 32 - ext (vfGet s o 0xA18) 0 32) % 2 ^ 32
    if (vfGet s o 0xA20).getLsbD 0 then s
    else if used = 2 ^ size then vfSet s o 0xA20 1
    else
      let at_ := ext (vfGet s o 0xA00) 12 40 * 4096 + 8 * (produced % 2 ^ size)
      let req : ExtReq := ⟨o, 1, at_, some (bytesOf 8 page), none, 8, .nobody, true⟩
      vfSet { s with sent := req :: s.sent } o 0xA10 (BitVec.ofNat 64 ((produced + 1) % 2 ^ 32))
  else s

/-- Writes some bytes of one line at its home, performed now: merged under the mask, dirty (R45), poison cleared when
the whole line is written (R54). An absent line is allocated, and its fill sent for (R45). (DEDUCED, log entry 104) -/
def performWrite (s : State) (o pa gpa policy : Nat) (hc prot : Bool) (mask : BitVec 128) (data : BitVec 1024) : State :=
  let s := logPage s o gpa
  let line := lineNo pa
  let die := homeOf pa
  let s := match l2Find s o die line false with
    | none => l2Allocate s o die line policy false hc prot (mask != BitVec.allOnes 128)
    | some l => tick (l2Put s { l with used := recency s policy })
  let s := match l2Find s o die line false with
    | none => s
    | some l => l2Put s { l with data := mergeLine l.data data mask, valid := l.valid ||| mask, dirty := l.dirty ||| mask,
                                 poisoned := l.poisoned && mask != BitVec.allOnes 128,
                                 bad := l.bad && mask != BitVec.allOnes 128 }
  fireWatchers s o line

/-- The same for consecutive bytes within a line. -/
def performBytes (s : State) (o pa gpa policy : Nat) (hc prot : Bool) (xs : List (BitVec 8)) : State :=
  performWrite s o pa gpa policy hc prot (byteMask (pa % 128) xs.length) (BitVec.ofNat 1024 (numOf xs * 2 ^ (8 * (pa % 128))))

/-- An L1 copy of a line in a core is invalidated (R43); no write removes a replica's (R48). -/
def l1Drop (s : State) (o core line : Nat) : State :=
  { s with l1 := s.l1.filter (fun l => !(l.owner == o && l.at_ == core && l.line == line && !l.replica)) }

/-- The L1 refresh of an acquire at .clu or wider (R44). -/
def l1Refresh (s : State) (o core : Nat) : State :=
  { s with l1 := s.l1.filter (fun l => !(l.owner == o && l.at_ == core)) }

/-! Page tables. -/

/-- A table entry's fate (R12): the reason of its fault. -/
def pteReason (level : Nat) (e : BitVec 64) : Option Nat :=
  if !e.getLsbD 0 then some 3
  else if ext e 52 12 ≠ 0 ∨ ext e 8 8 ≠ 0 then some 4
  else if level ≠ 2 ∧ e.getLsbD 1 then some 4
  else if level ≠ 3 ∧ e.getLsbD 6 then some 4
  else if level = 2 ∧ e.getLsbD 1 ∧ ext e 16 13 ≠ 0 then some 4
  else none

def pteAddr (e : BitVec 64) : Nat := ext e 16 36 * 65536
/-- The entry ends the stage. -/
def pteLeaf (level : Nat) (e : BitVec 64) : Bool := level == 3 || e.getLsbD 1

/-- A leaf's translation of an address (R11). -/
def leafXlat (e : BitVec 64) (size addr : Nat) : Xlat :=
  ⟨addr / size * size, pteAddr e / size * size, pteAddr e / size * size, size, e.getLsbD 2, e.getLsbD 3, e.getLsbD 5, e.getLsbD 4, e.getLsbD 7⟩

/-- The 32 entries of a run merge (R13). -/
def runMerges (es : List (BitVec 64)) : Bool :=
  let e0 := es.head?.getD 0
  es.length == 32 && pteAddr e0 % 2 ^ 21 == 0 &&
  es.zipIdx.all (fun e => (pteReason 3 e.1).isNone && e.1.getLsbD 6 && ext e.1 0 8 == ext e0 0 8 && pteAddr e.1 == pteAddr e0 + 65536 * e.2)

/-- The translation of a level-3 leaf whose run has been read (R13), or of any other leaf. -/
def leafOf (level : Nat) (e : BitVec 64) (run : List (BitVec 64)) (addr : Nat) : Xlat :=
  if level = 2 then leafXlat e (2 ^ 29) addr
  else if e.getLsbD 6 && runMerges run then leafXlat (run.head?.getD 0) (2 ^ 21) addr
  else leafXlat e 65536 addr

/-- Shift of a level's index. -/
def levelShift (level : Nat) : Nat := if level = 1 then 42 else if level = 2 then 29 else 16
/-- Address of a level's entry in a table. -/
def entryAddr (table level addr : Nat) : Nat := table + 8 * (addr / 2 ^ levelShift level % 8192)
/-- Addresses of a run's entries. -/
def runAddrs (entry : Nat) : List Nat := (List.range 32).map (fun i => entry / 256 * 256 + 8 * i)

/-- The physical address checks (R9): the reason of a fault. (DEDUCED, log entry 22) -/
def paReason (s : State) (o pa : Nat) : Option Nat :=
  let sp := spaceOf pa
  let peer := (owner s o).peers.find? (fun p => p.1 + 2 == sp)
  if sp = 15 then some 0xB
  else if sp = 1 then none
  else if 6 ≤ sp then some 5
  else if pa / 2 ^ 40 % 256 ≠ 0 ∨ 0xC00000000 ≤ offsetOf pa then some 5
  else if sp = 0 then (if liveDie s (homeOf pa) then none else some 5)
  else match peer with
    | some p => if p.2.getLsbD (homeOf pa) then none else some 5
    | none => some 5

/-- The combined translation (R16). -/
def combine (s1 s2 : Xlat) (va : Nat) : Xlat :=
  let size := min s1.size s2.size
  let gpa := s1.pa + (va - s1.va)
  ⟨va / size * size, gpa / size * size, (s2.pa + (gpa - s2.va)) / size * size, size, s1.w && s2.w, s1.x && s2.x, s1.rep && s2.rep,
    s1.prot || s2.prot, s1.hc || s2.hc⟩

/-- DEDUCED, log entry 22. -/
def wf (reason level stage table : Nat) : WalkFault := ⟨reason, level, stage, table, none⟩

/-- The circuit a message to a die needs, each way (R76): the missing direction. -/
def circuitMissing (s : State) (o src dst : Nat) : Option (Nat × Nat) :=
  if src = dst then none
  else if circuitWidth s o src dst = 0 then some (src, dst)
  else if circuitWidth s o dst src = 0 then some (dst, src)
  else none

/-- The far end of an access from a die: a home die, or a peer port's code; none for space 1 and for local accesses. -/
def farEnd (pa : Nat) : Option Nat :=
  if spaceOf pa = 0 then some (homeOf pa) else if spaceOf pa = 1 then none else some (12 + (spaceOf pa - 2))

/-- An access's circuit check; a peer port also needs a lane (R90). -/
def accessCircuit (s : State) (o die pa : Nat) : Option (Nat × Nat) :=
  match farEnd pa with
  | none => none
  | some d => match circuitMissing s o die d with
    | some m => some m
    | none => if 12 ≤ d ∧ !hasLane s o (d - 12) then some (die, d) else none

/-- One stage, level by level: `tpa` gives a table's physical address, entries are read at their home. -/
def walkStage (s : State) (o die st : Nat) (tpa : Nat → Nat → Except WalkFault Nat) (addr : Nat) : List Nat → Nat → Except WalkFault Xlat
  | [], _ => .error (wf 3 0 st 0)
  | level :: rest, table => do
    let base ← tpa table level
    match circuitMissing s o die (homeOf base) with
    | some m => throw ⟨0, 0, 0, 0, some m⟩
    | none => pure ()
    let at_ := entryAddr base level addr
    let e := BitVec.ofNat 64 (numOf (homeBytes s o at_ 8))
    match pteReason level e with
    | some r => throw (wf r level st 0)
    | none => pure ()
    if pteLeaf level e then
      pure (leafOf level e ((runAddrs at_).map (fun a => BitVec.ofNat 64 (numOf (homeBytes s o a 8)))) addr)
    else walkStage s o die st tpa addr rest (pteAddr e)

/-- Stage 2 of a guest-physical address (R15). -/
def stage2 (s : State) (o die gpa : Nat) : Except WalkFault Xlat :=
  let root := entry s o 0x00
  if root.getLsbD 0 then
    walkStage s o die 1 (fun t _ => match paReason s o t with | some r => .error (wf r 0 1 0) | none => .ok t) gpa [1, 2, 3] (pteAddr root)
  else .error (wf 3 1 1 0)

/-- The 32 entries of a run, read with the entry at an address; none where a unit is uncorrectable. -/
def runRead (s : State) (o at_ : Nat) : Option (List (BitVec 64)) × State :=
  let entries (xs : List (BitVec 8)) : List (BitVec 64) := (List.range 16).map (fun i => BitVec.ofNat 64 (numOf ((xs.drop (8 * i)).take 8)))
  match readHome s o (at_ / 256 * 256) 128 with
  | (none, s) => (none, s)
  | (some xs, s) => match readHome s o (at_ / 256 * 256 + 128) 128 with
    | (none, s) => (none, s)
    | (some ys, s) => (some (entries xs ++ entries ys), s)

/-- A stage-2 translation whose entries are read now, from a die over its circuits or, for a request from outside, from space
0 alone (R15, R91, R352); none where an entry is uncorrectable (R66). -/
def stage2Read (o : Nat) (die : Option Nat) (gpa : Nat) : List Nat → Nat → State → Option (Except WalkFault Xlat) × State
  | [], _, s => (some (.error (wf 3 3 1 0)), s)
  | level :: rest, table, s =>
    match (if die.isNone ∧ spaceOf table ≠ 0 then some 5 else paReason s o table) with
    | some r => (some (.error (wf r (max 1 (level - 1)) 1 0)), s)
    | none =>
      match die.bind (fun d => circuitMissing s o d (homeOf table)) with
      | some m => (some (.error ⟨0, 0, 0, 0, some m⟩), s)
      | none =>
        let at_ := entryAddr table level gpa
        match readHome s o at_ 8 with
        | (none, s) => (none, s)
        | (some xs, s) =>
          let e := BitVec.ofNat 64 (numOf xs)
          match pteReason level e with
          | some r => (some (.error (wf r level 1 0)), s)
          | none =>
            if !pteLeaf level e then stage2Read o die gpa rest (pteAddr e) s
            else if level = 3 ∧ e.getLsbD 6 then
              match runRead s o at_ with
              | (none, s) => (none, s)
              | (some run, s) => (some (.ok (leafOf level e run gpa)), s)
            else (some (.ok (leafOf level e [] gpa)), s)

/-- The same from the owner's root. -/
def stage2Now (s : State) (o : Nat) (die : Option Nat) (gpa : Nat) : Option (Except WalkFault Xlat) × State :=
  let root := entry s o 0x00
  if root.getLsbD 0 then stage2Read o die gpa [1, 2, 3] (pteAddr root) s else (some (.error (wf 3 1 1 0)), s)

/-- A whole walk of both stages (R15, R16), as one read of the tables. -/
def walkAll (s : State) (o die va : Nat) : Except WalkFault Xlat := do
  let root := (owner s o).root
  if !root.getLsbD 0 then throw (wf 3 1 0 0)
  let tpa (gpa level : Nat) : Except WalkFault Nat :=
    match stage2 s o die gpa with
    | .error f => .error { f with table := if f.circuit.isSome then 0 else level }
    | .ok x =>
      let pa := x.pa + (gpa - x.va)
      match paReason s o pa with | some r => .error (wf r 0 1 level) | none => .ok pa
  let s1 ← walkStage s o die 0 tpa va [1, 2, 3] (pteAddr root)
  let s2 ← stage2 s o die (s1.pa + (va - s1.va))
  pure (combine s1 s2 va)

/-! TLBs (R17, R18). -/

def tlbCovers (t : TlbEntry) (o at_ va : Nat) (stage2 : Bool) : Bool :=
  t.owner == o && t.at_ == at_ && t.stage2 == stage2 && t.x.va ≤ va && va < t.x.va + t.x.size

/-- Lookups. An entry with an uncorrectable error is no hit (R54). -/
def tlbFind (l : List TlbEntry) (o at_ va : Nat) (stage2 : Bool) : Option TlbEntry :=
  l.find? (fun t => tlbCovers t o at_ va stage2 && !t.bad)

/-- The entry becomes the most recent. -/
def tlbTouch (l : List TlbEntry) (t : TlbEntry) (now : Nat) : List TlbEntry := l.map (fun x => if x = t then { x with used := now } else x)

/-- The least recent of some entries. -/
def leastRecent (l : List TlbEntry) : Option TlbEntry :=
  l.foldl (fun m t => match m with | none => some t | some x => if t.used < x.used then some t else some x) none

/-- A page whose physical addresses fail R9 is cached nowhere (R19): they fail alike. -/
def cacheable (s : State) (o : Nat) (x : Xlat) : Bool := (paReason s o x.pa).isNone

/-- Installs into a core TLB: the owner's banks are one share of 64 entries each, and the lowest bank with room takes an
entry, otherwise that of the least recent one, which leaves. (DEDUCED, log entry 74) -/
def coreInstall (s : State) (o key : Nat) (x : Xlat) : State :=
  let keep := s.coreTlb.filter (fun t => !(tlbCovers t o key x.va false && t.x.size == x.size))
  let mine := keep.filter (fun t => t.owner == o && t.at_ == key)
  let put (l : List TlbEntry) (b : Nat) : State := tick { s with coreTlb := l ++ [⟨o, key, false, x, b, 0, s.nextId, false⟩] }
  if !cacheable s o x then s
  else match (lanesOf (owner s o).ctlb).find? (fun b => (mine.filter (fun t => t.bank == b)).length < 64) with
    | some b => put keep b
    | none => match leastRecent mine with
      | some v => put (keep.filter (fun t => t != v)) v.bank
      | none => s

/-- Bank and set of a translation in an owner's die-TLB banks. (DEDUCED, log entry 74) -/
def diePlace (s : State) (o va size : Nat) : Nat × Nat :=
  let banks := lanesOf (owner s o).dtlb
  let k := max 1 banks.length
  let bank (n : Nat) : Nat := banks.getD (n % k) 0
  if size = 65536 then (bank (va / 2 ^ 21), va / 2 ^ 16 % 32)
  else if size = 2 ^ 21 then (bank (va / 2 ^ 26), va / 2 ^ 21 % 32)
  else (bank (va / 2 ^ 34), va / 2 ^ 29 % 32)

/-- The entries of a die TLB's set in one bank. -/
def dieSet (s : State) (o die : Nat) (p : Nat × Nat) (t : TlbEntry) : Bool :=
  t.owner == o && t.at_ == die && t.bank == p.1 && t.set == p.2 && (owner s o).dtlb.getLsbD p.1

/-- A lookup probes one bank and set for each size; of several that cover the address the smallest page is taken.
(DEDUCED, log entry 74) -/
def dieFind (s : State) (o die va : Nat) (st2 : Bool) : Option TlbEntry :=
  [65536, 2 ^ 21, 2 ^ 29].findSome? (fun size =>
    s.dieTlb.find? (fun t => t.x.size == size && dieSet s o die (diePlace s o va size) t && tlbCovers t o die va st2 && !t.bad))

/-- DEDUCED, log entry 74. -/
def dieInstall (s : State) (o die : Nat) (st2 : Bool) (x : Xlat) : State :=
  let p := diePlace s o x.va x.size
  let keep := s.dieTlb.filter (fun t => !(dieSet s o die p t && tlbCovers t o die x.va st2 && t.x.size == x.size))
  let here := keep.filter (dieSet s o die p)
  let keep := if here.length < 8 then keep
    else match leastRecent here with | some v => keep.filter (fun t => t != v) | none => keep
  if !cacheable s o x ∨ (owner s o).dtlb = 0 then s
  else tick { s with dieTlb := keep ++ [⟨o, die, st2, x, p.1, p.2, s.nextId, false⟩] }

/-- A translation as the core TLB, the die TLB or the tables give it now; what was read is kept (R18). -/
def translate (s : State) (o key va : Nat) : Except WalkFault Xlat × State :=
  let die := key / 32
  match tlbFind s.coreTlb o key va false with
  | some t => (.ok t.x, tick { s with coreTlb := tlbTouch s.coreTlb t s.nextId })
  | none => match dieFind s o die va false with
    | some t => (.ok t.x, coreInstall (tick { s with dieTlb := tlbTouch s.dieTlb t s.nextId }) o key t.x)
    | none => match walkAll s o die va with
      | .error f => (.error f, s)
      | .ok x => (.ok x, coreInstall (dieInstall s o die false x) o key x)

/-- The checks of R25 after translation: physical address, then permissions (R26) for kind 0 read, 1 write, 2 fetch. (DEDUCED, log entry 22) -/
def accessReason (s : State) (o kind : Nat) (prot : Bool) (x : Xlat) (pa : Nat) : Option Nat :=
  match paReason s o pa with
  | some r => some r
  | none =>
    if kind = 1 ∧ !x.w then some 8
    else if kind = 2 ∧ !x.x then some 9
    else if x.prot ∧ !prot then some 0xA
    else none

/-- The cause and the detail word of a failed access (R27, R76). -/
def faultTrap (engine : Bool) (lane kind : Nat) (va : BitVec 64) (f : WalkFault) : Trap :=
  match f.circuit with
  | some (a, b) =>
    ⟨.circuitAbsent, 0, BitVec.ofNat 32 (b + 16 * a + 256 * (if kind = 2 then 0 else kind) + 1024 * lane + 32768 * b2n engine), va⟩
  | none =>
    let k := if f.table = 0 then kind else 3
    ⟨if 8 ≤ f.reason then .permission else .translation, 0,
      detailWord engine lane k f.stage f.level f.reason (if f.table = 0 then 0 else kind) f.table, va⟩

/-- A translated, checked access that the model makes as one: its physical address and translation. -/
def reachFor (s : State) (o key kind : Nat) (prot engine : Bool) (lane : Nat) (va : BitVec 64) : Except Trap (Nat × Xlat) × State :=
  let out (f : WalkFault) : Trap := faultTrap engine lane kind va f
  if !canonical va then (.error (out (wf 1 0 0 0)), s)
  else match translate s o key va.toNat with
    | (.error f, s) => (.error (out f), s)
    | (.ok x, s) =>
      let pa := paOf x va.toNat
      match accessReason s o kind prot x pa with
      | some r => (.error (out (wf r 0 0 0)), s)
      | none => match accessCircuit s o (key / 32) pa with
        | some m => (.error (out ⟨0, 0, 0, 0, some m⟩), s)
        | none => (.ok (pa, x), s)

end Sys2Proof.Machine
end

