-- ==== Sys2Proof/Machine/Events.lean ====
section
/-! DEFINITION. What leaves the package on the host link, and an owner's event ring (R355 to R357, R359) and dirty-page
log (R360). -/

namespace Sys2Proof.Machine

/-- A posted write to a host bus address (R10). -/
def hostWrite (s : State) (o addr : Nat) (xs : List (BitVec 8)) : State :=
  { s with sent := ⟨o, 1, addr, some xs, none, xs.length, .nobody, true⟩ :: s.sent }

/-- Base and capacity of the event ring. -/
def ringBase (s : State) (o : Nat) : Nat := ext (vfGet s o 0x800) 12 40 * 4096
def ringCapacity (s : State) (o : Nat) : Nat := 2 ^ ext (vfGet s o 0x800) 0 5

/-- Writes a record's 16-byte units from a producer index, which wraps. -/
def ringPut (s : State) (o base cap : Nat) : Nat → List (List (BitVec 8)) → State
  | _, [] => s
  | i, u :: r => ringPut (hostWrite s o (base + 64 + 16 * (i % cap)) u) o base cap (i + 1) r

/-- Units of 16 bytes. -/
def units16 : Nat → List (BitVec 8) → List (List (BitVec 8))
  | 0, _ => []
  | n + 1, xs => xs.take 16 :: units16 n (xs.drop 16)

/-- Writes a record now, if the ring is enabled and it fits (R357). (DEDUCED, log entry 29) -/
def writeRecord (s : State) (o : Nat) (record : List (BitVec 8)) : State :=
  let w := owner s o
  let len := record.length / 16
  if !(vfGet s o 0x808).getLsbD 0 then s
  else if (w.producer - w.consumer).toNat + len > ringCapacity s o then
    let s := modOwner s o (fun w => { w with overflow := w.overflow + 1 })
    hostWrite s o (ringBase s o + 0x10) (bytesOf 8 (w.overflow + 1).toNat)
  else
    let s := ringPut s o (ringBase s o) (ringCapacity s o) w.producer.toNat (units16 len record)
    let p := w.producer + BitVec.ofNat 64 len
    let s := modOwner s o (fun w => { w with producer := p, recent := w.recent ++ [ocyc s o] })
    hostWrite s o (ringBase s o) (bytesOf 8 p.toNat)

/-- Records written in the last 2^20 owner cycles. -/
def recentRecords (s : State) (o : Nat) : List Nat := (owner s o).recent.filter (fun t => ocyc s o < t + 2 ^ 20)

/-- A record is numbered, and written unless the limit of R359 holds it back. (DEDUCED, log entry 29; DEDUCED, log entry 107) -/
def numberRecord (s : State) (o ty queue : Nat) (body : List (BitVec 8)) : State :=
  let w := owner s o
  let record := bytesOf 2 ty ++ bytesOf 2 ((16 + body.length) / 16) ++ bytesOf 1 queue ++ bytesOf 3 0 ++ bytesOf 8 w.seq.toNat ++ body
  let recent := recentRecords s o
  let s := modOwner s o (fun w => { w with seq := w.seq + 1, recent := recent })
  if w.delayed.isEmpty ∧ recent.length < 64 then writeRecord s o record
  else
    let s := modOwner s o (fun w => { w with delayed := w.delayed ++ [record] })
    if w.delayed.isEmpty ∧ !s.agenda.any (fun e => match e.2 with | .eventRecordSlot p => p == o | _ => false) then
      post s (s.clock + (recent.head?.getD 0 + 2 ^ 20 - ocyc s o)) (.eventRecordSlot o)
    else s

/-- A request writes an owner's event ring. -/
def toRing (s : State) (o : Nat) (r : ExtReq) : Bool :=
  r.owner == o && r.space == 1 && r.posted && ringBase s o ≤ r.addr && r.addr < ringBase s o + 64 + 16 * ringCapacity s o

/-- What the records of one clock were added to stands again: the ring's writes of that clock are taken back. (DEDUCED, log entry 107) -/
def takeBack (s : State) (o : Nat) (a : Arisen) : State :=
  let n := s.sent.length - a.sent
  let s := { s with sent := (s.sent.take n).filter (fun r => !toRing s o r) ++ s.sent.drop n }
  modOwner s o (fun w => { w with seq := a.seq, recent := a.recent, delayed := a.delayed, producer := a.producer, overflow := a.overflow })

/-- A record arises (R356). Those of one clock are written in ascending type and then queue: one that comes before others of its
clock is written with them in that order. (DEDUCED, log entry 107) -/
def eventRecord (s : State) (o ty queue : Nat) (body : List (BitVec 8)) : State :=
  let w := owner s o
  let a : Arisen := match w.arose with
    | some a => if a.clock = s.clock then a else ⟨s.clock, [], w.seq, w.recent, w.delayed, w.producer, w.overflow, s.sent.length⟩
    | none => ⟨s.clock, [], w.seq, w.recent, w.delayed, w.producer, w.overflow, s.sent.length⟩
  let before (x : Nat × Nat × List (BitVec 8)) : Bool := x.1 < ty || (x.1 == ty && x.2.1 ≤ queue)
  let s := if a.records.all before then numberRecord s o ty queue body
    else (a.records.filter before ++ (ty, queue, body) :: a.records.filter (fun x => !before x)).foldl
      (fun s x => numberRecord s o x.1 x.2.1 x.2.2) (takeBack s o a)
  modOwner s o (fun w => { w with
    arose := some { a with records := a.records.filter before ++ (ty, queue, body) :: a.records.filter (fun x => !before x) } })

/-- R359: a held record reaches its slot. (DEDUCED, log entry 107) -/
def execEventRecordSlot (o : Nat) (s : State) : Answer :=
  .next (match (owner s o).delayed with
  | [] => s
  | record :: rest =>
    let recent := recentRecords s o
    if recent.length < 64 then
      let s := writeRecord (modOwner s o (fun w => { w with delayed := rest, recent := recent })) o record
      if rest.isEmpty then s
      else post s (s.clock + max 1 (if recent.length < 63 then 1 else recent.head?.getD 0 + 2 ^ 20 - ocyc s o)) (.eventRecordSlot o)
    else post s (s.clock + max 1 (recent.head?.getD 0 + 2 ^ 20 - ocyc s o)) (.eventRecordSlot o))

/-- R355: the doorbell gives the consumer index, whose low 32 bits it holds. (DEDUCED, log entry 28) -/
def execEventRingDoorbell (o : Nat) (v : BitVec 64) (s : State) : Answer :=
  .next (modOwner s o (fun w =>
    { w with consumer := w.producer - BitVec.ofNat 64 (ext (w.producer - v) 0 32) }))

/-- R360: no page counts as logged. -/
def execDirtyLogEpoch (o : Nat) (s : State) : Answer := .next (modOwner s o (fun w => { w with logged := [] }))

/-- A correction-refetch record (R54). -/
def correctionRecord (s : State) (o : Nat) : State := eventRecord s o 6 0xFF (bytesOf 8 (ocyc s o) ++ bytesOf 8 0)

end Sys2Proof.Machine
end

