-- ==== Sys2Proof/Machine/Fetch.lean ====
section
/-! DEFINITION. The front end: code read through the L0 and the loop buffer (R136, R198, R412), the instruction a
fragment would issue next, which fragments are ready (R155, R173, R178, R402), and the choice of what issues in a clock
(R172, R173). -/

namespace Sys2Proof.Machine

/-! Code. -/

/-- What a read of one halfword of code gives. -/
inductive Fetched where
  | half (x : Half)
  /-- its granule misses the core TLB -/
  | miss
  /-- its line comes from another space and has not arrived -/
  | away (o pa : Nat)
  | fault (t : Trap)
deriving DecidableEq, Repr, Inhabited

/-- The lowest lane of a fragment, which a fetch fault names. (DEDUCED, log entry 25) -/
def lowLane (f : Frag) : Nat := (lanesOf f.mask).head?.getD 0

/-- Lines of an owner's L0 share in a partition: 64 lines over the 20 ways of the L1 mask (R42). (DEDUCED, log entry 24) -/
def l0Share (s : State) (o : Nat) : Nat := max 1 (64 * (lanesOf ((owner s o).l1ways.setWidth 32)).length / 20)

/-- A line in an L0. -/
def l0Find (s : State) (o part line : Nat) : Option CoreLine :=
  s.l0.find? (fun l => l.owner == o && l.at_ == part && l.line == line && !l.bad)

/-- A line enters the L0 share; the least recent makes room. (DEDUCED, log entry 24) -/
def l0Put (s : State) (o part line : Nat) (data : BitVec 1024) : State :=
  let hit := s.l0.any (fun l => l.owner == o && l.at_ == part && l.line == line && l.bad)
  let keep := s.l0.filter (fun l => !(l.owner == o && l.at_ == part && l.line == line))
  let mine := keep.filter (fun l => l.owner == o && l.at_ == part)
  let old := mine.foldl (fun m l => match m with | none => some l | some x => if l.used < x.used then some l else some x) none
  let keep := if mine.length < l0Share s o then keep
    else match old with | some v => keep.filter (fun l => l != v) | none => keep
  let s := tick { s with l0 := keep ++ [⟨o, part, line, 0, data, s.nextId, false, false, 0, default⟩] }
  if hit then correctionRecord s o else s

/-- The looping group's buffer serves the fragment at an address (R227, R229). -/
def fromLoop (g : Group) (f : Frag) (va : BitVec 64) : Bool :=
  match g.loop with
  | some p => (f.mask &&& p.lanes &&& ~~~p.suspended) == f.mask && f.mask != 0 && p.start ≤ va && va < p.stop
  | none => false

/-- The halfword at an address through the L0, and the state with the line in it; a missing line comes from its home over the
fetch path of R412, which allocates nothing. (DEDUCED, log entry 25; DESIGN CHOICE, log entry 26) -/
def lineHalf (s : State) (k : Nat) (f : Frag) (va : BitVec 64) : Fetched × State :=
  let g := group s k
  let o := g.owner
  let t (w : WalkFault) : Fetched := .fault (faultTrap false (lowLane f) 2 va w)
  if !canonical va then (t (wf 1 0 0 0), s)
  else if inWindow va then (t (wf 9 0 0 0), s)
  else match tlbFind s.coreTlb o (coreKey k) va.toNat false with
    | none => (.miss, s)
    | some e =>
      let pa := paOf e.x va.toNat
      let s := tick { s with coreTlb := tlbTouch s.coreTlb e s.nextId }
      match accessReason s o 2 (launchFlag s g 2) e.x pa with
      | some r => (t (wf r 0 0 0), s)
      | none =>
        let pick (d : BitVec 1024) : Fetched := .half (BitVec.ofNat 16 (d.toNat / 2 ^ (8 * (pa % 128))))
        match l0Find s o (partKey k) (lineNo pa) with
        | some l => (pick l.data, s)
        | none =>
          if spaceOf pa = 0 then
            match readHome s o (lineNo pa * 128) 128 with
            | (none, s) => (.fault ⟨.uncorrectable, 0, 0, va⟩, s)
            | (some xs, s) =>
              let d := BitVec.ofNat 1024 (numOf xs)
              (pick d, l0Put s o (partKey k) (lineNo pa) d)
          else (.away o pa, s)

/-- The halfword at an address, from the loop buffer where it serves the fragment. -/
def fetchHalf (s : State) (k : Nat) (f : Frag) (va : BitVec 64) : Fetched × State :=
  let g := group s k
  if fromLoop g f va then
    match g.loop.bind (fun p => p.body.find? (fun e => e.1 == va)) with
    | some e => (.half e.2, s)
    | none => match lineHalf s k f va with
      | (.half x, s) => (.half x, modGroup s k (fun g => { g with loop := g.loop.map (fun p => { p with body := p.body ++ [(va, x)] }) }))
      | r => r
  else lineHalf s k f va

/-- The halfwords of the instruction at an address, or what the first that is not there met, with its address. -/
def fetchWord (s : State) (k : Nat) (f : Frag) (va : BitVec 64) : Except (Fetched × BitVec 64) (List Half) × State :=
  match fetchHalf s k f va with
  | (.half lo, s) =>
    if lengthOf lo = 2 then (.ok [lo], s)
    else match fetchHalf s k f (va + 2) with
      | (.half hi, s) => (.ok [lo, hi], s)
      | (r, s) => (.error (r, va + 2), s)
  | (r, s) => (.error (r, va), s)

/-- The body of a loop as far as its code can be read now: the rest is read as it is reached (R227). -/
def loopBody (s : State) (k : Nat) (f : Frag) (first : BitVec 64) : Nat → List (BitVec 64 × Half) × State
  | 0 => ([], s)
  | n + 1 =>
    let (rest, s) := loopBody s k f first n
    let va := first + BitVec.ofNat 64 (2 * n)
    match lineHalf s k f va with
    | (.half x, s) => (rest ++ [(va, x)], s)
    | _ => (rest, s)

/-! The next instruction of a fragment. -/

/-- What a fragment would issue next: the words of its instruction, its prefix, and its place. -/
structure Next where
  instr : Except DecodeError Instr
  hdr : Hdr
  pfx : Option Prefix
  pc : BitVec 64
  next : BitVec 64
  looped : Bool

/-- The header of an instruction's words. -/
def wordHdr : List Half → Hdr
  | [lo, hi] => hdrOf (lo.toNat + 65536 * hi.toNat)
  | _ => shortHdr 0

/-- An instruction that may follow a prefix: 32 bits, and no prefix (R205). -/
def mayFollow (ws : List Half) : Bool :=
  ws.length == 2 && (match decode ws with | .ok (.xp _ _ _ _) => false | _ => true)

/-- The address at which a fragment stands: its window's, where one is open. -/
def standsAt (g : Group) (f : Frag) : BitVec 64 := match openWindow g f.id with | some w => w.next | none => f.pc

/-- A fetch that has failed for the fragment where it stands (R198). -/
def failedFetch (g : Group) (x : Frag) : Option (BitVec 64 × WalkFault) :=
  match x.fetchFault with
  | some (pc, va, f) => if pc = standsAt g x then some (va, f) else none
  | none => none

/-- Reads the instruction a fragment stands at, with its prefix. -/
def nextInstr (s : State) (k f : Nat) : Except (Fetched × BitVec 64) Next × State :=
  let g := group s k
  let x := frag g f
  let pc := standsAt g x
  match failedFetch g x with
  | some (va, w) => (.error (.fault (faultTrap false (lowLane x) (if w.circuit.isSome then 0 else 2) va w), va), s)
  | none =>
  match fetchWord s k x pc with
  | (.error e, s) => (.error e, s)
  | (.ok ws, s) =>
    let after := pc + BitVec.ofNat 64 (2 * ws.length)
    match decode ws with
    | .ok (.xp a b c d) =>
      (match fetchWord s k x after with
       | (.error e, s) => (.error e, s)
       | (.ok vs, s) =>
         (.ok ⟨if mayFollow vs then decode vs else .error .prefixUse, wordHdr vs, some ⟨a, d, c, b⟩, pc, after + 4, fromLoop g x pc⟩, s))
    | r => (.ok ⟨r, wordHdr ws, none, pc, after, fromLoop g x pc⟩, s)

/-- The state with the front end set on an instruction of a fragment, issuing in turn `n`. -/
def setCursor (s : State) (k f n : Nat) (x : Next) : State :=
  { s with cur := ⟨k, f, x.pc, x.next, n, x.looped⟩, pfx := x.pfx }

/-! Readiness. -/

/-- Earlier reads of some threads have been served. -/
def readsServed (s : State) (b : Nat) (tids : List Nat) : Bool :=
  !s.accs.any (fun e => ofThreads b tids e.2 && e.2.kind.loads && e.2.reqs.any (laneUnread s e.1 e.2))

/-- The waits of a fence for some lanes of a group have ended: those of R107, and for an acquire the thread's earlier reads
(R105, R279). A `.thr` fence has none. (DEDUCED, log entry 35) -/
def fenceDone (s : State) (k : Nat) (kind scope : Nat) (lanes : BitVec 32) : Bool :=
  let g := group s k
  scope = 0 || (if kind = 1 then readsServed s g.block (tidsOf g lanes) else !owed s k g.block (tidsOf g lanes) scope s.nextId)

/-- A full or acquire fence at .clu or wider refreshes the L1 (R44, R279). -/
def fenceRefreshes (kind scope : Nat) : Bool := kind < 2 && 4 ≤ scope

/-! Monitors (R129 to R133). -/

/-- A group has armed no line: its watchers leave their slices, and fire notices on their way are dropped. -/
def disarm (s : State) (k : Nat) : State :=
  let notice : Instr → Bool := fun i => match i with | .monitorWake g _ => g == k | _ => false
  let fires (m : Message) : Bool := match m.payload with | .fire g _ => g == k | _ => false
  modGroup { s with watchers := s.watchers.filter (fun w => w.2.queue.isSome || w.2.g != k)
                    agenda := s.agenda.filter (fun e => !notice e.2), messages := s.messages.filter (fun m => !fires m.2) }
    k (fun g => { g with armed := none })

/-- Arms on their way leave too: every wake disarms (R131). -/
def disarmAll (s : State) (k : Nat) : State :=
  disarm { s with accs := s.accs.filter (fun e => !(e.2.g == k && e.2.kind == .arm)) } k

/-- Parked fragments of a group wake (R131). -/
def wakeMon (s : State) (k code : Nat) : State :=
  let s := modGroup (disarmAll s k) k (fun g => { g with
    monwhy := BitVec.ofNat 64 code, fired := none
    frags := g.frags.map (fun f => match f.status with | .monWait _ => { f with status := .run, notBefore := max f.notBefore ((s.clock + 7) / 8) } | _ => f) })
  modGroup s k settle

def monParked (g : Group) : Bool := g.frags.any (fun f => match f.status with | .monWait _ => true | _ => false)

/-- An arm of the group is not installed yet: a wait waits for it first (R131). -/
def armUnderway (s : State) (k : Nat) : Bool :=
  s.accs.any (fun e => e.2.g == k && e.2.kind == .arm) || s.watchers.any (fun w => w.2.queue.isNone && w.2.g == k && !w.2.installed)

/-- A fire notice of the group is on its way. -/
def monNotice (s : State) (k : Nat) : Bool :=
  s.agenda.any (fun e => match e.2 with | .monitorWake g _ => g == k | _ => false) ||
  s.messages.any (fun m => match m.2.payload with | .fire g _ => g == k | _ => false)

/-- What ends a wait of the group now, with a limit in owner cycles (R131); none while it goes on. -/
def monCode (s : State) (k limit : Nat) : Option Nat :=
  let g := group s k
  if armUnderway s k then none
  else match g.fired with
    | some code => some code
    | none =>
      if limit ≠ 0 ∧ limit ≤ ocyc s g.owner then some 1
      else if g.armed.isNone ∧ !monNotice s k then some 4
      else none

/-- The fragment's state lets it issue. -/
def unparked (s : State) (k : Nat) (f : Frag) : Bool :=
  match f.status with
  | .run => true
  | .branch => (openWindow (group s k) f.id).any (fun w => w.pcs.length < 4)
  | _ => false

/-- A wait that no event ends is over: a fence's (R279), a `waitc`'s (R285) or that of a `tfree` (R306). -/
def waitOver (s : State) (k : Nat) (f : Frag) : Bool :=
  match f.status with
  | .fence kind scope lanes => fenceDone s k kind scope lanes
  | .refresh => !s.accs.any (fun e => e.2.g == k && e.2.frag == f.id && e.2.kind == .refresh)
  | .monWait limit => (monCode s k limit).isSome
  | .tfree key => !(mget (block s (group s k).block).freeing (partOf k)).contains key
  | .edge => !(heldRegs s k).any (fun r => (group s k).loop.any (fun p => r == (.s, p.ctr)))
  | .classWait cls n _ => counter (group s k) cls ≤ n || (cls == 3 && !(group s k).exits.isEmpty)
  | _ => false

/-- A fragment whose wait is over. -/
def released (s : State) : Option (Nat × Nat) :=
  s.groups.findSome? (fun e => if e.2.live && active s e.2.owner then
    (e.2.frags.find? (waitOver s e.1)).map (fun f => (e.1, f.id)) else none)

/-- A fragment runs again, no earlier than the turn that begins next; at a reconvergence point it parks. -/
def setRun (s : State) (k f : Nat) : State :=
  modGroup s k (fun g => settle (modFrag g f (fun x => { x with status := .run, notBefore := max x.notBefore ((s.clock + 7) / 8) })))

/-- The counter of a loop has returned: the decrement that waited for it, and the back edge (R227). (DEDUCED, log entry 20) -/
def edgeOver (s : State) (k f : Nat) : State :=
  let g := group s k
  match g.loop with
  | none => setRun s k f
  | some p =>
    let v := rs g p.ctr - 1
    let n := turnOf s.clock
    let s := postResult s ⟨k, n + 1, [.s p.ctr v], 0, false, f⟩
    let s := modGroup s k (fun g => modFrag g f (fun x => { x with status := .run, pc := if v = 0 then p.stop else p.start, notBefore := max x.notBefore (n + 1) }))
    modGroup s k (fun g => settle (trimLoop g))

/-- A fragment whose wait is over goes on. After a `waitc` it issues no earlier than the next turn (R285); a pending
REFIRE_EXIT makes it meet the `waitc` again (R320). -/
def release (s : State) (k f : Nat) : State :=
  match (frag (group s k) f).status with
  | .classWait cls _ back =>
    let again := cls == 3 && !(group s k).exits.isEmpty
    setRun (modGroup s k (fun g => modFrag g f (fun x => { x with
      pc := if again then back else x.pc, stepOwed := if again then none else x.stepOwed, notBefore := max x.notBefore (turnOf s.clock + 1) }))) k f
  | .edge => edgeOver s k f
  | .monWait limit => wakeMon s k ((monCode s k limit).getD 4)
  | .fence kind scope lanes =>
    if fenceRefreshes kind scope then beginRefresh s k f lanes else setRun s k f
  | _ => setRun s k f

/-- A fragment whose wait has ended and that owes a SINGLE_STEP (R330). (DEDUCED, log entry 96) -/
def owedStep (s : State) : Option (Nat × Frag) :=
  s.groups.findSome? (fun e => if e.2.live && active s e.2.owner then
    (e.2.frags.find? (fun f => f.stepOwed.isSome && !inWait f.status)).map (fun f => (e.1, f)) else none)

/-- It takes the trap. -/
def stepNow (s : State) (k : Nat) (f : Frag) : State :=
  let (pc, act) := f.stepOwed.getD (0, 0)
  takeTrap (modGroup s k (fun g => modFrag g f.id (fun x => { x with stepOwed := none }))) k f.id
    ⟨.singleStep, act.setWidth 64, 0, 0⟩ pc f.pc (turnOf s.clock)

/-- An owner's misses in a core (R22), and a granule's. -/
def missesOf (s : State) (o core : Nat) : List (Nat × Miss) :=
  s.misses.filter (fun e => e.2.owner == o && 32 * e.2.die + e.2.core == core && !e.2.direct)
def missAt (s : State) (o core granule : Nat) : Option (Nat × Miss) := (missesOf s o core).find? (fun e => e.2.granule == granule)

/-- The fragment's fetch can be asked for, and has not been: its miss can join or enter the miss queue (R22, R411); its line
of another space is not on its way. -/
def canAsk (s : State) (k f : Nat) (x : Fetched) (va : BitVec 64) : Bool :=
  let o := (group s k).owner
  match x with
  | .miss => (match missAt s o (coreKey k) (va.toNat / 65536) with
    | some (_, m) => !m.fetchers.contains (k, f)
    | none => (missesOf s o (coreKey k)).length < 16)
  | .away _ pa => !s.exts.any (fun e => e.2.who == .fetch (partKey k) (lineNo pa))
  | _ => false

/-- The fragment could issue its next instruction in turn `n`, its own gaps of R216 and R336 apart, or is due to ask for it
(R198, R412). (DEDUCED, log entry 17) -/
def ready (s : State) (k : Nat) (f : Frag) (n : Nat) : Bool :=
  unparked s k f && !s.accs.any (fun e => !e.2.surplus.isEmpty && !e.2.kind.apart && e.2.g == k && e.2.frag == f.id) &&
  (match nextInstr s k f.id with
   | (.error (.fault _, _), _) => true
   | (.error (x, va), _) => canAsk s k f.id x va
   | (.ok x, s') =>
     match x.instr with
     | .error _ => true
     | .ok i =>
       let s' := setCursor s' k f.id n x
       let c := ctx s'
       (issueDefect s' c i).isSome || !stalls s' c i x.hdr)

/-- The better of two fragments under R178: fewer outstanding memory operations, lower PC, lower lane. -/
def better (s : State) (k : Nat) (a b : Frag) : Bool :=
  let m := memOps s k a.id
  let n := memOps s k b.id
  m < n || (m == n && (a.pc < b.pc || (a.pc == b.pc && lowLane a < lowLane b)))

/-- The turn from which a fragment's wait under R155 counts: its last issue, or when it could issue again. -/
def Frag.waits (f : Frag) : Nat := max f.since f.notBefore

/-- The longest waiting of two that hold priority (R155). (DEDUCED, log entry 34) -/
def longer (a b : Frag) : Bool :=
  a.waits < b.waits || (a.waits == b.waits && (a.pc < b.pc || (a.pc == b.pc && lowLane a < lowLane b)))

def best (le : Frag → Frag → Bool) : List Frag → Option Frag
  | [] => none
  | a :: t => match best le t with
    | none => some a
    | some b => if le a b then some a else some b

/-- A guarded branch of the running fragment that has not resolved holds the group (R179, R178). (DEDUCED, log entry 17) -/
def branching (g : Group) : Option Frag := g.frags.find? (fun f => f.status == .branch && g.running == some f.id)

/-- The group's chosen fragment in turn `n` (R155, R178, R369, R402). (DEDUCED, log entry 17) -/
def chosen (s : State) (k n : Nat) : Option Frag :=
  let g := group s k
  let can := g.frags.filter (fun f => ready s k f n)
  match g.stepFrag with
  | some f => can.find? (fun x => x.id == f)
  | none =>
  match branching g with
  | some f => if can.any (fun x => x.id == f.id) then some f else none
  | none =>
    match best longer (can.filter (·.prio)) with
    | some f => some f
    | none =>
      match can.find? (fun f => g.running == some f.id && !f.yielded) with
      | some f => some f
      | none => match best (better s k) (can.filter (fun f => !f.yielded)) with
        | some f => some f
        | none => best (better s k) can

/-- A ready fragment that has not issued for 64 of its group's turns and does not hold priority yet (R155). (DEDUCED, log entry 34) -/
def overdue (s : State) (n : Nat) : Option (Nat × Nat) :=
  s.groups.findSome? (fun e => if e.2.live && active s e.2.owner then
    (e.2.frags.find? (fun f => !f.prio && f.waits + 64 ≤ n && f.status == .run && ready s e.1 f n)).map (fun f => (e.1, f.id)) else none)

/-- R155: the fragment gains priority. -/
def execFragmentPriority (k f : Nat) (s : State) : Answer :=
  .next (modGroup s k (fun g => modFrag g f (fun x => { x with prio := true })))

/-! Ports (R172, R173). -/

/-- An instruction of the kind issues on a port, beat by beat: a per-thread one, or `vsel` (R148, R172, R204). -/
def onPort (k : GuardKind) : Bool := k == .thread || k == .selector

/-- Operand B is read from the reuse latch: no write to the register has landed since it was latched (R177). -/
def latchHit (g : Group) (n now : Nat) : Bool :=
  g.reuse == some n &&
  !g.window.any (fun w => w.shadow.any (fun e => turnOf (g.lastStart - 1) < e.turn && e.turn ≤ now &&
    e.writes.any (fun x => writeReg x == some (.v, n))))

/-- The path an instruction issues on: its port, or the partition's scalar path. -/
def pathOf (k : Nat) (i : Except DecodeError Instr) : Nat :=
  match i with
  | .ok i => if onPort (shapeOf i).kind then slotOf k % 2 else 2
  | .error _ => 2

/-- Distinct vector registers an instruction reads (R173); a pair or quad counts once. -/
def vectorSources (i : Instr) : Nat :=
  let p := shapeOf i
  (([p.a, p.b, p.c].filterMap (fun f => match f with | .v n _ true _ => some n | _ => none)).eraseDups).length

/-- Owner positions an instruction's beats take (R148, R173, R177). -/
def positionsOf (g : Group) (x : Next) (act : BitVec 32) (now : Nat) : Nat :=
  match x.instr with
  | .ok i =>
    if onPort (shapeOf i).kind then
      let lanes := if x.hdr.g = 7 ∨ (shapeOf i).kind = .selector then act else maskOf ((lanesOf act).filter (rp g x.hdr.g.toNat))
      let beats := max 1 (((lanesOf lanes).length + 15) / 16)
      let hit := match (shapeOf i).b with | .v n 1 true _ => latchHit g n now | _ => false
      if vectorSources i = 3 ∧ !hit then 2 * beats else beats
    else 1
  | .error _ => 1

/-- Clock of the m-th owner position of a port's table at or after a clock. -/
def nthPosition (s : State) (o t : Nat) : Nat → Nat → Nat
  | 0, clock => nextPos s o t clock
  | m + 1, clock => nthPosition s o t m (nextPos s o t clock + 1)

/-- A speculation window of the group, or its replay, is still open: a halt broadcast and a save wait for it (R183). -/
def inWindowPhase (g : Group) : Bool := g.window.isSome || g.frags.any (fun f => match f.status with | .joining _ => true | _ => false)

/-- The group's work runs: its owner's does, its block has begun, the debug port does not hold it, it is not migrating (R85), and no save
request stops it outside a window and its replay (R183, R341, R367). (DEDUCED, log entry 103; DEDUCED, log entry 108) -/
def mayStart (s : State) (g : Group) : Bool :=
  let w := owner s g.owner
  g.live && active s g.owner && !g.frags.any (fun f => f.status == .migrate) && (g.migrated || (block s g.block).begun) && !(g.held && g.stepFrag.isNone) &&
  (!w.saving || s.clock == w.savingFrom || inWindowPhase g) && (!w.haltOver || inWindowPhase g)

/-- A group that may start an instruction in this clock: its fragment and instruction. (DEDUCED, log entry 17; DEDUCED, log entry 108) -/
def candidate (s : State) (k : Nat) : Option (Nat × Frag × Except (Fetched × BitVec 64) Next × State) :=
  let g := group s k
  let n := turnOf s.clock
  if mayStart s g && g.nextTurn ≤ n && (g.lastStart = 0 || turnOf (g.lastStart - 1) < n) && nextPos s g.owner (partOf k) s.clock == s.clock then
    match chosen s k n with
    | none => none
    | some f =>
      if f.notBefore ≤ n then
        let r := nextInstr s k f.id
        some (match r.1 with | .ok x => pathOf k x.instr | .error _ => 2, f, r.1, r.2)
      else none
  else none

/-- The claim of a partition's path in a clock (R173). -/
def pathKey (o k path : Nat) : Nat := claimKey o (partOf k) (partKey k * 3 + path)

/-- Place of a path in the order in which the starts of one clock are made: by partition of the package and path (R36,
R173, R323). -/
def startPath (k path : Nat) : Nat := partKey k * 3 + path

/-- The order of the starts of one clock; on one path, the group whose last start is oldest is first. -/
def startsBefore (s : State) (x y : Nat × Nat) : Bool :=
  let px := startPath x.1 x.2
  let py := startPath y.1 y.2
  px < py || (px == py && (group s x.1).lastStart < (group s y.1).lastStart)

/-- Of the candidates whose path is free: of the first path, the one whose group's last start is oldest, then the lowest
slot (R173). (DEDUCED, log entry 108) -/
def startOf (s : State) : Option (Nat × Nat × Frag × Except (Fetched × BitVec 64) Next × State) :=
  let all := s.groups.filterMap (fun e =>
    match candidate s e.1 with
    | some (path, r) =>
      if mget s.claims (pathKey e.2.owner e.1 path) ≤ s.clock ∧ !(s.started.1 = s.clock ∧ startPath e.1 path < s.started.2)
      then some (e.1, path, r) else none
    | none => none)
  all.foldl (fun m x => match m with
    | none => some x
    | some y => if startsBefore s (x.1, x.2.1) (y.1, y.2.1) then some x else some y) none

/-- A fetch that misses joins or enters the owner's miss queue, if there is room (R22, R411). -/
def fetchMiss (s : State) (k f : Nat) (va : BitVec 64) : State :=
  let o := (group s k).owner
  let g := va.toNat / 65536
  match missAt s o (coreKey k) g with
  | some (id, m) =>
    if m.fetchers.contains (k, f) then s
    else { s with misses := mset s.misses id { m with fetchers := m.fetchers ++ [(k, f)] } }
  | none =>
    if (missesOf s o (coreKey k)).length < 16 then
      let m : Miss := ⟨o, dieOf k, coreOf k, g, 2, [], [(k, f)], none, false⟩
      let id := s.nextId
      postWalk (tick { s with misses := mset s.misses id m }) o (dieOf k) (s.clock + 1) (.dieTlbLookup id)
    else s

/-- A code line of another space is asked for once. -/
def fetchAway (s : State) (o part pa : Nat) : State :=
  let line := lineNo pa
  if s.exts.any (fun e => e.2.who == .fetch part line) then s
  else
    let r : ExtReq := ⟨o, spaceOf pa, line * 128 % 2 ^ 48, none, none, 128, .fetch part line, false⟩
    tick { s with exts := mset s.exts s.nextId r, sent := r :: s.sent }

/-- The translation or the line that a chosen fragment waits for is asked for, as its instruction is due (R198, R412). -/
def askFor (s : State) (k f : Nat) (x : Fetched) (va : BitVec 64) : State :=
  let s := modGroup s k (fun g => { g with running := some f })
  match x with
  | .away o pa => fetchAway s o (partKey k) pa
  | _ => fetchMiss s k f va

/-- A fetch fault of the chosen fragment: raised where it stands, or in a window the window's end (R181, R198). -/
def fetchFails (s : State) (k : Nat) (f : Frag) (t : Trap) : State :=
  let g := group s k
  let s := modGroup s k (fun g => modFrag g f.id (fun x => { x with fetchFault := none }))
  if (openWindow g f.id).isSome then
    modGroup s k (fun g => { g with window := g.window.map (fun w => { w with ended := true }) })
  else takeTrap s k f.id t (standsAt g f) (standsAt g f) (turnOf s.clock)

/-- Groups whose running fragment is to be looked at as a turn begins (R178). -/
def toChoose (s : State) : Option Nat :=
  if s.clock % 8 = 0 then
    (s.groups.find? (fun e => 1 < e.2.frags.length && e.2.chosenIn != turnOf s.clock + 1 && e.2.nextTurn ≤ turnOf s.clock &&
      mayStart s e.2)).map (·.1)
  else none

/-- The running fragment as a turn begins: where it is not ready, another ready one takes its place (R178). (DEDUCED, log entry 17) -/
def choose (s : State) (k : Nat) : State :=
  let n := turnOf s.clock
  let g := group s k
  let still := g.frags.any (fun f => g.running == some f.id && ready s k f n)
  modGroup s k (fun g => { g with
    chosenIn := n + 1, running := if still then g.running else (match chosen s k n with | some f => some f.id | none => g.running) })

/-- The front end starts an instruction: positions taken, the fragment running, the cursor set. -/
def begin_ (s : State) (k path : Nat) (f : Frag) (x : Next) : State :=
  let g := group s k
  let act := match openWindow g f.id with | some w => w.lanes | none => f.mask
  let m := positionsOf g x act (turnOf s.clock)
  let last := nthPosition s g.owner (partOf k) (m - 1) s.clock
  let s := { s with claims := mset s.claims (pathKey g.owner k path) (last + 1), started := (s.clock, startPath k path) }
  let s := modGroup s k (fun g =>
    let g := modFrag g f.id (fun y => { y with status := if y.status = .branch then .branch else .run })
    { g with stepFrag := if g.stepFrag = some f.id then none else g.stepFrag })
  setCursor s k f.id (turnOf last) x

/-! One step of the front end. -/

/-- What a step does: an instruction or event to execute on a state, a step of the front end itself, or nothing. -/
inductive Front where
  | run (i : Instr) (s : State)
  | done (s : State)
  | off

/-- A started instruction: the prefix first, then what it extends. -/
def startInstr (s : State) (k path : Nat) (f : Frag) (x : Next) : Front :=
  let s := begin_ s k path f x
  match x.pfx, x.instr with
  | some p, _ => .run (.xp p.x p.hc p.hb p.ha) { s with pfx := none }
  | none, .ok i => .run i s
  | none, .error _ => .done (trapNow s (ctx s) ⟨.illegalOp, 0, 0, 0⟩)

/-- The instruction behind a prefix: the pair issues as one (R205). -/
def secondWord (s : State) : Front :=
  match nextInstr s s.cur.g s.cur.frag with
  | (.ok x, s') =>
    let s' := setCursor s' s.cur.g s.cur.frag s.cur.turn x
    (match x.instr with
     | .ok i => .run i s'
     | .error _ => .done (trapNow s' (ctx s') ⟨.illegalOp, 0, 0, 0⟩))
  | (.error _, _) => .done { s with pfx := none }

/-- Events that act while the package clock stands (R367, R370). -/
def actsFrozen : Instr → Bool
  | .thaw | .frzNHigh | .frzNLow | .freeze | .read _ _ _ | .hold _ _ _ _ | .release _ _ _ _ | .bpset _ _ _ _ _ _
  | .debugToken _ _ _ _ | .reset _ => true
  | _ => false

/-- The package clock stands: by FREEZE, or by the pin (R370). -/
def stopped (s : State) : Bool := s.frozen || s.pinLow

/-- The first event of the agenda that is due and met by `p`, and the rest. (DESIGN CHOICE, log entry 12) -/
def takeEvent (p : Instr → Bool) (clock : Nat) : List (Nat × Instr) → Option (Instr × List (Nat × Instr))
  | [] => none
  | (d, e) :: t =>
    if d ≤ clock ∧ p e then some (e, t) else (takeEvent p clock t).map (fun r => (r.1, (d, e) :: r.2))

/-- What comes next: an event that is due, a fragment whose wait is over, one that gains priority, an instruction of the oldest ready group, or
the next clock. (DESIGN CHOICE, log entry 12) -/
def front (s : State) : Front :=
  let p : Instr → Bool := if !s.powered then (fun i => match i with | .reset _ => true | _ => false)
    else if stopped s then actsFrozen else fun _ => true
  if s.pfx.isSome ∧ s.powered ∧ !stopped s then secondWord s
  else match takeEvent p s.clock s.agenda with
  | some (e, rest) => .run e { s with agenda := rest }
  | none =>
    if !s.powered then .off
    else if stopped s then .done s
    else match released s with
    | some (k, f) => .done (release s k f)
    | none => match owedStep s with
    | some (k, f) => .done (stepNow s k f)
    | none =>
    match overdue s (turnOf s.clock) with
    | some (k, f) => .run (.fragmentPriority k f) s
    | none => match toChoose s with
    | some k => .done (choose s k)
    | none => match startOf s with
      | some (k, path, f, .ok x, s') => startInstr s' k path f x
      | some (k, _, f, .error (.fault t, _), s') => .done (fetchFails s' k f t)
      | some (k, _, f, .error (x, va), s') => .done (askFor s' k f.id x va)
      | none => .done { s with clock := s.clock + 1 }

end Sys2Proof.Machine
end

