-- ==== Sys2Proof/Machine/Life.lean ====
section
/-! DEFINITION. The lives of groups, saggars, blocks and launches: slots that drain and empty (R151, R225), saggars that
fire (R149, R150, R152), blocks that end (R82, R157) and launches that complete (R141). -/

namespace Sys2Proof.Machine

/-- Every write, engine operation and drain of a launch has been performed, and all its blocks and migrated groups have
ended (R141, R86). -/
def launchDone (s : State) (l : Nat) : Bool :=
  let x := launch s l
  x.blocksLeft == 0 && x.migrants == 0 &&
  !s.accs.any (fun e => e.2.launch == l && (e.2.kind.writes || (e.2.kind.apart && e.2.unperformed != 0))) && !s.ops.any (fun e => e.2.launch == l)

/-- A finished launch begins its completion (R141, R409). -/
def checkLaunch (s : State) (l : Nat) : State :=
  if (mfind s.launches l).isSome && launchDone s l && !(launch s l).completing then
    post (modLaunch s l (fun x => { x with completing := true })) s.clock (.launchCompletion l)
  else s

/-- A write that reaches storage of the launch or the block, which outlives the group. -/
def ofLaunch : RegWrite → Bool
  | .cone _ | .shape _ _ _ _ => true
  | .sr n _ => 0x30 ≤ n
  | _ => false

/-- A group's slot becomes empty (R151); a landing request of the die may then be granted (R85). (DEDUCED, log entry 114) -/
def emptySlot (s : State) (k : Nat) : State :=
  let g := group s k
  let s := { s with
    watchers := s.watchers.filter (fun w => w.2.queue.isSome || w.2.g != k)
    results := s.results.filter (fun r => r.2.g != k || r.2.writes.any ofLaunch)
    accs := mall s.accs (fun _ a => if a.g = k then { a with lanes := 0 } else a) }
  let s := modGroup s k (fun g => { g with
    live := false, draining := false, frags := [], stack := [], running := none
    window := none, loop := none, armed := none, fired := none, exits := [], tid := [] })
  let s := match (mget s.landings (32 * dieOf k + g.owner)).head? with
    | some m => post s s.clock (.landingRequestArrival m)
    | none => s
  let s := if !g.migrated && (block s g.block).released then post s s.clock (.blockEndTimeEnd g.block) else s
  if g.migrated then checkLaunch (modLaunch s g.launch (fun x => { x with migrants := x.migrants - 1 })) g.launch else s

/-- A group with no threads drains until its counters read 0 (R151). -/
def drainGroup (s : State) (k : Nat) : State :=
  let g := group s k
  if g.live ∧ threads g = 0 then
    if idleEngines g then emptySlot s k else modGroup s k (fun g => { g with draining := true })
  else s

/-! Saggars. -/

/-- Keys of a block's group slots of a stage in a partition, in ascending slot. -/
def stageSlots (b : Block) (part stage : Nat) : List Nat :=
  (b.slots.filter (fun x => x.1 == part && x.2.2 == stage)).map (fun x => gkey b.die b.core part x.2.1)

/-- Keys of all of a block's group slots. -/
def blockSlots (b : Block) : List Nat := b.slots.map (fun x => gkey b.die b.core x.1 x.2.1)

/-- The group in a slot belongs to the block and holds threads or drains. -/
def isOf (g : Group) (b : Nat) : Bool := g.live && g.block == b && !g.migrated

/-- Unfinished threads of a block that are in groups. -/
def groupThreads (s : State) (b : Nat) : Nat :=
  ((blockSlots (block s b)).map (fun k => if isOf (group s k) b then popcount (threads (group s k)) else 0)).sum

/-- Registers of a record in a lane; the others of a group that forms hold undefined values (R33, R152). -/
def recordRegs (r : SagRecord) (lane : Nat) : Map (BitVec 32) :=
  r.regs.zipIdx.map (fun e => (32 * e.2 + lane, e.1))

/-- Undefined values of registers `n` to 63 in the lanes of a group of a launch (R33). (DESIGN CHOICE, log entry 4) -/
def undefinedRegs (s : State) (l o n lanes : Nat) : Map (BitVec 32) :=
  (List.range (64 - n)).flatMap (fun i => (List.range lanes).map (fun j =>
    (32 * (n + i) + j, pickOf (launch s l).wroteV (freeWord s o (32 * (n + i) + j)))))

/-- Installs entries. -/
def msets {α : Type} (m : Map α) (es : List (Nat × α)) : Map α := es.foldl (fun m e => mset m e.1 e.2) m

/-- The holder ID of a group formed in a slot (R110). -/
def holderId (k : Nat) (count : BitVec 16) : BitVec 32 :=
  BitVec.ofNat 32 (count.toNat + 2 ^ 16 * slotOf k + 2 ^ 21 * partOf k + 2 ^ 23 * coreOf k + 2 ^ 28 * dieOf k)

/-- A group forms in an empty slot from a saggar (R152). -/
def formGroup (s : State) (k b : Nat) (y : Saggar) (rs : List SagRecord) (turn : Nat) : State :=
  let l := launch s (block s b).launch
  let old := group s k
  let n := (rs.head?.map (fun r => r.regs.length)).getD 0
  let known := y.snapSlot.isSome
  let count := mget s.formations k + 1
  let blk := block s b
  let low (i : Nat) : BitVec 64 := if known then y.snapS.getD i 0 else pickOf l.wroteS (freeWord s blk.owner (4096 + i))
  let f : Frag := { (default : Frag) with mask := maskOf (List.range rs.length), pc := y.pc, notBefore := turn, since := turn }
  let g : Group := { (default : Group) with
    owner := blk.owner, launch := blk.launch, block := b
    blkIndex := blk.index, rank := blk.rank, stage := y.stage
    blkx := blk.index % max 1 l.gx, blky := blk.index / max 1 l.gx % max 1 l.gy, blkz := blk.index / max 1 (l.gx * l.gy)
    budget := l.budgets.getD y.stage 0, scount := l.scount, live := true
    holder := holderId k count
    tid := rs.zipIdx.map (fun e => (e.2, e.1.tid))
    v := msets (undefinedRegs s blk.launch blk.owner n rs.length) (rs.zipIdx.flatMap (fun e => recordRegs e.1 e.2))
    s := msets old.s ((List.range 16).map (fun i => (i, low i)))
    k := if known then y.snapK else (freeWord s blk.owner 4112).setWidth 7
    fmode := y.snapFmode, fflags := y.snapFflags, dbgctl := y.snapDbgctl, checker := y.snapChecker
    frags := [f], nextTurn := turn }
  drawn { s with groups := mset s.groups k g, formations := mset s.formations k count } blk.owner 4113

/-- Records join an occupied slot as one new fragment (R150, R152). -/
def joinGroup (s : State) (k : Nat) (y : Saggar) (rs : List SagRecord) (turn : Nat) : State :=
  let g := group s k
  let free := (List.range 32).filter (fun l => !(threads g ||| g.gone).getLsbD l)
  let put := rs.zip free
  let f : Frag := { (default : Frag) with
    id := freeKey g (freeId g), name := freeId g, parent := 31, mask := maskOf (put.map (·.2)), pc := y.pc, notBefore := turn, since := turn }
  let n := (rs.head?.map (fun r => r.regs.length)).getD 0
  let fresh := (undefinedRegs s g.launch g.owner n 32).filter (fun e => put.any (fun p => p.2 == e.1 % 32))
  let g := { g with
    tid := msets g.tid (put.map (fun p => (p.2, p.1.tid)))
    v := msets g.v (fresh ++ put.flatMap (fun p => recordRegs p.1 p.2))
    p := mall g.p (fun _ m => m &&& ~~~f.mask)
    frags := g.frags ++ [f] }
  drawn { s with groups := mset s.groups k g } g.owner 4113

/-- Free lanes of an occupied slot that a record may take: not those of threads that have exited (R157). (DEDUCED, log entry 31) -/
def freeLanes (g : Group) : Nat := 32 - popcount (threads g ||| g.gone)

/-- Places records: empty slots first, then the occupied slot with the most free lanes (R150). What is left waits. (DEDUCED, log entry 31) -/
def placeRecords (b : Nat) (y : Saggar) (turn : Nat) : Nat → State → List SagRecord → State × List SagRecord
  | 0, s, rs => (s, rs)
  | fuel + 1, s, rs =>
    if rs.isEmpty then (s, rs) else
    let slots := stageSlots (block s b) y.part y.stage
    match slots.find? (fun k => !(group s k).live) with
    | some k => placeRecords b y turn fuel (formGroup s k b y (rs.take 32) turn) (rs.drop 32)
    | none =>
      let occ := slots.filter (fun k => isOf (group s k) b && !(group s k).draining)
      let most := occ.foldl (fun m k => match m with
        | none => some k
        | some j => if freeLanes (group s j) < freeLanes (group s k) then some k else some j) none
      match most with
      | none => (s, rs)
      | some k =>
        let n := freeLanes (group s k)
        if n = 0 then (s, rs) else placeRecords b y turn fuel (joinGroup s k y (rs.take n) turn) (rs.drop n)

/-- The records of a saggar in ascending thread index. -/
def byThread (rs : List SagRecord) : List SagRecord := sortBy (fun a b => a.tid ≤ b.tid) rs

/-- The saggar's firing condition holds (R150). -/
def mayFire (s : State) (b : Nat) (y : Saggar) : Bool :=
  32 ≤ y.records.length || y.records.any (fun r => r.since + 64 ≤ turnOf s.clock) || groupThreads s b == 0

def sameSaggar (a b : Saggar) : Bool := a.part == b.part && a.stage == b.stage && a.pc == b.pc

/-- One saggar fires. (DESIGN CHOICE, log entry 4; DEDUCED, log entry 31) -/
def fireSaggar (s : State) (b : Nat) (y : Saggar) : State :=
  let turn := (s.clock + 15) / 8
  let (s, rest) := placeRecords b y turn 32 s (byThread y.records)
  if rest.length = y.records.length then s
  else modBlock s b (fun x =>
    let keep := if rest.isEmpty then x.saggars.filter (fun z => !sameSaggar z y)
      else x.saggars.map (fun z => if sameSaggar z y then { z with records := rest, snapSlot := none } else z)
    { x with saggars := keep })

/-- Every saggar of a block that may fire does, in ascending stage, then PC (R150). -/
def fireAll (s : State) (b : Nat) : State :=
  let due := sortBy (fun x y => x.stage < y.stage || (x.stage == y.stage && x.pc ≤ y.pc)) ((block s b).saggars.filter (mayFire s b))
  due.foldl (fun s y => fireSaggar s b y) s

/-- R150: the oldest record has waited 64 turns. -/
def execSaggarTimeout (b : Nat) (_part _stage : Nat) (_pc : BitVec 64) (s : State) : Answer :=
  .next (if (mfind s.blocks b).isSome then fireAll s b else s)

/-! Blocks. -/

/-- Coil-tagged work of a block is outstanding (R82). -/
def coilWork (s : State) (b : Nat) : Bool :=
  s.ops.any (fun e => e.2.block == b && (e.2.coil != 0 || (match e.2.kind with | .drain _ => true | _ => false))) ||
  s.accs.any (fun e => e.2.coil != 0 && e.2.block == b)

/-- A block whose last thread has exited and whose coils have drained ends (R157, R409). -/
def tryEndBlock (s : State) (b : Nat) : State :=
  let x := block s b
  if (mfind s.blocks b).isSome && x.begun && !x.ended && x.saggars.isEmpty && groupThreads s b == 0 then
    let s := modBlock s b (fun x => { x with ending := true, handles := [] })
    if coilWork s b then s
    else
      let s := modBlock s b (fun x => { x with ended := true, coils := [] })
      let s := modLaunch s x.launch (fun l => { l with blocksLeft := l.blocksLeft - 1 })
      checkLaunch (post s (s.clock + 1024) (.blockEndTimeEnd b)) x.launch
  else s

/-- What follows when threads have left a group or one of its operations has ended. -/
def lifeCheck (s : State) (k : Nat) : State :=
  let b := (group s k).block
  let s := drainGroup s k
  if (mfind s.blocks b).isSome then tryEndBlock (fireAll s b) b else s

/-- Coil-tagged work on a coil that comes before an operation and has not been acknowledged (R82, R83). -/
def taggedBefore (s : State) (b c before : Nat) : Bool :=
  s.accs.any (fun e => e.1 < before && e.2.coil == c && e.2.block == b) ||
  s.ops.any (fun e => e.1 < before && e.2.coil == c && e.2.block == b)

/-- Drains of a block whose earlier tagged writes have all been acknowledged end (R82). -/
def checkDrains (s : State) (b : Nat) : State :=
  (block s b).coils.foldl (fun s e =>
    match e.2.drains.head? with
    | some op => if taggedBefore s b e.1 op then s else post s s.clock (.coilDrainComplete op)
    | none => s) s

/-- An engine operation leaves the counter and the table of operations (R119). -/
def retireOp (s : State) (id : Nat) : State :=
  let op := mget s.ops id
  let s := { s with ops := mdel s.ops id }
  let s := modGroup s op.g (fun g => finishOp g op.cls id)
  let s := if op.coil = 0 then s else checkDrains s op.block
  checkLaunch (lifeCheck s op.g) op.launch

/-- An access leaves the table of accesses. -/
def dropAccess (s : State) (id : Nat) : State :=
  let a := mget s.accs id
  let s := { s with accs := mdel s.accs id, seen := s.seen.filter (fun x => x.2.2 != id) }
  let s := match a.op with | some op => retireOp s op | none => s
  checkLaunch s a.launch

end Sys2Proof.Machine
end

