-- ==== Sys2Proof/Machine/Control.lean ====
section
/-! DEFINITION. The control-flow instructions (R216 to R230), the speculation window and its resolution (R179 to R183,
R401), and the prefix (R205). -/

namespace Sys2Proof.Machine

/-- R205, R217: the prefix waits for the instruction it extends. -/
def execXp (x : BitVec 12) (k j h : BitVec 2) (s : State) : Answer := .next { s with pfx := some ⟨x, h, j, k⟩ }

/-- PC + 2 × sext(I18), 30 bits under a prefix (R218). -/
def target18 (c : Ctx) (i : BitVec 18) : BitVec 64 :=
  c.pc + 2 * (if c.prefixed then (c.x.x ++ i).signExtend 64 else i.signExtend 64)

/-- PC + 2 × sext(I12), 24 bits under a prefix (R224). -/
def target12 (c : Ctx) (i : BitVec 12) : BitVec 64 := c.pc + 2 * imm12 64 c i

/-- The code base of a group's launch (R220). -/
def codeBase (s : State) (g : Group) : BitVec 64 := (launch s g.launch).entry

/-- A transfer from the loop buffer whose target lies in the body (R228). (DEDUCED, log entry 33) -/
def intoBody (s : State) (c : Ctx) (target : BitVec 64) : Bool :=
  s.cur.looped && (match c.g.loop with | some p => p.start ≤ target && target < p.stop | none => false)

/-- Suspended threads that transfer: into the body by `ret`, they rejoin the loop; out of it, they leave (R229). -/
def leaveHandler (byRet : Bool) (m : BitVec 32) (target : BitVec 64) (g : Group) : Group :=
  { g with loop := g.loop.map (fun p =>
      let sus := p.suspended &&& m
      if sus = 0 then p
      else if p.start ≤ target ∧ target < p.stop then
        (if byRet then { p with suspended := p.suspended &&& ~~~sus, body := [] } else p)
      else { p with suspended := p.suspended &&& ~~~sus, lanes := p.lanes &&& ~~~sus }) }

/-- Threads move to their targets, the others stay (R147, R216). A target that is the fall-through does not move, but for
a `brx` that every thread takes: there the set of the lowest lane stays. (DEDUCED, log entry 101) -/
def transfer (s : State) (c : Ctx) (byRet byBrx : Bool) (stayTurn moveTurn : Nat) (to_ : Nat → BitVec 64) : State :=
  let (fall, ws) := backEdge s c
  let moves := (lanesOf c.lanes).foldl (fun ds l => addDest ds (to_ l) l moveTurn) []
  let stays (d : Dest) : Bool := d.pc == fall && !(byBrx && c.lanes == c.act)
  let here := moves.filter stays
  let away := moves.filter (fun d => !stays d)
  let stay : Dest := ⟨fall, (c.act &&& ~~~c.lanes) ||| here.foldl (fun m d => m ||| d.mask) 0,
    if here.isEmpty then stayTurn else max stayTurn moveTurn⟩
  let s := if stay.mask = 0 then s else send s c (c.n + 1) ws [] false
  modGroup s c.k (fun g => scatter (moves.foldl (fun g d => leaveHandler byRet d.mask d.pc g) g) c.f stay away)

/-- The predictor's entry for a branch of a fragment (R179). -/
def predIndex (pc : BitVec 64) (f : Nat) : Nat :=
  let h := ext pc 1 12 ^^^ f
  (h % 64) ^^^ (h / 64)
def predKey (o part index : Nat) : Nat := 64 * (o * 1536 + part) + index

/-- A guarded `bra`: the predictor is looked up, and a window opens when its confidence is 2 or 3 (R181). -/
def guardedBranch (s : State) (c : Ctx) (target : BitVec 64) : State :=
  let (fall, ws) := backEdge s c
  let idx := predIndex c.pc (c.f.name % 32)
  let e := mget s.preds (predKey c.o (partKey c.k) idx)
  let p := e.mask &&& c.act
  let n := c.act &&& ~~~p
  let onTaken := popcount n < popcount p
  let spec := 2 ≤ e.conf.toNat
  let w : Window :=
    { frag := c.f.id, pc := c.pc, target := target, fall := fall, active := c.act, taken := c.lanes, index := idx
      spec := spec, onTaken := onTaken, lanes := if onTaken then p else n, next := if onTaken then target else fall
      pcs := [], ended := false, shadow := [], failed := none }
  let s := if c.lanes = c.act then s else send s c (c.n + 1) ws [] false
  let s := modGroup s c.k (fun g => { modFrag g c.f.id (fun f => { f with status := .branch }) with window := some w })
  post s ((c.n + 5) * 8) (.branchResolution c.k c.f.id)

/-- R218. -/
def execBra (h : Hdr) (i : BitVec 18) (s : State) : Answer :=
  .next (control (.bra h i) h s (fun c s =>
    if intoBody s c (target18 c i) then .error ⟨.illegalOp, 0, 0, 0⟩
    else if h.g = 7 then .ok (transfer s c false false (c.n + 1) (c.n + 2) (fun _ => target18 c i))
    else .ok (guardedBranch s c (target18 c i))))

/-- R219. -/
def execJmpS (i : BitVec 11) (s : State) : Answer :=
  .next (control (.jmpS i) (shortHdr 0) s (fun c s =>
    let t := c.pc + 2 * i.signExtend 64
    if intoBody s c t then .error ⟨.illegalOp, 0, 0, 0⟩
    else .ok (transfer s c false false (c.n + 1) (c.n + 2) (fun _ => t))))

/-- Transfers to addresses that registers give: a target with bit 0 set traps, and no thread moves (R199). -/
def indirect (s : State) (c : Ctx) (byRet byBrx : Bool) (to_ : Nat → BitVec 64) : Except Trap State :=
  match (lanesOf c.lanes).find? (fun l => (to_ l).getLsbD 0) with
  | some l => .error ⟨.misaligned, 0, detailWord false l 2 0 0 0 0 0, to_ l⟩
  | none => .ok (transfer s c byRet byBrx (c.n + 3) (c.n + 3) to_)

/-- R220. (DEDUCED, log entry 101) -/
def execBrx (h : Hdr) (a : BitVec 6) (s : State) : Answer :=
  .next (control (.brx h a) h s (fun c s => indirect s c false true (fun l => codeBase s c.g + (rv c.g a.toNat l).setWidth 64)))

/-- R221. -/
def execCall (h : Hdr) (i : BitVec 18) (s : State) : Answer :=
  .next (control (.call h i) h s (fun c s =>
    let off := c.next - codeBase s c.g
    if 2 ^ 32 ≤ off.toNat ∧ c.lanes ≠ 0 then .error ⟨.illegalOp, 0, 0, 0⟩
    else
      let s := send s c (c.n + 1) ((lanesOf c.lanes).flatMap (fun l => wv 63 l (off.setWidth 32))) [] false
      .ok (transfer s c false false (c.n + 3) (c.n + 3) (fun _ => target18 c i))))

/-- R222. -/
def execRet (h : Hdr) (s : State) : Answer :=
  .next (control (.ret h) h s (fun c s => indirect s c true false (fun l => codeBase s c.g + (rv c.g 63 l).setWidth 64)))
def execRet16 (s : State) : Answer :=
  .next (control .ret16 (shortHdr 0) s (fun c s => indirect s c true false (fun l => codeBase s c.g + (rv c.g 63 l).setWidth 64)))

/-- R223. -/
def execRcv (h : Hdr) (i : BitVec 18) (s : State) : Answer :=
  .next (plain (.rcv h i) h s (fun c s =>
    if c.g.stack.length = 16 then .error ⟨.divergenceDepth, 0, 0, 0⟩
    else .ok (modGroup s c.k (fun g => { g with stack := ⟨target18 c i, c.lanes, c.f.name, c.f.parent⟩ :: g.stack }))))

/-- Entries that hold a lane. -/
def entriesOf (g : Group) (l : Nat) : Nat := (g.stack.filter (fun e => e.mask.getLsbD l)).length

/-- A lane leaves its top `n` entries, top first (R154). -/
def leaveTop (l : Nat) : Nat → List RcEntry → List RcEntry
  | 0, es => es
  | _, [] => []
  | n + 1, e :: es =>
    if e.mask.getLsbD l then { e with mask := e.mask &&& ~~~maskOf [l] } :: leaveTop l n es
    else e :: leaveTop l (n + 1) es

/-- R224. -/
def execBrk (h : Hdr) (i : BitVec 12) (n : BitVec 4) (s : State) : Answer :=
  .next (control (.brk h i n) h s (fun c s =>
    let m := n.toNat + 1
    if intoBody s c (target12 c i) || (lanesOf c.lanes).any (fun l => entriesOf c.g l < m) then .error ⟨.illegalOp, 0, 0, 0⟩
    else
      let s := modGroup s c.k (fun g => { g with
        stack := ((lanesOf c.lanes).foldl (fun es l => leaveTop l m es) g.stack).filter (fun e => e.mask != 0) })
      .ok (transfer s c false false (c.n + 1) (c.n + 2) (fun _ => target12 c i))))

/-- The threads of an instruction leave the group; the others go on. -/
def departing (s : State) (c : Ctx) : State :=
  let (fall, ws) := backEdge s c
  let s := if c.lanes = c.act then s else send s c (c.n + 1) ws [] false
  modGroup s c.k (fun g => removeThreads (modFrag g c.f.id (fun f => { f with pc := fall, notBefore := c.n + 1 })) c.lanes)

/-- R225 (and R117). -/
def exiting (c : Ctx) (s : State) : Except Trap State :=
  if c.lanes = threads c.g ∧ c.g.latches ≠ [] then .error ⟨.illegalOp, 0, 0, 0⟩
  else .ok (modGroup (departing s c) c.k (fun g => { g with gone := g.gone ||| c.lanes }))

def execExit (h : Hdr) (s : State) : Answer := .next (lifeCheck (control (.exit h) h s exiting) s.cur.g)
def execExit16 (s : State) : Answer := .next (lifeCheck (control .exit16 (shortHdr 0) s exiting) s.cur.g)

/-- Files the records of the threads that leave (R149, R151). -/
def fileRecords (s : State) (c : Ctx) (n : Nat) : State :=
  let rs := (byThread ((lanesOf c.lanes).map (fun l =>
    ⟨mget c.g.tid l, (List.range n).map (fun r => rv c.g r l), c.n⟩)))
  let key : Saggar := ⟨partOf c.k, c.g.stage, c.next, [], none, [], 0, 0, 0, 0, false⟩
  let fresh := !((block s c.g.block).saggars.any (sameSaggar key))
  let file (y : Saggar) : Saggar :=
    let y := { y with records := y.records ++ rs }
    if (match y.snapSlot with | some k => decide (slotOf c.k ≤ k) | none => true) then
      { y with snapSlot := some (slotOf c.k), snapS := (List.range 16).map (rs' c), snapK := c.g.k
               snapFmode := c.g.fmode, snapFflags := c.g.fflags, snapDbgctl := c.g.dbgctl, snapChecker := c.g.checker }
    else y
  let s := modBlock s c.g.block (fun b =>
    let ys := if fresh then b.saggars ++ [key] else b.saggars
    { b with saggars := ys.map (fun y => if sameSaggar key y then file y else y) })
  post s ((c.n + 64) * 8) (.saggarTimeout c.g.block (partOf c.k) c.g.stage c.next)
where rs' (c : Ctx) (i : Nat) : BitVec 64 := rs c.g i

/-- R226 (R151). -/
def execReform (h : Hdr) (a : BitVec 6) (s : State) : Answer :=
  .next (lifeCheck (control (.reform h a) h s (fun c s =>
    let n := a.toNat + 1
    if c.lanes = 0 then .ok (departing s c)
    else if c.g.migrated then .error ⟨.migratedAccess, 0, 0, 0⟩
    else if c.g.latches ≠ [] then .error ⟨.illegalOp, 0, 0, 0⟩
    else if c.g.budget < n then .error ⟨.illegalReg, 0, 0, 0⟩
    else
      let s := departing (fileRecords s c n) c
      .ok (modGroup s c.k (fun g => { g with reuse := none })))) s.cur.g)

/-- R227. (DEDUCED, log entry 20) -/
def execLoop (h : Hdr) (i : BitVec 12) (a : BitVec 6) (s : State) : Answer :=
  .next (control (.loop h i a) h s (fun c s =>
    let n := numN c.x.ha a.toNat
    let len := if c.prefixed then c.x.x.toNat * 4096 + i.toNat else i.toNat
    let go (s : State) (pc : BitVec 64) : State := modGroup s c.k (fun g => modFrag g c.f.id (fun f => { f with pc := pc, notBefore := c.n + 1 }))
    if c.lanes = 0 then .ok (go s c.next)
    else if len = 0 ∨ 64 < len then .error ⟨.illegalOp, 0, 0, 0⟩
    else
      let last := c.next + BitVec.ofNat 64 (2 * len)
      if rs c.g (sregOf n) = 0 then .ok (go s last)
      else
        let (body, s) := loopBody s c.k c.f c.next len
        .ok (modGroup (go s c.next) c.k (fun g => { g with loop := some ⟨c.next, last, sregOf n, c.act, 0, body⟩ }))))

/-- R230. -/
def execTrap (h : Hdr) (i : BitVec 12) (s : State) : Answer :=
  .next (plain (.trap h i) h s (fun c _ => .error ⟨.software, uimm12 64 c i, 0, 0⟩))

/-! Resolution of a guarded branch (R179, R182, R183, R401). -/

/-- The predictor entry after a branch with actual taken mask T over A. -/
def learn (e : Pred) (active taken : BitVec 32) : Pred :=
  let exact := (e.mask &&& active) == taken
  ⟨(e.mask &&& ~~~active) ||| taken,
    if exact then (if e.conf = 3 then 3 else e.conf + 1) else (if e.conf = 0 then 0 else e.conf - 1)⟩

/-- What a window commits: writes and flags of lanes on the path made before a failed load. -/
def commits (place : Nat) (failed : Option Nat) : Bool := match failed with | some p => place < p | none => true
def writeLane : RegWrite → Option Nat
  | .v _ l _ => some l
  | .p _ l _ => some l
  | _ => none

/-- A shadow result as a register result of the lanes that commit (R182). -/
def shadowResult (k f : Nat) (keep : BitVec 32) (e : Shadow) : Result :=
  ⟨k, e.turn, e.writes.filter (fun w => (writeLane w).any keep.getLsbD), allFlags (e.flags.filter (fun x => keep.getLsbD x.1)), e.held, f⟩

/-- The shadow results that commit: those that have landed reach the registers in the order in which they landed; the
others land in their turn (R175, R182). -/
def commitWindow (s : State) (k f n : Nat) (w : Window) (keep : BitVec 32) : State :=
  let mine (e : Shadow) : Bool := commits e.place w.failed
  let s := ((w.landed n).filter mine).foldl (fun s e => landResult s (shadowResult k f keep e)) s
  ((w.shadow.filter (fun e => n < e.turn)).filter mine).foldl (fun s e =>
    let r := shadowResult k f keep e
    if r.writes.isEmpty ∧ r.flags = 0 then s else postResult s r) s

/-- Accesses of a window go on for the lanes that stay on its path, and others end (R182, R183). -/
def commitAccesses (s : State) (k : Nat) (w : Window) (keep : BitVec 32) : State :=
  let f (a : Access) : Option Access :=
    match (if a.g = k then a.window else none) with
    | some p =>
      let m := if commits p w.failed then keep else 0
      if a.lanes &&& m = 0 then none
      else some { a with
        window := none, lanes := a.lanes &&& m, reqs := a.reqs.filter (fun r => m.getLsbD r.lane)
        faults := a.faults.filter (fun r => m.getLsbD r.1), passes := a.passes.map (·.filter m.getLsbD) }
    | none => some a
  { s with accs := s.accs.filterMap (fun e => (f e.2).map (fun a => (e.1, a))) }

/-- Places the path's fragment at `cont`, with a replay of the window for the threads it did not speculate (R182). -/
def placePath (g : Group) (path : Nat) (start cont : BitVec 64) (done replay : BitVec 32) : Group :=
  if replay = 0 then modFrag g path (fun f => { f with pc := cont })
  else if done = 0 ∨ cont = start then { modFrag g path (fun f => { f with pc := start }) with reuse := none }
  else
    let f := frag g path
    let r : Frag := { f with id := path + 32, mask := replay, pc := start, status := .run, prio := false }
    let g := modFrag g path (fun f => { f with pc := cont, mask := done, status := .joining (path + 32) })
    { g with frags := g.frags ++ [r], reuse := none, running := some r.id }

/-- R179: the branch resolves. -/
def resolveBranch (s : State) (k f : Nat) (w : Window) : State :=
  let g := group s k
  let o := g.owner
  let n := turnOf s.clock
  let key := predKey o (partKey k) w.index
  let e := mget s.preds key
  let exact := (e.mask &&& w.active) == w.taken
  let s := { s with preds := mset s.preds key (learn e w.active w.taken) }
  let pk := o * 1536 + partKey k
  let s := if !w.spec then s
    else if exact then { s with mphit := mmod s.mphit pk (· + 1) } else { s with mpmiss := mmod s.mpmiss pk (· + 1) }
  let step := g.dbgctl.getLsbD 1
  let w := if step then { w with failed := some 0 } else w
  let merged := w.target = w.fall
  let stayMask := if merged then w.active else w.active &&& ~~~w.taken
  let onPath := if merged then w.active else if w.onTaken then w.taken else stayMask
  let done := if w.spec then w.lanes &&& onPath else 0
  let s := commitAccesses s k w done
  let s := if w.spec then commitWindow s k f n w done else s
  let s := modGroup s k (fun g =>
    let x := frag g f
    let g := { g with window := none }
    let fresh := freeKey g (freeId g)
    let g := leaveHandler false w.taken w.target g
    let g := scatter g x ⟨w.fall, stayMask, n⟩ (if merged ∨ w.taken = 0 then [] else [⟨w.target, w.taken, n⟩])
    if w.spec then
        let path := if w.onTaken ∧ !merged ∧ stayMask ≠ 0 then fresh else f
        let start := if w.onTaken then w.target else w.fall
        let cont := match w.failed with | some p => w.pcs.getD p start | none => w.next
        if onPath = 0 then { g with running := none }
        else placePath { g with running := some path } path start cont done (onPath &&& ~~~w.lanes)
    else if !merged ∧ stayMask ≠ 0 ∧ w.taken ≠ 0 then { g with running := none } else g)
  let s := modGroup s k (fun g => settle (trimLoop g))
  if step then
    ((group s k).frags.filter (fun x => (x.mask &&& w.active) != 0)).foldl
      (fun s x => takeTrap s k x.id ⟨.singleStep, w.active.setWidth 64, 0, 0⟩ w.pc x.pc n) s
  else s

def execBranchResolution (k f : Nat) (s : State) : Answer :=
  .next (match (group s k).window with
  | some w => if w.frag = f then resolveBranch s k f w else s
  | none => s)

end Sys2Proof.Machine
end

