-- ==== Sys2Proof/Machine/Seal.lean ====
section
/-! DEFINITION. Tensor records and refire blocks: their fields, the checks of `seal` (R297 to R299, R308 to R310), and
the handle table (R298, R300). -/

namespace Sys2Proof.Machine

/-- A field of a record: `n` bytes at an offset. -/
def field (r : BitVec 2048) (off n : Nat) : Nat := ext r (8 * off) (8 * n)

/-! Tensor records. -/

def recBase (r : BitVec 2048) : Nat := field r 0 8
def recFormat (r : BitVec 2048) : Nat := field r 8 1
def recRank (r : BitVec 2048) : Nat := field r 9 1
def recIm2col (r : BitVec 2048) : Bool := field r 0xA 2 % 2 == 1
def recGroup (r : BitVec 2048) : Nat := field r 0xC 1
def recExtent (r : BitVec 2048) (d : Nat) : Nat := field r (0x10 + 4 * d) 4
def recStride (r : BitVec 2048) (d : Nat) : Nat := field r (0x20 + 4 * d) 4
def recSide (r : BitVec 2048) : Nat := field r 0x30 4

/-- Element bits of a format (R184). -/
def formatBits (f : Nat) : Nat :=
  match f with
  | 0 | 1 | 3 => 8
  | 2 | 4 => 4
  | 5 | 6 => 16
  | 8 => 64
  | 10 => 1
  | _ => 32

/-- Q8G and Q4G. -/
def groupedFormat (f : Nat) : Bool := f == 3 || f == 4
/-- Elements of a group (R191). -/
def groupSize (code : Nat) : Nat := 32 * 2 ^ code
/-- Bytes of dimension 0's stride; packed formats count 1 (R297). -/
def elementStride (f : Nat) : Nat := if formatBits f < 8 then 1 else formatBits f / 8

/-- Lines of the side band's parameters: the flattened dimensions 1 to 3 (R192). -/
def sideLines (r : BitVec 2048) : Nat := recExtent r 1 * recExtent r 2 * recExtent r 3
def sideGroups (r : BitVec 2048) : Nat := (recExtent r 0 + groupSize (recGroup r) - 1) / groupSize (recGroup r)

/-- The highest byte a record can reach (R299, code 11). -/
def recHighest (r : BitVec 2048) : Nat :=
  let f := recFormat r
  let data := recBase r + (recExtent r 0 - 1) * formatBits f / 8 + (recExtent r 1 - 1) * recStride r 1 +
    (recExtent r 2 - 1) * recStride r 2 + (recExtent r 3 - 1) * recStride r 3 + elementStride f - 1
  if groupedFormat f then max data (recBase r + recSide r + 4 * (sideLines r * sideGroups r) - 1) else data

/-- Two addresses lie in one canonical half (R3). -/
def sameHalf (a b : Nat) : Bool := a < 2 ^ 54 && b < 2 ^ 54 || 2 ^ 64 - 2 ^ 54 ≤ a && 2 ^ 64 - 2 ^ 54 ≤ b && b < 2 ^ 64

/-- The first check that holds, as a failure code and the field's offset. (DEDUCED, log entry 32) -/
def firstFailure : List (Bool × Nat × Nat) → Nat × Nat
  | [] => (0, 0)
  | (bad, code, off) :: t => if bad then (code, off) else firstFailure t

/-- The checks of a tensor record in ascending offset (R297, R299). (DEDUCED, log entry 32) -/
def tensorFailure (r : BitVec 2048) : Nat × Nat :=
  let f := recFormat r
  let rank := recRank r
  let flags := field r 0xA 2
  let im := recIm2col r
  let side := flags / 2 % 2 == 1
  firstFailure ([
    (!canonical (BitVec.ofNat 64 (recBase r)) || recBase r % 16 != 0, 2, 0),
    (10 < f, 3, 8),
    (rank < 1 || 4 < rank, 4, 9),
    (4 ≤ flags, 5, 0xA),
    (side != groupedFormat f, 6, 0xA),
    (im && (rank != 4 || !([0, 1, 5, 6, 7].contains f)), 10, 0xA),
    (if groupedFormat f then 2 < recGroup r else recGroup r != 0, 6, 0xC),
    (field r 0xD 3 != 0, 5, 0xD)] ++
    (List.range 4).map (fun d => (if d < rank then recExtent r d < 1 || 2 ^ 24 < recExtent r d else recExtent r d != 1, 7, 0x10 + 4 * d)) ++
    (List.range 4).map (fun d =>
      (if rank ≤ d then recStride r d != 0
       else if d = 0 then recStride r 0 != elementStride f
       else recStride r d % elementStride f != 0, 8, 0x20 + 4 * d)) ++ [
    (if side then recSide r % 4 != 0 else recSide r != 0, 9, 0x30)] ++
    [0x34, 0x36, 0x38, 0x3A].map (fun off => (if im then field r off 2 == 0 else field r off 2 != 0, 10, off)) ++ [
    (field r 0x3C 4 != 0, 5, 0x3C),
    (!sameHalf (recBase r) (recHighest r), 11, 0)])

/-! Refire blocks (R308, R309). -/

def refN (r : BitVec 2048) : Nat := field r 0 4
def refLda (r : BitVec 2048) : Nat := field r 4 4
def refA (r : BitVec 2048) : Nat := field r 8 8
def refB (r : BitVec 2048) : Nat := field r 0x10 8
def refX (r : BitVec 2048) : Nat := field r 0x18 8
def refWork (r : BitVec 2048) : Nat := field r 0x20 8
def refRung (r : BitVec 2048) (i : Nat) : Nat := field r (0x28 + i) 1
def refLimit (r : BitVec 2048) : Nat := field r 0x2C 2
def refStag (r : BitVec 2048) : Nat := field r 0x2E 1
def refPolicy (r : BitVec 2048) : Nat := field r 0x2F 1

/-- Rungs: bytes before the first 0xF. -/
def refRungs (r : BitVec 2048) : Nat := ((List.range 4).find? (fun i => refRung r i == 0xF)).getD 4

/-- Precision rank of a rung's format: BF16, FP16, FP32, FP64. -/
def precisionRank (f : Nat) : Nat := match f with | 6 => 1 | 5 => 2 | 7 => 3 | 8 => 4 | _ => 0

/-- The ladder is well formed (R309). -/
def ladderOk (r : BitVec 2048) : Bool :=
  let m := refRungs r
  1 ≤ m && (List.range m).all (fun i => precisionRank (refRung r i) != 0) &&
  (List.range 4).all (fun i => i < m || refRung r i == 0xF) &&
  (List.range (m - 1)).all (fun i => precisionRank (refRung r i) < precisionRank (refRung r (i + 1)))

/-- FP64 bit patterns: finite; the magnitude. -/
def finite64 (x : Nat) : Bool := x / 2 ^ 52 % 2048 != 2047
def tolOk (x : Nat) : Bool := finite64 x && (x < 2 ^ 63 || x == 2 ^ 63)
def one64 : Nat := 0x3FF0000000000000

/-- The ranges of A, b, x and the workspace: first byte and length. -/
def refRanges (r : BitVec 2048) : List (Nat × Nat × Nat) :=
  let n := refN r
  [(8, refA r, 8 * (refLda r * (n - 1) + n)), (0x10, refB r, 8 * n), (0x18, refX r, 8 * n), (0x20, refWork r, 8 * n * n + 8 * n)]

def rangesMeet (a b : Nat × Nat × Nat) : Bool := a.2.1 < b.2.1 + b.2.2 && b.2.1 < a.2.1 + a.2.2

/-- A range's field is bad: not canonical, not 8-byte aligned, or its highest byte leaves the half (R310). -/
def rangeBad (a : Nat × Nat × Nat) : Bool :=
  !canonical (BitVec.ofNat 64 a.2.1) || a.2.1 % 8 != 0 || !sameHalf a.2.1 (a.2.1 + a.2.2 - 1)

/-- The checks of a refire block in ascending offset (R310). -/
def refireFailure (r : BitVec 2048) : Nat × Nat :=
  let g (i : Nat) : Nat × Nat × Nat := (refRanges r).getD i (0, 0, 0)
  let rho := field r 0x40 8
  let delta := field r 0x48 8
  firstFailure ([
    (refN r < 1 || 4096 < refN r, 12, 0),
    (refLda r < refN r || 16777216 < refLda r, 12, 4),
    (rangeBad (g 0), 12, 8),
    (rangeBad (g 1), 12, 0x10),
    (rangeBad (g 2) || rangesMeet (g 2) (g 0) || rangesMeet (g 2) (g 1), 12, 0x18),
    (rangeBad (g 3) || rangesMeet (g 3) (g 0) || rangesMeet (g 3) (g 1) || rangesMeet (g 3) (g 2), 12, 0x20),
    (!ladderOk r, 12, 0x28),
    (refLimit r == 0, 12, 0x2C),
    (refStag r == 0, 12, 0x2E),
    ((List.range 4).any (fun i => refPolicy r / 4 ^ i % 4 == 3), 12, 0x2F),
    (!tolOk (field r 0x30 8), 12, 0x30),
    (!tolOk (field r 0x38 8), 12, 0x38),
    (rho != 0 && one64 ≤ rho, 12, 0x40),
    (delta != 0 && !(one64 < delta && delta < 2 ^ 63 && finite64 delta), 12, 0x48)] ++
    (List.range 152).map (fun i => (field r (0x68 + i) 1 != 0, 5, 0x68 + i)))

/-! The handle table. -/

/-- Handles of a block: 1 to 32. (DEDUCED, log entry 106) -/
def handleAt (b : Block) (x : BitVec 64) : Option Handle := if 1 ≤ x.toNat ∧ x.toNat ≤ 32 then mfind b.handles x.toNat else none

/-- The check of R300. -/
def handleTrap (b : Block) (x : BitVec 64) (refire : Bool) : Option Cause :=
  match handleAt b x with
  | none => some .handleInvalid
  | some h => if h.refire = refire then none else some .sealFormat

/-- `seal` has read its record: the handle, `%sealerr`, and the table (R298, R299). -/
def sealRecord (s : State) (k : Nat) (refire : Bool) (va : BitVec 64) (r : BitVec 2048) : Nat × State :=
  let b := (group s k).block
  let (code, off) := if refire then refireFailure r else tensorFailure r
  let free := ((List.range 32).map (· + 1)).find? (fun h => (mfind (block s b).handles h).isNone)
  let (handle, code, off) := if code ≠ 0 then (0, code, off) else match free with | some h => (h, 0, 0) | none => (0, 1, 0)
  let s := modGroup s k (fun g => { g with sealerr := BitVec.ofNat 64 (code + 256 * off) })
  (handle, if handle = 0 then s else modBlock s b (fun x => { x with handles := mset x.handles handle ⟨refire, r, va, none⟩ }))

/-- `seal.free` (R298). -/
def execSealFree (h : Hdr) (b : BitVec 6) (s : State) : Answer :=
  .next (plain (.sealFree h b) h s (fun c s =>
    if c.g.migrated then .error ⟨.migratedAccess, 0, 0, 0⟩
    else
      let n := numN c.x.hb b.toNat
      let x := peekScalar s c n
      if (handleAt (block s c.g.block) x).isNone then .error ⟨.handleInvalid, 0, 0, 0⟩
      else .ok (modBlock (takeScalar s c n).2 c.g.block (fun y => { y with handles := mdel y.handles x.toNat }))))

end Sys2Proof.Machine
end

