-- ==== Sys2Proof/Machine/Access.lean ====
section
/-! DEFINITION. Memory accesses from issue to their positions: the lanes' checks (R25, R28, R128, R268), the granules to
translate (R21), the passes of a scratchpad (R38) and the lines of a beat (R43), and the fate of a failed access
(R27, R183). -/

namespace Sys2Proof.Machine

/-! Shapes. -/

/-- Kind code of R27: 0 read, 1 write or atomic. -/
def AccKind.code (k : AccKind) : Nat := if k.writes then 1 else 0

/-- Bytes of one lane's access. -/
def AccKind.bytes : AccKind → Nat
  | .load _ b | .store b | .atomic _ b | .cas b | .sload _ b | .sstore b => b
  | .lacq _ | .lrel | .lbind _ _ | .trace _ _ => 32
  | .bar _ _ => 16
  | .sealRec _ => 64
  | _ => 1

/-- A latch operation (R110). -/
def AccKind.latch : AccKind → Bool
  | .lacq _ | .lrel | .lbind _ _ => true
  | _ => false

/-- Lane that a failure names: a uniform access belongs to every thread of its fragment. -/
def faultLane (a : Access) (r : LaneReq) : Nat :=
  match a.kind with
  | .sealRec _ => (lanesOf a.lanes).head?.getD 0
  | _ => r.lane

/-- A trace record's counting (R375). -/
def AccKind.traces : AccKind → Bool
  | .trace _ _ => true
  | _ => false

/-! Checks at issue. -/

/-- The first check of R25 that a lane fails before translation. -/
def issueFault (s : State) (a : Access) (r : LaneReq) : Option (Cause × BitVec 32) :=
  let g := group s a.g
  let lane := faultLane a r
  let k := a.kind.code
  let why (reason : Nat) : Option (Cause × BitVec 32) := some (.translation, detailWord false lane k 0 0 reason 0 0)
  if !a.spad && !canonical r.va then why 1
  else if r.va.toNat % a.kind.bytes ≠ 0 then some (.misaligned, detailWord false lane k 0 0 0 0 0)
  else if a.spad then (if (block s g.block).spadSize ≤ r.va.toNat then why 2 else none)
  else if inWindow r.va then
    if g.migrated then some (.migratedAccess, 0)
    else if a.kind.latch || a.kind == .arm then some (.illegalOp, 0)
    else if (windowTarget s a.block r.va).isNone then why 2
    else if a.coil ≠ 0 then some (.illegalOp, 0)
    else none
  else none

/-- A lane's write would touch a barrier-typed granule (R128). (DEDUCED, log entry 37) -/
def laneClobbers (s : State) (a : Access) (r : LaneReq) : Bool :=
  a.kind.writes && (match a.kind with | .bar _ _ => false | _ => true) &&
  (match spadTarget s a r with | some (b, off) => typedAt (block s b) off a.kind.bytes | none => false)

/-- Failed lanes with cause and detail, in ascending lane. -/
def issueFaults (s : State) (a : Access) : List (Nat × Cause × BitVec 32) :=
  a.reqs.filterMap (fun r => (issueFault s a r).map (fun f => (r.lane, f)))

/-- The trap of the lowest failing lane (R28). -/
def lowestFault (a : Access) (fs : List (Nat × Cause × BitVec 32)) : Option Trap :=
  (sortBy (fun x y => x.1 ≤ y.1) fs).head?.map (fun f =>
    ⟨f.2.1, 0, f.2.2, ((a.reqs.find? (fun r => r.lane == f.1)).map (·.va)).getD 0⟩)

/-! Translation work. -/

def chunks4 : Nat → List Nat → List (List Nat)
  | 0, _ => []
  | n + 1, xs => if xs.isEmpty then [] else xs.take 4 :: chunks4 n (xs.drop 4)

/-- A lane's granule, unless its address is not translated. -/
def granuleOf (a : Access) (r : LaneReq) : Option Nat := if a.spad || inWindow r.va then none else some (r.va.toNat / 65536)

/-- Beats of 16 participating lanes (R148, R269). -/
def reqBeats (a : Access) : List (List LaneReq) := [a.reqs.take 16, a.reqs.drop 16].filter (fun b => !b.isEmpty)

/-- Granules to look up, four to a position, beat by beat (R21); a lane that has failed makes no walk. -/
def lookups (a : Access) : List (List Nat) :=
  (reqBeats a).flatMap (fun b =>
    chunks4 16 (((b.filter (fun r => !a.faults.any (fun f => f.1 == r.lane))).filterMap (granuleOf a)).eraseDups))

/-! Passes. -/

/-- Words that a lane's scratchpad access names. -/
def wordsOf (off n : Nat) : List Nat := (List.range ((off + n - 1) / 4 + 1 - off / 4)).map (fun i => off / 4 + i)

/-- Rank of a lane's last word in its bank: the pass in which the lane is served. -/
def passRank (atomic : Bool) (before : List Nat) (words : List Nat) : Nat :=
  (words.map (fun w =>
    let bank := (before.filter (fun x => x % 32 == w % 32))
    let bank := if atomic then bank else (bank.filter (· != w)).eraseDups
    bank.length)).foldl max 0

/-- Lanes with their passes, in ascending lane. A lane that names a word of an earlier lane shares that word's pass. -/
def rankLanes (atomic : Bool) (bytes : Nat) : List Nat → List (Nat × Nat) → List (Nat × Nat)
  | _, [] => []
  | before, (lane, off) :: t =>
    let words := wordsOf off bytes
    let fresh := if atomic then words else words.filter (fun w => !before.contains w)
    let rank := (words.map (fun w =>
      if !atomic && before.contains w then ((before.filter (fun x => x % 32 == w % 32)).findIdx? (· == w)).getD 0
      else passRank atomic before [w])).foldl max 0
    (lane, rank) :: rankLanes atomic bytes (before ++ fresh) t

/-- Lists of lanes by pass. -/
def byRank (ls : List (Nat × Nat)) : List (List Nat) :=
  (List.range ((ls.map (fun e => e.2 + 1)).foldl max 0)).map (fun p => (ls.filter (fun e => e.2 == p)).map (·.1))

def AccKind.atomicLike : AccKind → Bool
  | .atomic _ _ | .cas _ => true
  | _ => false

/-- Physical address of a translated lane. -/
def lanePa (a : Access) (r : LaneReq) : Nat := match xlatOf a.xlats r.va.toNat with | some x => paOf x r.va.toNat | none => 0

/-- Lanes grouped by a key, in order of the lowest lane that names each. -/
def groupLanes (key : LaneReq → Nat) (rs : List LaneReq) : List (List Nat) :=
  ((rs.map key).eraseDups).map (fun k => (rs.filter (fun r => key r == k)).map (·.lane))

/-- The passes of one beat: scratchpad passes of each block reached, then lines (R38, R43). -/
def beatPasses (s : State) (a : Access) (b : List LaneReq) : List (List Nat) :=
  let sp := b.filterMap (fun r => (spadTarget s a r).map (fun t => (t.1, r.lane, t.2)))
  let blocks := (sp.map (·.1)).eraseDups
  blocks.flatMap (fun k => byRank (rankLanes a.kind.atomicLike a.kind.bytes [] ((sp.filter (fun e => e.1 == k)).map (·.2)))) ++
  groupLanes (fun r => lineNo (lanePa a r)) (b.filter (fun r => (spadTarget s a r).isNone))

def passesOf (s : State) (a : Access) : List (List Nat) := (reqBeats a).flatMap (beatPasses s a)

/-- Line writes of an access: its lines outside a scratchpad (R273). -/
def lineWrites (a : Access) : Nat :=
  if a.kind.writes then
    ((reqBeats a).map (fun b => ((b.filterMap (fun r => if a.spad || inWindow r.va then none else some (lineOf r.va))).eraseDups).length)).sum
  else 0

/-- Posts the event that serves an access's next pass; the way to another core's scratchpad takes 24 clocks, once (R39). -/
def postPass (s : State) (id clock : Nat) : State :=
  let a := mget s.accs id
  match a.passes with
  | [] => post s clock (.lspAccess id)
  | p :: _ =>
    let (core, port, away) := passPlace s a p
    if away && !a.reached.contains core then
      post { s with accs := mset s.accs id { a with transit := true, reached := core :: a.reached } } (clock + 24) (.lspAccess id)
    else postLsp s a.owner core port clock (.lspAccess id)

/-! The fate of an access. -/

/-- The fragment an access's failure or result belongs to: its own, or the one that holds its threads now. -/
def accFrag (s : State) (a : Access) : Frag :=
  let g := group s a.g
  let own := frag g a.frag
  if (own.mask &&& a.lanes) != 0 && own.id == a.frag then own
  else (g.frags.find? (fun f => (f.mask &&& a.lanes) != 0)).getD own

/-- A fault of work whose threads have exited, while its launch is in flight (R337, R409). (DEDUCED, log entry 46) -/
def orphanFault (s : State) (o l b k f : Nat) (t : Trap) (pc extra : BitVec 64) : State :=
  match mfind s.launches l with
  | none => s
  | some x => raiseFault s o (reportBytes s o t pc extra (block s b).index (slotOf k) f 0 (partOf k) 0 0)
      (some (x.queue, 1, BitVec.ofNat 8 t.cause.code)) (some b)

/-- The group that issued the work is still in its slot. -/
def stillOf (s : State) (k l b : Nat) : Bool := (group s k).live && (group s k).launch == l && (group s k).block == b

/-- A fatal fault of an access. (DEDUCED, log entry 19; DEDUCED, log entry 46) -/
def accFault (s : State) (a : Access) (t : Trap) : State :=
  if stillOf s a.g a.launch a.block ∧ ((accFrag s a).mask &&& a.lanes) ≠ 0 then groupFault s a.g (accFrag s a).id t a.pc 0 false
  else orphanFault s a.owner a.launch a.block a.g a.frag t a.pc 0

/-- Raises what an access met: in a speculation window it only marks the window (R183). -/
def failAccess (s : State) (id : Nat) (t : Trap) : State :=
  let a := mget s.accs id
  match a.window with
  | some p =>
    dropAccess (modGroup s a.g (fun g => { g with window := g.window.map (fun w =>
      { w with failed := some (match w.failed with | some q => min p q | none => p) }) })) id
  | none =>
    let f := accFrag s a
    if !stillOf s a.g a.launch a.block ∨ (f.mask &&& a.lanes) = 0 then
      let s := if t.cause.fatal then accFault s a t
        else if (launch s a.launch).handler = 0 then orphanFault s a.owner a.launch a.block a.g a.frag t a.pc t.info
        else s
      dropAccess s id
    else
    let s := modGroup s a.g (fun g => modFrag g f.id (fun x => { x with status := .run }))
    takeTrap (dropAccess s id) a.g f.id t a.pc a.pc (turnOf s.clock)

/-- The fragment of an access goes on. -/
def resume (s : State) (id : Nat) : State :=
  let a := mget s.accs id
  if (frag (group s a.g) a.frag).status = .mem id then setRun s a.g a.frag else s

/-- Creates an access at issue: its immediate failures, which come before the check of R128, its granules, and its first
position. The identity it takes is `s.nextId`. -/
def beginAccess (s : State) (a : Access) : Except Trap State :=
  let fs := issueFaults s a
  if fs.isEmpty && a.reqs.any (laneClobbers s a) then .error ⟨.barrierClobber, 0, 0, 0⟩
  else
    let a := { a with faults := fs }
    let todo := lookups a
    let id := s.nextId
    let mark (s : State) : State :=
      match a.window, fs with
      | some p, _ :: _ => modGroup s a.g (fun g => { g with window := g.window.map (fun w =>
          { w with failed := some (match w.failed with | some q => min p q | none => p) }) })
      | _, _ => s
    if todo.isEmpty then
      match lowestFault a fs with
      | some t => if a.window.isSome then .ok (mark s) else .error t
      | none =>
        let a := { a with checked := true, passes := passesOf s a, unperformed := lineWrites a }
        .ok (postPass (tick { s with accs := mset s.accs id a }) id (s.clock + 1))
    else
      let a := { a with todo := todo, unperformed := lineWrites a }
      .ok (postLsp (mark (tick { s with accs := mset s.accs id a })) a.owner a.coreKey a.port (s.clock + 1) (.coreTlbLookup id))

/-! Checks after translation (R25, R76, R84, R108, R116, R129). -/

/-- The instruction's own limits on a physical address. -/
def placeFault (s : State) (a : Access) (pa : Nat) : Option Cause :=
  let sp := spaceOf pa
  if a.kind.latch || a.kind == .arm || a.kind.traces then (if sp = 0 then none else some .illegalOp)
  else if a.coil ≠ 0 ∧ (sp ≠ 0 ∨ coilDie (block s a.block) a.coil ≠ some (homeOf pa)) then some .illegalOp
  else if sp = 1 then
    match a.kind with
    | .atomic op _ => if op = 0 ∨ op = 6 then none else some .illegalOp
    | .cas b => if b = 4 then none else some .illegalOp
    | _ => none
  else none

/-- What a translated lane fails. -/
def laneFault (s : State) (a : Access) (r : LaneReq) : Option (Cause × BitVec 32) :=
  if a.spad || inWindow r.va || a.faults.any (fun f => f.1 == r.lane) then none
  else match xlatOf a.xlats r.va.toNat with
    | none => none
    | some x =>
      let pa := paOf x r.va.toNat
      let lane := faultLane a r
      let out (t : Trap) : Option (Cause × BitVec 32) := some (t.cause, t.detail)
      match accessReason s a.owner a.kind.code (launchFlag s (group s a.g) 2) x pa with
      | some why => out (faultTrap false lane a.kind.code r.va (wf why 0 0 0))
      | none =>
        match (if a.kind = .mig then none else accessCircuit s a.owner a.die pa) with
        | some m => out (faultTrap false lane a.kind.code r.va ⟨0, 0, 0, 0, some m⟩)
        | none => (placeFault s a pa).map (fun c => (c, 0))

end Sys2Proof.Machine
end

