-- ==== Sys2Proof/Machine/Trace.lean ====
section
/-! DEFINITION. Trace buffers: the header, the records and their checksum (R374 to R376). -/

namespace Sys2Proof.Machine

/-- CRC-32C of one byte (R376). -/
def crcBit (c : BitVec 32) : BitVec 32 := if c.getLsbD 0 then (c >>> 1) ^^^ 0x82F63B78 else c >>> 1
def crcByte (c : BitVec 32) (b : BitVec 8) : BitVec 32 := (List.range 8).foldl (fun c _ => crcBit c) (c ^^^ b.setWidth 32)
def crc32c (xs : List (BitVec 8)) : BitVec 32 := ~~~ (xs.foldl crcByte 0xFFFFFFFF)

/-- The checksum of a fragment (R376). -/
def fragCrc (g : Group) (slot : Nat) (m : BitVec 32) : BitVec 32 :=
  crc32c (bytesOf 1 slot ++ bytesOf 4 m.toNat ++
    (lanesOf m).flatMap (fun l => (List.range g.budget).flatMap (fun r => bytesOf 4 (rv g r l).toNat)) ++
    (List.range 16).flatMap (fun n => bytesOf 8 (rs g n).toNat))

/-- The group's accesses to its trace header and buffer: bytes read, or the trap of a failed translation. (DESIGN CHOICE, log entry 36) -/
def traceRead (s : State) (k : Nat) (va : BitVec 64) (n : Nat) : Except Trap (Nat × Xlat × List (BitVec 8)) × State :=
  let g := group s k
  match reachFor s g.owner (coreKey k) 1 (launchFlag s g 2) false 0 va with
  | (.error t, s) => (.error t, s)
  | (.ok (pa, x), s) => (.ok (pa, x, homeBytes s g.owner pa n), s)

/-- A misaligned header or base (R375). (DESIGN CHOICE, log entry 36; DEDUCED, log entry 115) -/
def traceMisaligned (s : State) (k : Nat) : Bool :=
  let arg := (launch s (group s k).launch).arg
  launchFlag s (group s k) 0 &&
  (arg.toNat % 64 != 0 || (match (traceRead s k arg 32).1 with | .ok (_, _, xs) => numOf (xs.take 8) % 32 != 0 | .error _ => false))

/-- Turns that a checksum costs its group (R326). -/
def crcTurns (g : Group) : Nat := (g.budget + 7) / 8

/-- The record of a fragment (R375). -/
def traceBytes (s : State) (k f kind tag : Nat) : List (BitVec 8) :=
  let g := group s k
  let m := (frag g f).mask
  bytesOf 8 (ocyc s g.owner) ++ bytesOf 4 g.blkIndex ++ bytesOf 1 (slotOf k) ++ bytesOf 1 kind ++ bytesOf 2 tag ++
  bytesOf 4 (fragCrc g (slotOf k) m).toNat ++ bytesOf 4 m.toNat ++
  bytesOf 1 (dieOf k) ++ bytesOf 1 (coreOf k) ++ bytesOf 1 (partOf k) ++ bytesOf 1 (frag g f).name ++ bytesOf 4 0

/-- Appends a record for a fragment (R375): the group's access to the header begins; or the trap of a failed check. (DEDUCED, log entry 115) -/
def traceAppend (s : State) (k f kind tag : Nat) : Except Trap State :=
  let g := group s k
  let x := frag g f
  if !launchFlag s g 0 then .ok s
  else
    let s := modGroup s k (fun g => { g with nextTurn := max g.nextTurn (turnOf s.clock + 1 + crcTurns g) })
    beginAccess s { (default : Access) with
      g := k, block := g.block, frag := f, lanes := x.mask, tids := tidsOf g x.mask, pc := x.pc, owner := g.owner, launch := g.launch, die := dieOf k
      core := coreOf k, part := partOf k, kind := .trace s.clock (BitVec.ofNat 256 (numOf (traceBytes s k f kind tag)))
      reqs := [⟨(lanesOf x.mask).head?.getD 0, (launch s g.launch).arg, 0, 0⟩] }

/-- The header once a record is counted: in the producer, and where it finds no place in the overflow count. (DEDUCED, log entry 115) -/
def traceCount (xs : List (BitVec 8)) : List (BitVec 8) :=
  let i := numOf ((xs.drop 8).take 8)
  let cap := (xs.drop 16).take 4
  let lost := numOf ((xs.drop 20).take 4)
  xs.take 8 ++ bytesOf 8 (i + 1) ++ cap ++ bytesOf 4 (if i < numOf cap then lost else lost + 1) ++ xs.drop 24

/-- A record made in the same clock goes before: of a lower die, core, partition, slot or fragment (R375). (DEDUCED, log entry 115) -/
def traceBehind (s : State) (a : Access) : Bool :=
  match a.kind with
  | .trace t _ => s.accs.any (fun e => e.2.launch == a.launch && (e.2.g < a.g || (e.2.g == a.g && e.2.frag < a.frag)) &&
      (match e.2.kind with | .trace u _ => u == t | _ => false))
  | _ => false

/-- The record's place is known: it is written, if the buffer has room. (DEDUCED, log entry 115) -/
def traceWrite (s : State) (id : Nat) (a : Access) (record : BitVec 256) : State :=
  let xs := bytesOf 32 ((a.got.head?.map (fun e => e.2.toNat)).getD 0)
  let i := numOf ((xs.drop 8).take 8)
  if i < numOf ((xs.drop 16).take 4) then
    let va := BitVec.ofNat 64 (numOf (xs.take 8) + 32 * i)
    let b := { a with
      kind := .store 16, todo := [], surplus := [], missing := [], xlats := [], faults := [], checked := false, passes := []
      waiting := 0, unperformed := 0, got := [], avail := 0, transit := false, reached := []
      reqs := [⟨(a.reqs.head?.map (·.lane)).getD 0, va, record.setWidth 128, 0⟩, ⟨32, va + 16, (record >>> 128).setWidth 128, 0⟩] }
    match beginAccess s b with
    | .ok s => dropAccess s id
    | .error t => failAccess { s with accs := mset s.accs id b } id t
  else dropAccess s id

/-- The record of a fragment that a phase completion releases. -/
def traceRecord (s : State) (k f tag : Nat) : State :=
  match traceAppend s k f 0 tag with
  | .ok s => s
  | .error t => takeTrap s k f t (frag (group s k) f).pc (frag (group s k) f).pc (turnOf s.clock)

end Sys2Proof.Machine
end

