-- ==== Sys2Proof/Machine/Migrate.lean ====
section
/-! DEFINITION. Migration (R85 to R88, R293): what `mig` does with its address's home, the landing request, grant,
shipment and landing. -/

namespace Sys2Proof.Machine

/-- A group's landing slots on a die: its owner's lowest slot of partition 1 on each core (R49, R85). -/
def landingSlots (s : State) (o die : Nat) : List Nat :=
  (List.range 32).map (fun c => gkey die c 1 (ext (owner s o).storage 40 5))

/-- A landing slot that holds no group and is granted to none. -/
def landingFree (s : State) (k : Nat) : Bool := !(group s k).live && !s.migs.any (fun m => m.2.slot == some k)

/-- A live die with circuits both ways. (DEDUCED, log entry 41) -/
def startMig (s : State) (id : Nat) : State :=
  let a := mget s.accs id
  let k := a.g
  let r := a.reqs.head?.getD default
  let f := accFrag s a
  match xlatOf a.xlats r.va.toNat with
  | none => failAccess s id ⟨.migrateDenied, 0, 0, r.va⟩
  | some x =>
    let pa := paOf x r.va.toNat
    if spaceOf pa ≠ 0 then failAccess s id ⟨.migrateDenied, 0, 0, r.va⟩
    else if homeOf pa = a.die then
      modGroup (dropAccess s id) k (fun g => modFrag g f.id (fun y => { y with status := .fence 0 6 f.mask }))
    else if (circuitMissing s a.owner a.die (homeOf pa)).isSome then failAccess s id ⟨.migrateDenied, 0, 0, r.va⟩
    else
      let op : EngOp := { (default : EngOp) with
        cls := 1, kind := .mig, g := k, block := (group s k).block, launch := a.launch, owner := a.owner, die := a.die
        core := a.core, part := a.part, frag := f.id, pc := a.pc }
      let m := s.nextId
      let s := tick { s with migs := mset s.migs m ⟨a.owner, k, f.id, m + 1, a.die, homeOf pa, none, none⟩ }
      let s := tick { s with ops := mset s.ops (m + 1) op }
      let s := disarmAll (modGroup s k (fun g => countOp g 1 (m + 1))) k
      presentFrom (dropAccess s id) a.core a.owner a.die (homeOf pa) 2 s.clock (.landRequest m)

/-- Grants the oldest landing request of a die while a slot is free: the lowest core's. -/
def grantLanding (s : State) (o die : Nat) : State :=
  match mget s.landings (32 * die + o) with
  | [] => s
  | m :: rest =>
    match (landingSlots s o die).find? (landingFree s) with
    | none => s
    | some k =>
      let x := mget s.migs m
      let s := { s with landings := mset s.landings (32 * die + o) rest, migs := mset s.migs m { x with slot := some k } }
      present s o die x.src 2 s.clock (.landGrant m)

/-- R85: a landing request reaches the target die, or finds a slot that has become free. -/
def execLandingRequestArrival (m : Nat) (s : State) : Answer :=
  .next (match mfind s.migs m with
  | none => s
  | some x =>
    let q := mget s.landings (32 * x.dst + x.owner)
    let s := if q.contains m ∨ x.slot.isSome then s else { s with landings := mset s.landings (32 * x.dst + x.owner) (q ++ [m]) }
    grantLanding s x.owner x.dst)

/-- Flits of the migration message (R87). -/
def migFlits (g : Group) : Nat := 41 + 16 * (if g.budget < 64 then g.budget + 1 else 64) + g.scount + 2 * g.stack.length

/-- What is shipped of a group (R86). (DEDUCED, log entry 40) -/
def shipped (g : Group) : Group :=
  { g with
    v := g.v.filter (fun e => e.1 / 32 < g.budget || e.1 / 32 == 63)
    s := g.s.filter (fun e => e.1 < g.scount)
    migrated := true, cpybar := 0, reuse := none, loop := none, window := none, armed := none, fired := none, running := none }

/-- The source slot is free: the group has left its block (R86). (DEDUCED, log entry 40) -/
def leaveSlot (s : State) (k : Nat) : State :=
  let g := group s k
  let s := modGroup s k (fun g => { g with live := false, draining := false, frags := [], stack := [], running := none, tid := [], latches := [] })
  let s := match (mget s.landings (32 * dieOf k + g.owner)).head? with
    | some m => post s s.clock (.landingRequestArrival m)
    | none => s
  if g.migrated then s
  else
    let s := modLaunch s g.launch (fun l => { l with migrants := l.migrants + 1 })
    if (mfind s.blocks g.block).isSome then tryEndBlock (fireAll s g.block) g.block else s

/-- R85: the grant reaches the group: its class X operation retires and its state is shipped. The source slot is freed
at the end of the message's last clock, when this event comes a second time. (DEDUCED, log entry 42) -/
def execLandingGrantArrival (m : Nat) (s : State) : Answer :=
  .next (match mfind s.migs m with
  | none => s
  | some x =>
    match x.cargo with
    | some _ => leaveSlot s x.g
    | none =>
      let s := (s.results.filter (fun r => r.2.g == x.g)).foldl (fun s r => { landResult s r.2 with results := mdel s.results r.1 }) s
      let s := modGroup { s with ops := mdel s.ops x.op } x.g (fun g => finishOp g 1 x.op)
      let g := group s x.g
      let s := { s with migs := mset s.migs m { x with cargo := some (shipped g) } }
      let s := presentFrom s (coreOf x.g) x.owner x.src x.dst (migFlits g) s.clock (.groupState m)
      post s (mget (owner s x.owner).busy (16 * x.src + x.dst)) (.landingGrantArrival m))

/-- R85: the state has arrived. -/
def execMigrationStateArrival (m : Nat) (s : State) : Answer := .next (post s (s.clock + 8) (.landingInstall m))

/-- R85: the state is installed; the group acquires at .pkg and issues. (DEDUCED, log entry 40) -/
def execLandingInstall (m : Nat) (s : State) : Answer :=
  .next (match mfind s.migs m with
  | none => s
  | some x =>
    match x.slot, x.cargo with
    | some k, some g =>
      let turn := (s.clock + 7) / 8
      let g := { g with nextTurn := turn, lastStart := 0, frags := g.frags.map (fun f =>
        if f.status = .migrate then { f with status := .run, notBefore := turn, since := turn } else { f with since := turn }) }
      l1Refresh { s with groups := mset s.groups k (settle g), migs := mdel s.migs m } x.owner (coreKey k)
    | _, _ => s)

/-- R293. (DEDUCED, log entry 41) -/
def execMig (h : Hdr) (b : BitVec 6) (s : State) : Answer :=
  .next (plain (.mig h b) h s (fun c s =>
    let (va, s) := takeScalar s c (numN c.x.hb b.toNat)
    let lane := (lanesOf c.f.mask).head?.getD 0
    let a : Access := { (default : Access) with
      g := c.k, block := c.g.block, frag := c.f.id, lanes := c.f.mask, tids := tidsOf c.g c.f.mask, pc := c.pc, owner := c.o, launch := c.g.launch, die := dieOf c.k
      core := coreOf c.k, part := partOf c.k, kind := .mig, reqs := [⟨lane, va, 0, 0⟩] }
    (beginAccess s a).map (fun s => modGroup s c.k (fun g => modFrag g c.f.id (fun f => { f with status := .migrate })))))

end Sys2Proof.Machine
end

