-- ==== Sys2Proof/Machine/Xlat.lean ====
section
/-! DEFINITION. Translation under many lanes: the core TLB's positions (R21), the miss queue (R22), the die TLB and the
walks in their positions (R23, R13 to R16), and what a resolved translation releases (R25 to R28). -/

namespace Sys2Proof.Machine

/-! Lines of engines, and accesses of the queue path (R121, R409, R411). -/

/-- The row of a command's code. (DEDUCED, log entry 97) -/
def commandEvent (o q code : Nat) : Option Instr :=
  match code with
  | 1 => some (.launch o q) | 2 => some (.signal o q) | 3 => some (.wait o q) | 4 => some (.inval o q) | 5 => some (.replay o q)
  | 6 => some (.fenceCommand o q) | _ => none

/-- Byte fields of a command (R353). -/
def cmdField (c : BitVec 512) (off n : Nat) : Nat := ext c (8 * off) (8 * n)

/-- A window address that reaches nothing (R6). -/
def windowTrap (engine : Bool) (lane kind : Nat) (va : BitVec 64) : Trap := ⟨.translation, 0, detailWord engine lane kind 0 0 2 0 0, va⟩

/-- Kind code of a lane of such an access. -/
def lineCode (r : LaneReq) : Nat := if r.lane = 8 then 1 else 0

/-- The event of a queue's command that waits for an access: the read of the next command, or the phase of the present one. -/
def queueEvent (s : State) (key : Nat) : Option Instr :=
  let x := mget s.queues key
  let o := key / 64
  let q := key % 64
  let own (c : BitVec 512) : Option Instr := if cmdField c 0 1 = 1 then some (.launchStart o q) else commandEvent o q (cmdField c 0 1)
  if x.reading then some (.commandRead o q)
  else match x.replay with
    | some r => if r.ready then x.cmd.bind own else some (.replay o q)
    | none => x.cmd.bind own

/-- What waits for such an access looks at it. -/
def wakeLine (s : State) (a : Access) : State :=
  match a.kind with
  | .line op _ => post s s.clock (if (mget s.ops op).kind = .tld then .tldDataArrival op else .engineWritePresent op)
  | .queue key => match queueEvent s key with | some e => post s s.clock e | none => s
  | _ => s

/-- It has failed: nothing more of it is asked for (R340). -/
def failLine (s : State) (id : Nat) (f : Nat × Cause × BitVec 32) : State :=
  let a := mget s.accs id
  let b := { a with faults := [f], checked := true, passes := [], waiting := 0, unperformed := 0 }
  wakeLine { s with accs := mset s.accs id b } b

/-- What a translated lane of it fails: the physical checks and the permissions, the circuit, and for a coil's copy the home
(R25, R76, R84). -/
def lineFault (s : State) (a : Access) (r : LaneReq) : Option (Nat × Cause × BitVec 32) :=
  let k := lineCode r
  let engine := match a.kind with | .line _ _ => true | _ => false
  let (prot, home) := match a.kind with
    | .line op _ => let x := mget s.ops op; (x.prot, if r.lane = 8 ∧ x.coil ≠ 0 then some x.home else none)
    | _ => (true, none)
  let out (f : WalkFault) : Option (Nat × Cause × BitVec 32) :=
    let t := faultTrap engine 0 k r.va f
    some (r.lane, t.cause, t.detail)
  if inWindow r.va then (if home.isSome then some (r.lane, .coilHome, 0) else none)
  else match xlatOf a.xlats r.va.toNat with
  | none => none
  | some x =>
    let pa := paOf x r.va.toNat
    match accessReason s a.owner k prot x pa with
    | some why => out (wf why 0 0 0)
    | none => match accessCircuit s a.owner a.die pa with
      | some m => out ⟨0, 0, 0, 0, some m⟩
      | none => match home with
        | some d => if spaceOf pa = 0 ∧ homeOf pa = d then none else some (r.lane, .coilHome, 0)
        | none => none

/-- Lines of an operation. -/
def AccKind.lineOf (k : AccKind) (op : Nat) : Bool := match k with | .line p _ => p == op | _ => false

/-- The later lines of a transfer that wait for an earlier one's translation are looked up in turn, as much later as that
line was (R411). -/
def nextLine (s : State) (id : Nat) (a : Access) : State :=
  match a.kind with
  | .line op _ =>
    let waits (n : Nat) (b : Access) : Bool := id < n && b.kind.lineOf op && !b.todo.isEmpty
    let late := s.clock - a.avail
    let s := { s with accs := mall s.accs (fun n b => if waits n b then { b with avail := b.avail + late } else b) }
    match s.accs.find? (fun e => waits e.1 e.2) with
    | some (n, b) => if s.agenda.any (fun e => e.2 == .coreTlbLookup n) then s else post s (max s.clock b.avail) (.coreTlbLookup n)
    | none => if (mget s.ops op).pend.isEmpty then s else wakeLine s a
  | _ => s

/-- An access of an engine or of the queue path, before its lookups: what fails before translation (R3, R6), the granules, and
its requests in their order; a copy's destination is written when its data has come. -/
def lineOpen (s : State) (a : Access) (copy : Bool) : Access :=
  let engine := match a.kind with | .line _ _ => true | _ => false
  let bad (r : LaneReq) : Option (Nat × Cause × BitVec 32) :=
    let out (t : Trap) : Option (Nat × Cause × BitVec 32) := some (r.lane, t.cause, t.detail)
    if !canonical r.va then out (faultTrap engine 0 (lineCode r) r.va (wf 1 0 0 0))
    else if inWindow r.va && (!engine || (windowTarget s a.block r.va).isNone) then out (windowTrap engine 0 (lineCode r) r.va)
    else none
  let faults := a.reqs.filterMap bad
  let granules := ((a.reqs.filter (fun r => (bad r).isNone)).filterMap (granuleOf a)).eraseDups
  { a with faults := faults, todo := [granules].filter (fun g => !g.isEmpty)
           passes := (a.reqs.filter (fun r => !copy || (r.lane != 8 && !inWindow r.va))).map (fun r => [r.lane]) }

/-- All of its granules have their translations: it fails, or its request goes out, no earlier than its clock. -/
def lineTranslated (s : State) (id : Nat) : State :=
  let a := mget s.accs id
  let late := a.reqs.filterMap (fun r => if a.faults.any (fun f => f.1 == r.lane) then none else lineFault s a r)
  match sortBy (fun x y => x.1 ≤ y.1) (a.faults ++ late) with
  | f :: _ => failLine s id f
  | [] =>
    let s := { s with accs := mset s.accs id { a with checked := true } }
    let s := match a.passes with
      | [] => wakeLine s a
      | p :: _ =>
        if (a.reqs.find? (fun r => p.contains r.lane)).any (fun r => inWindow r.va) then postPass s id (max s.clock a.avail)
        else post s (max s.clock a.avail) (.lspAccess id)
    nextLine s id a

/-- Every lane of an access has its translation: the checks of R25 from the sixth on, then its first position (R28). -/
def translated (s : State) (id : Nat) : State :=
  let a := mget s.accs id
  let late := a.reqs.filterMap (fun r => (laneFault s a r).map (fun f => (r.lane, f)))
  match lowestFault a (a.faults ++ late) with
  | some t => failAccess s id t
  | none =>
    let s := { s with accs := mset s.accs id { a with checked := true, passes := passesOf s a } }
    match a.kind with
    | .mig => startMig s id
    | _ => postPass s id s.clock

/-- Proceeds when nothing is left to translate. -/
def tryTranslated (s : State) (id : Nat) : State :=
  match mfind s.accs id with
  | none => s
  | some a =>
    if a.todo.isEmpty ∧ a.missing.isEmpty ∧ !a.checked then (if a.kind.apart then lineTranslated s id else translated s id) else s

/-! Entries with an uncorrectable error (R54). -/

/-- DEDUCED, log entry 109. -/
def dropBadCore (s : State) (o key va : Nat) : State :=
  let hit (t : TlbEntry) : Bool := t.bad && tlbCovers t o key va false
  if s.coreTlb.any hit then correctionRecord { s with coreTlb := s.coreTlb.filter (fun t => !hit t) } o else s

/-- DEDUCED, log entry 109. -/
def dropBadDie (s : State) (o die va : Nat) (stage2 : Bool) : State :=
  let hit (t : TlbEntry) : Bool := t.bad && tlbCovers t o die va stage2 && dieSet s o die (diePlace s o va t.x.size) t
  if s.dieTlb.any hit then correctionRecord { s with dieTlb := s.dieTlb.filter (fun t => !hit t) } o else s

/-! The core TLB (R21, R22). -/

/-- Kind code of a miss: that of the first lane which names the granule. -/
def missCode (a : Access) (g : Nat) : Nat :=
  if a.kind.apart then (match a.reqs.find? (fun r => granuleOf a r == some g) with | some r => lineCode r | none => 0) else a.kind.code

/-- A granule that missed joins its entry of the miss queue, or enters it; where there is no room it waits. (DEDUCED, log entry 99) -/
def enqueueMiss (s : State) (id g : Nat) : State :=
  let a := mget s.accs id
  let direct (k : AccKind) : Bool := match k with | .queue _ => true | _ => false
  let put (s : State) : State :=
    let m := s.nextId
    postWalk (tick { s with misses := mset s.misses m ⟨a.owner, a.die, a.core, g, missCode a g, [id], [], none, direct a.kind⟩ })
      a.owner a.die (s.clock + 1) (.dieTlbLookup m)
  if direct a.kind then put s
  else match missAt s a.owner a.coreKey g with
  | some (m, x) => { s with misses := mset s.misses m { x with accs := x.accs ++ [id] } }
  | none =>
    if (missesOf s a.owner a.coreKey).length < 16 then put s
    else { s with accs := mset s.accs id { a with surplus := a.surplus ++ [g] } }

/-- Looks up one granule for an access; the queue path has no core TLB (R409). -/
def lookGranule (id : Nat) (s : State) (g : Nat) : State :=
  let a := mget s.accs id
  let s := match a.kind with | .queue _ => s | _ => dropBadCore s a.owner a.coreKey (g * 65536)
  match (match a.kind with | .queue _ => none | _ => tlbFind s.coreTlb a.owner a.coreKey (g * 65536) false) with
  | some t => tick { s with coreTlb := tlbTouch s.coreTlb t s.nextId, accs := mset s.accs id { a with xlats := a.xlats ++ [t.x] } }
  | none => enqueueMiss { s with accs := mset s.accs id { a with missing := g :: a.missing } } id g

/-- An earlier line of the operation waits for its translation, or has failed: this one is held back (R340, R411). -/
def lineBehind (s : State) (id : Nat) (a : Access) : Bool :=
  match a.kind with
  | .line op _ => s.accs.any (fun e => e.1 < id && e.2.kind.lineOf op && (!e.2.checked || !e.2.faults.isEmpty))
  | _ => false

/-- R411: the granules of an engine's line, or of an access of the queue path, are looked up together. (DEDUCED, log entry 13) -/
def lookLine (s : State) (id : Nat) : State :=
  let a := mget s.accs id
  if lineBehind s id a then s
  else tryTranslated (a.todo.flatten.foldl (lookGranule id) { s with accs := mset s.accs id { a with todo := [] } }) id

/-- R21: one position of core-TLB lookups; an engine's takes none (R411). -/
def execCoreTlbLookup (id : Nat) (s : State) : Answer :=
  .next (match mfind s.accs id with
  | none => s
  | some a =>
    if a.kind.apart then (if s.clock < a.avail then post s a.avail (.coreTlbLookup id) else lookLine s id) else
    match a.todo with
    | [] => tryTranslated s id
    | chunk :: rest =>
      if vacant s a.owner 4 then post s (boundary s.clock) (.coreTlbLookup id) else
      let s := chunk.foldl (lookGranule id) { s with accs := mset s.accs id { a with todo := rest } }
      if rest.isEmpty then tryTranslated s id
      else postLsp s a.owner a.coreKey a.port s.clock (.coreTlbLookup id))

/-- Room in a miss queue is taken by what waits for it, the oldest access first (R22). (DEDUCED, log entry 99) -/
def admitSurplus (s : State) (o core : Nat) : Nat → State
  | 0 => s
  | n + 1 =>
    match s.accs.find? (fun e => e.2.owner == o && e.2.coreKey == core && !e.2.surplus.isEmpty) with
    | none => s
    | some (id, a) =>
      match a.surplus with
      | [] => s
      | g :: rest =>
        if (missAt s o core g).isSome ∨ (missesOf s o core).length < 16 then
          admitSurplus (enqueueMiss { s with accs := mset s.accs id { a with surplus := rest } } id g) o core n
        else s

/-! Resolved misses. -/

/-- A granule's translation reaches an access: its translation, or the failure of every lane in the granule (R27). -/
def resolveAccess (g : Nat) (r : Except WalkFault Xlat) (s : State) (id : Nat) : State :=
  match mfind s.accs id with
  | none => s
  | some a =>
    let a := { a with missing := a.missing.filter (· != g) }
    let a := match r with
      | .ok x => { a with xlats := a.xlats ++ [x] }
      | .error f =>
        let bad := a.reqs.filter (fun q => granuleOf a q == some g)
        { a with faults := a.faults ++ bad.map (fun q =>
            let engine := match a.kind with | .line _ _ => true | _ => false
            let t := faultTrap (engine && f.circuit.isNone) (if a.kind.apart then 0 else faultLane a q)
              (if f.circuit.isSome then 0 else if a.kind.apart then lineCode q else a.kind.code) q.va f
            (q.lane, t.cause, t.detail)) }
    tryTranslated { s with accs := mset s.accs id a } id

/-- A fetch's failed walk is noted with the fragment that still stands at the granule, and is raised when its instruction is
due (R27, R198). -/
def resolveFetcher (g : Nat) (r : Except WalkFault Xlat) (s : State) (e : Nat × Nat) : State :=
  match r with
  | .ok _ => s
  | .error f =>
    modGroup s e.1 (fun h => modFrag h e.2 (fun x =>
      let pc := standsAt h x
      let va := if pc.toNat / 65536 = g then pc else BitVec.ofNat 64 (g * 65536)
      if pc.toNat / 65536 = g ∨ (pc + 6).toNat / 65536 = g then { x with fetchFault := some (pc, va, f) } else x))

/-- A miss is served: the core TLB installs the translation, and what waited proceeds. -/
def serveMiss (s : State) (m : Nat) (r : Except WalkFault Xlat) : State :=
  match mfind s.misses m with
  | none => s
  | some x =>
    let s := { s with misses := mdel s.misses m }
    let s := match r with | .ok t => if x.direct then s else coreInstall s x.owner (32 * x.die + x.core) t | .error _ => s
    let s := x.accs.foldl (resolveAccess x.granule r) s
    let core := 32 * x.die + x.core
    let s := admitSurplus s x.owner core ((s.accs.map (fun e => e.2.surplus.length)).sum)
    x.fetchers.foldl (resolveFetcher x.granule r) s

/-! Walks (R23). -/

/-- The stage-2 root, and the guest-physical address of a level's entry in a stage-1 table. -/
def s2Root (s : State) (o : Nat) : Nat := pteAddr (entry s o 0x00)

/-- A walk at its start (R14): the level-1 entry's address is to be translated. -/
def newWalk (s : State) (o die va kind : Nat) (running : Bool) : Walk :=
  ⟨o, die, va, kind, 1, 1, entryAddr (pteAddr (owner s o).root) 1 va, s2Root s o, none, none, [], 0, none, none, [], running⟩

/-- The stage-1 level that a stage-2 failure reports as its origin: 0 for the final address (R27). -/
def Walk.origin (w : Walk) : Nat := if w.level1 = 4 then 0 else w.level1

/-- What a walk does next. -/
inductive WalkNext where
  /-- reads the line of an entry -/
  | read (pa : Nat)
  | fail (f : WalkFault)
  | done (x : Xlat)

/-- The stage-2 translation of the walk's present address, if the die TLB holds it, whose entry has then been used last
(R17, R18). -/
def walkCached (s : State) (w : Walk) : Walk × State :=
  let s := dropBadDie s w.owner w.die w.gpa true
  if w.leaf2.isNone ∧ w.level2 = 1 then
    match dieFind s w.owner w.die w.gpa true with
    | some t => ({ w with leaf2 := some t.x }, tick { s with dieTlb := tlbTouch s.dieTlb t s.nextId })
    | none => (w, s)
  else (w, s)

/-- The level of the entry that a stage-2 translation ends in. -/
def leafLevel (x : Xlat) : Nat := if x.size = 2 ^ 29 then 2 else 3

/-- The next move of a walk. A physical address that fails R9 is charged to the stage-2 entry that gives it, the root's to
level 1 (R27). (DEDUCED, log entry 22) -/
def walkNext (s : State) (w : Walk) : WalkNext :=
  if !(owner s w.owner).root.getLsbD 0 then .fail (wf 3 1 0 0)
  else if !w.run.isEmpty then .read ((w.entry / 128 + 1 - 2 * (w.entry / 128 % 2)) * 128)
  else match w.leaf2 with
    | none =>
      if !(entry s w.owner 0x00).getLsbD 0 then .fail (wf 3 1 1 w.origin)
      else match paReason s w.owner w.table2 with
        | some r => .fail (wf r (max 1 (w.level2 - 1)) 1 w.origin)
        | none => .read (entryAddr w.table2 w.level2 w.gpa)
    | some x =>
      match paReason s w.owner (paOf x w.gpa) with
      | some r => .fail (wf r (leafLevel x) 1 w.origin)
      | none => match w.leaf1 with
        | some l => .done (combine l x w.va)
        | none => .read (paOf x w.gpa)

/-- A slice of a line. -/
def sliceKey (die line : Nat) : Nat := die * 48 + sliceOf (line * 128)

/-- Place of a request's source among those of one clock: cores first, then the walker (R73, R115). (DEDUCED, log entry 116) -/
def Req.rank (r : Req) : Nat := match r.agent with | .walk _ => 32 | _ => r.core
/-- Place of a slice's messages. (DEDUCED, log entry 116) -/
def sliceRank (line : Nat) : Nat := 33 + sliceOf (line * 128)

/-- What enters a stream later in a clock than a local request: a local one of a higher core, or partition, and remote ones
(R75, R115). -/
def laterEntry (s : State) (r : Req) : Instr → Bool
  | .l2Access j => let q := mget s.reqs j
    q.entered.isNone && (r.rank < q.rank || (r.rank == q.rank && r.part < q.part))
  | .circuitMessageArrival m => (match (mget s.messages m).payload with | .request _ => true | _ => false)
  | _ => false

/-- A request enters its slice's stream now, and takes a position (R45, R75). -/
def enterStream (s : State) (id : Nat) : State :=
  let r := mget s.reqs id
  postClaim (tick { s with reqs := mset s.reqs id { r with entered := some s.nextId } }) r.owner 7 (sliceKey r.home r.line) s.clock (.l2Access id)

/-- Sends a request to its home (R45, R70, R75): a local one enters the stream 10 clocks after the position that sends it. -/
def sendReq (s : State) (r : Req) (flits clock : Nat) : State :=
  let id := s.nextId
  let s := tick { s with reqs := mset s.reqs id r }
  if r.home = r.die then { s with agenda := insertBefore (laterEntry s r) s.agenda (clock + 10) (.l2Access id) }
  else presentFrom s r.rank r.owner r.die r.home flits clock (.request id)

/-- A read request of a walk. (DESIGN CHOICE, log entry 124) -/
def walkReq (w : Walk) (id pa : Nat) : Req :=
  { (default : Req) with owner := w.owner, die := w.die, home := homeOf pa, line := lineNo pa, kind := .read [], agent := .walk id }

/-- An owner's running walks on a die. -/
def runningWalks (s : State) (o die : Nat) : Nat := (s.walks.filter (fun w => w.2.owner == o && w.2.die == die && w.2.running)).length

/-- Walks that wait for a context begin, in order, while there is one. (DEDUCED, log entry 98) -/
def beginWalks (s : State) (o die : Nat) : Nat → State
  | 0 => s
  | n + 1 =>
    match s.walks.find? (fun v => v.2.owner == o && v.2.die == die && !v.2.running) with
    | none => s
    | some (v, x) =>
      if runningWalks s o die < max 1 (owner s o).walks then
        beginWalks (postWalk { s with walks := mset s.walks v { x with running := true } } o die (s.clock + 1) (.walkStep v)) o die n
      else s

/-- A walk begins anew, under a new name (R24). -/
def restartWalk (s : State) (id : Nat) (w : Walk) : State :=
  let n := s.nextId
  let s := tick { s with
    walks := mset (mdel s.walks id) n (newWalk s w.owner w.die w.va w.kind w.running)
    misses := mall s.misses (fun _ m => if m.walk = some id then { m with walk := some n } else m) }
  if w.running then postWalk s w.owner w.die s.clock (.walkStep n) else s

/-- A range of addresses, of which length 0 stands for all, meets a page. -/
def rangeMeets (r : Nat × Nat) (base size : Nat) : Bool := r.2 == 0 || (base < r.1 + r.2 && r.1 < base + size)

/-- Reports a walk's end to the misses it serves; one whose page meets an invalidation of its time is stale, and begins
anew (R24). As the oldest running walk ends, those that wait begin (R23). (DEDUCED, log entry 98) -/
def endWalk (s : State) (id : Nat) (r : Except WalkFault Xlat) : State :=
  let w := mget s.walks id
  if (match r with | .ok x => w.avoid.any (fun v => rangeMeets v x.va x.size) | .error _ => false) then restartWalk s id w else
  let first := !s.walks.any (fun v => v.1 < id && v.2.owner == w.owner && v.2.die == w.die && v.2.running)
  let s := { s with walks := mdel s.walks id }
  let s := match r with | .ok x => dieInstall s w.owner w.die false x | .error _ => s
  let s := (s.misses.filter (fun m => m.2.walk == some id)).foldl (fun s m => serveMiss s m.1 r) s
  if first then beginWalks s w.owner w.die s.walks.length else s

/-- R23: a walk's step issues its next read. -/
def execWalkStep (id : Nat) (s : State) : Answer :=
  .next (match mfind s.walks id with
  | none => s
  | some w =>
    if vacant s w.owner 8 then post s (boundary s.clock) (.walkStep id) else
    let (w, s) := walkCached s w
    match walkNext s w with
    | .fail f => endWalk s id (.error f)
    | .done x => endWalk s id (.ok x)
    | .read pa =>
      match circuitMissing s w.owner w.die (homeOf pa) with
      | some m => endWalk s id (.error ⟨0, 0, 0, 0, some m⟩)
      | none =>
        let w := if w.run.isEmpty then { w with entry := pa } else w
        sendReq { s with walks := mset s.walks id w } (walkReq w id pa) 2 s.clock)

/-- The 16 entries of a line. -/
def lineEntries (d : BitVec 1024) : List (BitVec 64) := (List.range 16).map (fun i => BitVec.ofNat 64 (ext d (64 * i) 64))

/-- The stage's leaf is known, its run being read if it has one. -/
def walkLeaf (s : State) (w : Walk) (level : Nat) (e : BitVec 64) (run : List (BitVec 64)) : Walk × State :=
  match w.leaf2 with
  | none =>
    let x := leafOf level e run w.gpa
    ({ w with leaf2 := some x, run := [] }, if w.level1 = 4 then s else dieInstall s w.owner w.die true x)
  | some _ =>
    let x := leafOf level e run w.va
    ({ w with leaf1 := some x, run := [], level1 := 4, level2 := 1, gpa := paOf x w.va, table2 := s2Root s w.owner, leaf2 := none }, s)

/-- An entry has been read: the walk goes down, finds a leaf, or fails (R12, R13). -/
def walkEntry (s : State) (w : Walk) (d : BitVec 1024) : Except WalkFault Walk × State :=
  let i := w.entry / 8 % 16
  let stage1 := w.leaf2.isSome
  let level := if stage1 then w.level1 else w.level2
  if !w.run.isEmpty then
    let e := w.run.getD i 0
    let all := if w.entry / 128 % 2 = 0 then w.run ++ lineEntries d else lineEntries d ++ w.run
    let (w, s) := walkLeaf s w level e all
    (.ok w, s)
  else
    let e := (lineEntries d).getD i 0
    match pteReason level e with
    | some r => (.error (if stage1 then wf r level 0 0 else wf r level 1 w.origin), s)
    | none =>
      if pteLeaf level e then
        if level = 3 ∧ e.getLsbD 6 then (.ok { w with run := lineEntries d }, s)
        else let (w, s) := walkLeaf s w level e []; (.ok w, s)
      else if stage1 then
        (.ok { w with level1 := level + 1, level2 := 1, gpa := entryAddr (pteAddr e) (level + 1) w.va, table2 := s2Root s w.owner, leaf2 := none }, s)
      else (.ok { w with level2 := level + 1, table2 := pteAddr e }, s)

/-- R23: a read of a walk has returned; the next step, or the install, takes the owner's next position. -/
def execWalkReadReturn (id : Nat) (s : State) : Answer :=
  .next (match mfind s.walks id with
  | none => s
  | some w =>
    match w.data with
    | none => s
    | some d =>
      let (r, s) := walkEntry s { w with data := none } d
      match r with
      | .error f => postWalk { s with walks := mset s.walks id { w with data := none, fault := some f } } w.owner w.die (s.clock + 1) (.walkInstall id)
      | .ok w =>
        let (w, s) := walkCached s w
        let s := { s with walks := mset s.walks id w }
        match walkNext s w with
        | .read _ => postWalk s w.owner w.die (s.clock + 1) (.walkStep id)
        | _ => postWalk s w.owner w.die (s.clock + 1) (.walkInstall id))

/-- R23: a walk installs its translation, or reports its failure. -/
def execWalkInstall (id : Nat) (s : State) : Answer :=
  .next (match mfind s.walks id with
  | none => s
  | some w =>
    if vacant s w.owner 8 then post s (boundary s.clock) (.walkInstall id) else
    match w.fault with
    | some f => endWalk s id (.error f)
    | none => match walkNext s w with
      | .done x => endWalk s id (.ok x)
      | .fail f => endWalk s id (.error f)
      | .read _ => postWalk s w.owner w.die s.clock (.walkStep id))

/-- R23: one die-TLB lookup. A miss joins the walk of its granule on the die, or starts one when a context is free. -/
def execDieTlbLookup (m : Nat) (s : State) : Answer :=
  .next (match mfind s.misses m with
  | none => s
  | some x =>
    if vacant s x.owner 8 then post s (boundary s.clock) (.dieTlbLookup m) else
    let va := x.granule * 65536
    let s := dropBadDie s x.owner x.die va false
    match dieFind s x.owner x.die va false with
    | some t => serveMiss (tick { s with dieTlb := tlbTouch s.dieTlb t s.nextId }) m (.ok t.x)
    | none =>
      match s.walks.find? (fun w => w.2.owner == x.owner && w.2.die == x.die && w.2.va / 65536 == x.granule) with
      | some (w, _) => { s with misses := mset s.misses m { x with walk := some w } }
      | none =>
        let waiting := s.walks.any (fun w => w.2.owner == x.owner && w.2.die == x.die && !w.2.running)
        let run := !waiting && runningWalks s x.owner x.die < max 1 (owner s x.owner).walks
        let w := s.nextId
        let s := tick { s with walks := mset s.walks w (newWalk s x.owner x.die va x.kind run)
                               misses := mset s.misses m { x with walk := some w } }
        if run then postWalk s x.owner x.die s.clock (.walkStep w) else s)

/-- Walks that overlap an invalidation restart (R24). -/
def restartWalks (s : State) (p : Nat → Walk → Bool) : State :=
  (s.walks.filter (fun w => p w.1 w.2)).foldl (fun s e => restartWalk s e.1 e.2) s

end Sys2Proof.Machine
end

