-- ==== Sys2Proof/Machine/Sync.lean ====
section
/-! DEFINITION. What synchronisation objects do at their homes: latches (R110 to R117), barrier operations (R125, R282)
and monitors (R129 to R133). -/

namespace Sys2Proof.Machine

/-! Latches. -/

/-- The latch object (R110). -/
structure Latch where
  base : BitVec 64
  len : BitVec 64
  seq : BitVec 64
  word : BitVec 64
deriving DecidableEq, Repr, Inhabited

def latchOf (xs : List (BitVec 8)) : Latch :=
  let n := numOf xs
  ⟨BitVec.ofNat 64 n, BitVec.ofNat 64 (n / 2 ^ 64), BitVec.ofNat 64 (n / 2 ^ 128), BitVec.ofNat 64 (n / 2 ^ 192)⟩
def Latch.bytes (l : Latch) : List (BitVec 8) :=
  bytesOf 8 l.base.toNat ++ bytesOf 8 l.len.toNat ++ bytesOf 8 l.seq.toNat ++ bytesOf 8 l.word.toNat
def Latch.bound (l : Latch) : Bool := l.word.getLsbD 4
def Latch.held (l : Latch) : Bool := l.word.getLsbD 5
def Latch.holder (l : Latch) : BitVec 32 := l.word.extractLsb' 32 32
def Latch.scope (l : Latch) : Nat := ext l.word 0 4
/-- A holder and flags word. -/
def latchWord (holder : BitVec 32) (held bound : Bool) (scope : Nat) : BitVec 64 :=
  BitVec.ofNat 64 (scope + 16 * b2n bound + 32 * b2n held + 2 ^ 32 * holder.toNat)

/-- The latch object at a home address as it stands. -/
def latchAt (s : State) (o pa : Nat) : Latch := latchOf (homeBytes s o pa 32)

/-- How a latch operation ends. -/
inductive LatchEnd where
  | done | illegal | queued | refused
deriving DecidableEq, Repr, Inhabited

def LatchEnd.code : LatchEnd → Nat
  | .done => 0 | .illegal => 1 | .queued => 2 | .refused => 3

/-- The group gains or gives up a latch. -/
def gainLatch (s : State) (k pa : Nat) : State := modGroup s k (fun g => { g with latches := g.latches ++ [pa] })
def loseLatch (s : State) (k pa : Nat) : State := modGroup s k (fun g => { g with latches := g.latches.filter (· != pa) })

/-- Writes the object. -/
def putLatch (s : State) (a : Access) (x : Xlat) (pa : Nat) (l : Latch) : State :=
  performBytes s a.owner pa (gpaOf x (x.va + (pa - x.pa))) 0 x.hc x.prot l.bytes

/-- A latch passes to its first waiter, whose fragment is told from the same position (R113, R281). -/
def passLatch (s : State) (w : LatchWaiter) (home : Nat) : State :=
  let a := mget s.accs w.acc
  let s := gainLatch { s with waiters := s.waiters.filter (fun v => v.acc != w.acc) } a.g w.latch
  if a.die = home then post s (s.clock + 10) (.latchGrant w.acc) else presentFrom s (sliceRank (lineNo w.latch)) w.owner home a.die 3 s.clock (.latchGrant w.acc)

/-- A latch operation at the latch's home (R111 to R113, R116). (DESIGN CHOICE, log entry 130) -/
def latchOperate (s : State) (id : Nat) (a : Access) (x : Xlat) (pa : Nat) : LatchEnd × State :=
  let l := latchAt s a.owner pa
  let me := (group s a.g).holder
  match a.kind with
  | .lbind base len =>
    if l.bound && l.held then (.illegal, s) else (.done, putLatch s a x pa ⟨base, len, 0, latchWord 0 false true 0⟩)
  | .lacq try_ =>
    if !l.bound || (l.held && l.holder == me) then (.illegal, s)
    else if !l.held then (.done, gainLatch (putLatch s a x pa { l with word := latchWord me true true l.scope }) a.g pa)
    else if try_ then (.refused, s)
    else (.queued, { s with waiters := s.waiters ++ [⟨a.owner, pa, id, me⟩] })
  | .lrel =>
    if !l.bound || !l.held || l.holder != me then (.illegal, s)
    else
      let s := loseLatch s a.g pa
      match s.waiters.find? (fun w => w.owner == a.owner && w.latch == pa) with
      | none => (.done, putLatch s a x pa { l with seq := l.seq + 1, word := latchWord 0 false true a.scope })
      | some w =>
        (.done, passLatch (putLatch s a x pa { l with seq := l.seq + 1, word := latchWord w.holder true true a.scope }) w (homeOf pa))
  | _ => (.done, s)

/-- A write to the latch's region that happens-before the `lrel` and that a release at its scope waits for: an earlier one of
the releasing threads, or one that they have read (R106, R113, R114). -/
def owedRegion (s : State) (a : Access) (before : Nat) : Bool :=
  match a.reqs with
  | [] => false
  | r :: _ =>
    let l := latchAt s a.owner (lanePa a r)
    let first := l.base.toNat
    let last := first + l.len.toNat
    let inRegion (id : Nat) (x : Access) : Bool := x.kind.writes && x.reqs.any (fun q =>
      !x.spad && !inWindow q.va && first < q.va.toNat + x.kind.bytes && q.va.toNat < last && laneOwed s id x a.scope a.die q)
    s.accs.any (fun e => e.1 < before && ofThreads a.block a.tids e.2 && inRegion e.1 e.2) ||
    s.seen.any (fun x => x.1 == a.block && x.2.1.any a.tids.contains &&
      (match mfind s.accs x.2.2 with | some y => contains a.scope a.g a.block y && inRegion x.2.2 y | none => false))

/-- The fragment of a granted or ended latch operation goes on; an `lacq` as an acquire (R112, R281). -/
def endLatch (s : State) (id : Nat) (e : LatchEnd) : State :=
  let a := mget s.accs id
  let turn := (s.clock + 9) / 8
  let key (b : Bool) (s : State) : State := postResult s ⟨a.g, turn, [.k 0 b], 0, true, a.frag⟩
  match e with
  | .illegal => failAccess s id ⟨.illegalOp, 0, 0, 0⟩
  | .queued => s
  | .refused => dropAccess (resume (key false s) id) id
  | .done =>
    let s := match a.kind with
      | .lacq try_ =>
        let s := if try_ then key true s else s
        if a.scope ≥ 4 then postRefresh s a.holder 0 else s
      | _ => s
    dropAccess (resume s id) id

/-- R112: the grant notice reaches the parked fragment. (DEDUCED, log entry 38) -/
def execLatchGrant (id : Nat) (s : State) : Answer := .next (if (mfind s.accs id).isSome then endLatch s id .done else s)

/-! Barrier operations. -/

/-- The object is reached through another rank's window, so the barrier's scope is .clu (R127). -/
def overWindow (s : State) (k : Nat) (va : BitVec 64) : Bool :=
  match windowTarget s (group s k).block va with | some (b, _) => b != (group s k).block | none => false

/-- What `bar.wait` and a true `bar.test` acquire (R127). -/
def barAcquire (s : State) (k f : Nat) (va : BitVec 64) : State :=
  if overWindow s k va then postRefresh s (holderOf s k f (frag (group s k) f).mask) 0 else s

/-- A `bar` operation in its position: its outcome is kept until its result clock (R125, R282): 1 a trap, 2 and 3 the
two answers of `bar.test`. -/
def barOperate (s : State) (id : Nat) (a : Access) (op : Nat) (x : BitVec 64) : State :=
  let r := a.reqs.head?.getD default
  let (b, off) := (windowTarget s a.block r.va).getD (0, 0)
  let o := barAt s b off
  let clock := s.clock + (if overWindow s a.g r.va then 28 else 4)
  let note (s : State) (v : Nat) : State :=
    post { s with accs := mset s.accs id { a with passes := [], got := [(0, BitVec.ofNat 1024 v)], avail := clock } } clock (.lspAccess id)
  if op ≠ 0 ∧ !(block s b).typed.contains off then note s 1
  else if op = 1 ∧ o.pending.toNat < x.toNat then note s 1
  else if op = 4 ∧ o.gen = x.setWidth 4 then
    let s := modGroup s a.g (fun g => modFrag g a.frag (fun f => { f with status := .barWait r.va (x.setWidth 4) }))
    putBar (dropAccess s id) b off o
  else
    let s := if op = 0 then modBlock s b (fun y => { y with typed := if y.typed.contains off then y.typed else off :: y.typed }) else s
    note (putBar s b off (o.apply op x x.toNat)) (if op = 5 then (if o.gen = x.setWidth 4 then 2 else 3) else 0)

/-- The result clock of a `bar` operation (R282). -/
def endBar (s : State) (id : Nat) (a : Access) (op : Nat) : State :=
  let r := a.reqs.head?.getD default
  match (a.got.head?.map (fun e => e.2.toNat)).getD 0 with
  | 1 => failAccess s id ⟨.illegalOp, 0, 0, 0⟩
  | v =>
    let s := if op = 5 then postResult s ⟨a.g, (s.clock + 7) / 8, [.k 0 (v == 3)], 0, true, a.frag⟩ else s
    let s := if op = 4 ∨ v = 3 then barAcquire s a.g a.frag r.va else s
    dropAccess (resume s id) id

/-- R125, R282: a fragment parked on a completed phase resumes; a traced launch records it (R375). -/
def execBarrierWake (k f : Nat) (s : State) : Answer :=
  .next (match (frag (group s k) f).status with
  | .barWait va gen => barAcquire (setRun (traceRecord s k f gen.toNat) k f) k f va
  | _ => s)

/-! Monitors. -/

/-- An arm is translated: it replaces the line the group had armed (R129). (DEDUCED, log entry 45) -/
def armLine (s : State) (a : Access) (pa : Nat) : Nat × State :=
  let s := disarm s a.g
  let w := s.nextId
  (w, modGroup (tick { s with watchers := mset s.watchers w ⟨a.owner, a.g, none, homeOf pa, lineNo pa, false, false⟩ }) a.g
    (fun g => { g with armed := some w, fired := none }))

/-- An arm is installed at its slice; one that finds the owner's 64 entries full is overflowed (R129, R132). -/
def installWatcher (s : State) (w : Nat) : State :=
  match mfind s.watchers w with
  | none => s
  | some x =>
    let here := s.watchers.filter (fun e => e.2.owner == x.owner && e.2.installed && !e.2.overflowed && e.2.die == x.die &&
      sliceOf (e.2.line * 128) == sliceOf (x.line * 128))
    { s with watchers := mset s.watchers w { x with installed := true, overflowed := 64 ≤ here.length } }

/-- R130, R131: a fire notice reaches the core. (DEDUCED, log entry 45) -/
def execMonitorWake (k code : Nat) (s : State) : Answer :=
  .next (
    let s := modGroup s k (fun g => { g with fired := some code })
    if monParked (group s k) && !armUnderway s k then wakeMon s k code else s)

/-- R131: the wait's limit, once its arm is installed; a notice due in the same clock has the lower code. -/
def execMonWaitTimeout (k f : Nat) (s : State) : Answer :=
  .next (match (frag (group s k) f).status with
  | .monWait limit =>
    if s.agenda.any (fun e => e.1 ≤ s.clock && (match e.2 with | .monitorWake g _ => g == k | _ => false)) then s
    else match monCode s k limit with
      | some code => wakeMon s k code
      | none => s
  | _ => s)

end Sys2Proof.Machine
end

