-- ==== Sys2Proof/Machine/Cache.lean ====
section
/-! DEFINITION. Accesses in their positions: the load-store ports with the L1 and the scratchpads (R38, R39, R43, R44,
R272 to R278), the L2 slices (R45 to R48, R75, R83), the channels (R61 to R63), and what returns (R63, R73). -/

namespace Sys2Proof.Machine

/-! The L1 (R42, R43, R46, R47). -/

def l1Find (s : State) (o core line : Nat) (rep : Bool) : Option CoreLine :=
  s.l1.find? (fun l => l.owner == o && l.at_ == core && l.line == line && !l.bad && (rep || !l.replica))

/-- A line struck by an uncorrectable error is discarded (R54). (DEDUCED, log entry 109) -/
def l1DropBad (s : State) (o core line : Nat) : State :=
  let hit (l : CoreLine) : Bool := l.owner == o && l.at_ == core && l.line == line && l.bad
  if s.l1.any hit then correctionRecord { s with l1 := s.l1.filter (fun l => !hit l) } o else s

/-- A line fills the L1: the lowest free way of the owner's, otherwise in place of the least recent line of the set. -/
def l1Put (s : State) (policy : Nat) (x : CoreLine) : State :=
  let keep := s.l1.filter (fun l => !(l.owner == x.owner && l.at_ == x.at_ && l.line == x.line && l.replica == x.replica))
  let lost := match (owner s x.owner).drain with | some d => d.l1 | none => 0
  let ways := (List.range 20).filter (fun w => (owner s x.owner).l1ways.getLsbD w && !lost.getLsbD w)
  let here := keep.filter (fun l => l.owner == x.owner && l.at_ == x.at_ && l.line % 128 == x.line % 128 && !lost.getLsbD l.way)
  let x := { x with used := recency s policy }
  match ways.find? (fun w => !here.any (fun l => l.way == w)) with
  | some w => tick { s with l1 := keep ++ [{ x with way := w }] }
  | none =>
    match here.foldl (fun m l => match m with | none => some l | some y => if l.used < y.used then some l else some y) (none : Option CoreLine) with
    | none => s
    | some v => tick { s with l1 := keep.filter (fun l => l != v) ++ [{ x with way := v.way }] }

/-- A store updates a present line (R43), but no replica (R48). -/
def l1Update (s : State) (o core line : Nat) (mask : BitVec 128) (data : BitVec 1024) : State :=
  { s with l1 := s.l1.map (fun l =>
      if l.owner = o ∧ l.at_ = core ∧ l.line = line ∧ !l.replica then { l with data := mergeLine l.data data mask } else l) }

/-- Reads of a line, or of all lines, that are under way fill no L1 of the core: what they return may be older than the
write, the refresh or the bypassing read that comes now (R98, R101). -/
def noFill (s : State) (o core : Nat) (line : Option Nat) : State :=
  { s with reqs := mall s.reqs (fun _ r =>
      if r.owner = o ∧ 32 * r.die + r.core = core ∧ (line.isNone ∨ line = some r.line) then
        (match r.kind with | .read _ => { r with noL1 := true } | _ => r) else r) }

/-! Bytes of lanes. -/

def laneData (a : Access) (r : LaneReq) : List (BitVec 8) := bytesOf a.kind.bytes r.data.toNat

/-- The new value of an atomic's word (R276). -/
def atomicResult (op : Nat) (m x : BitVec 32) : BitVec 32 :=
  match op with
  | 0 => m + x
  | 1 => minSigned m x
  | 2 => maxSigned m x
  | 3 => m &&& x
  | 4 => m ||| x
  | 5 => m ^^^ x
  | 6 => x
  | _ => BitVec.ofNat 32 (fAdd fp32 0 m.toNat x.toNat).bits

/-- The bytes a lane's atomic or `vcas` writes on the old bytes; none where the comparison fails (R278). -/
def operateBytes (a : Access) (r : LaneReq) (old : List (BitVec 8)) : Option (List (BitVec 8)) :=
  match a.kind with
  | .atomic op _ => some (bytesOf 4 (atomicResult op (BitVec.ofNat 32 (numOf old)) (r.data.setWidth 32)).toNat)
  | .cas b => if numOf old = r.cmp.toNat % 2 ^ (8 * b) then some (bytesOf b r.data.toNat) else none
  | .store _ | .sstore _ => some (laneData a r)
  | .trace _ _ => some (traceCount old)
  | _ => none

def reqOf (a : Access) (lane : Nat) : LaneReq := (a.reqs.find? (fun r => r.lane == lane)).getD default

/-- A lane has its bytes. -/
def gather (a : Access) (lane : Nat) (xs : List (BitVec 8)) : Access := { a with got := a.got ++ [(lane, BitVec.ofNat 1024 (numOf xs))] }

def modAcc (s : State) (id : Nat) (f : Access → Access) : State := { s with accs := mmod s.accs id f }

/-! The end of an access. -/

/-- Writes of a load's lane (R267). -/
def loadWrites (a : Access) (signed : Bool) (b lane : Nat) (x : BitVec 1024) : List RegWrite :=
  match b with
  | 16 => wv128 a.dst lane (x.setWidth 128)
  | 8 => wv64 a.dst lane (x.setWidth 64)
  | 4 => wv a.dst lane (x.setWidth 32)
  | _ => wv a.dst lane (if signed then signLow (8 * b) (x.setWidth 32) else zeroLow (8 * b) (x.setWidth 32))

/-- The registers that an access writes, from the bytes gathered. -/
def accWrites (a : Access) : List RegWrite :=
  (a.got.filter (fun e => a.lanes.getLsbD e.1)).flatMap (fun e =>
    match a.kind with
    | .load sg b => loadWrites a sg b e.1 e.2
    | .atomic _ _ => wv a.dst e.1 (e.2.setWidth 32)
    | .cas b => if b = 8 then wv64 a.dst e.1 (e.2.setWidth 64) else wv a.dst e.1 (e.2.setWidth 32)
    | _ => [])

/-- A scalar result reaches its register, or its queue. (DEDUCED, log entry 21) -/
def giveLoaded (s : State) (a : Access) (turn : Nat) (x : BitVec 64) : State :=
  if a.lanes = 0 then s
  else if isQueue a.dst then
    modBlock s a.block (fun b => qPush b (a.dst - 56) (turn - 1) x)
  else postResult s ⟨a.g, turn, [.s (sregOf a.dst) x], 0, true, a.frag⟩

/-- The record that `seal` has read: 64-byte pieces in order. (DEDUCED, log entry 47; DEDUCED, log entry 106) -/
def sealed (a : Access) : BitVec 2048 :=
  BitVec.ofNat 2048 ((a.got.map (fun e => e.2.toNat % 2 ^ 512 * 2 ^ (512 * e.1))).sum)

/-- Everything an access waits for has come: its result lands in the first turn that begins at least 2 clocks later, for
`lds` 4 (R272, R274), and an acquire refreshes the L1 (R44). A group's seals take their entries in order (R298). -/
def finish (s : State) (id : Nat) : State :=
  let a := mget s.accs id
  let turn := (s.clock + (if a.spad then 4 else 2) + 7) / 8
  let s :=
    if !acquires a.order ∨ a.kind.latch ∨ a.kind.isBar then s
    else if a.scope ≥ 4 then postRefresh s a.holder (8 * turn)
    else postHold s a.holder (8 * turn)
  match a.kind with
  | .load _ _ | .atomic _ _ | .cas _ =>
    let ws := accWrites a
    let s := match a.window with
      | some p => modGroup s a.g (fun g => shadowWrite g ⟨p, turn, true, ws, []⟩)
      | none => if ws.isEmpty then s else postResult s ⟨a.g, turn, ws, 0, true, a.frag⟩
    dropAccess s id
  | .sload _ _ => dropAccess (giveLoaded s a turn ((a.got.head?.map (fun e => e.2.setWidth 64)).getD 0)) id
  | .sealRec refire =>
    if s.accs.any (fun e => e.1 < id && e.2.g == a.g && (match e.2.kind with | .sealRec _ => true | _ => false)) then
      post s (s.clock + 1) (.lspAccess id)
    else
    let (handle, s) := sealRecord s a.g refire ((reqOf a 0).va) (sealed a)
    dropAccess (giveLoaded s a turn (BitVec.ofNat 64 handle)) id
  | .lacq _ | .lrel | .lbind _ _ =>
    endLatch s id (match (a.got.head?.map (fun e => e.2.toNat)).getD 0 with | 0 => .done | 1 => .illegal | 2 => .queued | _ => .refused)
  | .bar op _ => endBar s id a op
  | .trace _ record => traceWrite s id a record
  | _ => dropAccess s id

/-- After a pass or a reply: the next pass, the end, or more waiting. -/
def proceed (s : State) (id : Nat) : State :=
  match mfind s.accs id with
  | none => s
  | some a =>
    if !a.checked then s
    else if !a.passes.isEmpty then postPass s id s.clock
    else if a.waiting ≠ 0 then s
    else if s.clock < a.avail then post s a.avail (.lspAccess id)
    else finish s id

/-! Scratchpad passes (R38, R39). -/

/-- An uncorrectable error in a scratchpad's bytes meets a reader (R54). -/
def spadStruck (b : Block) (off n : Nat) : Bool := b.spadBad.any (fun x => off ≤ x && x < off + n)

/-- One lane's scratchpad access. -/
def spadLane (s : State) (id lane : Nat) : State :=
  let a := mget s.accs id
  let r := reqOf a lane
  match spadTarget s a r with
  | none => s
  | some (b, off) =>
    let n := a.kind.bytes
    let old := spadTake (block s b) off n
    let read := match a.kind with | .store _ | .sstore _ => false | _ => true
    if read && spadStruck (block s b) off n then
      accFault s a ⟨.uncorrectable, 0, 0, r.va⟩
    else
      let s := if read then modAcc s id (fun a => gather a lane old) else s
      match operateBytes a r old with
      | none => s
      | some xs => modBlock s b (fun y => { spadPut y off xs with spadBad := y.spadBad.filter (fun x => x < off || off + n ≤ x) })

/-- A pass whose lanes reach a scratchpad. -/
def spadPass (s : State) (id : Nat) (a : Access) (lanes : List Nat) : State :=
  let away := (passPlace s a lanes).2.2
  let s := lanes.foldl (fun s l => spadLane s id l) s
  modAcc s id (fun a => { a with avail := max a.avail (s.clock + (if away then 24 else 0)) })

/-! Lines (R43, R70, R273, R277). -/

/-- The bytes a beat writes in one line, highest lane last (R97): mask, data and how many. -/
def mergeLanes (a : Access) (lanes : List Nat) : BitVec 128 × BitVec 1024 :=
  lanes.foldl (fun (m : BitVec 128 × BitVec 1024) l =>
    let r := reqOf a l
    let off := lanePa a r % 128
    let mask := byteMask off a.kind.bytes
    (m.1 ||| mask, mergeLine m.2 (BitVec.ofNat 1024 (numOf (laneData a r) * 2 ^ (8 * off))) mask)) (0, 0)

/-- Requests of lanes to spaces 1 to 5, which leave one by one (R10, R90, R108). -/
def externalLane (s : State) (id : Nat) (a : Access) (lane : Nat) : State :=
  let r := reqOf a lane
  let pa := lanePa a r
  let sp := spaceOf pa
  let wr := match a.kind with | .store _ | .sstore _ => some (laneData a r) | _ => none
  let at_ := match a.kind with
    | .atomic op _ => some (op, r.data.setWidth 64, (0 : BitVec 64))
    | .cas _ => some (8, r.data.setWidth 64, r.cmp)
    | _ => none
  let posted := wr.isSome && sp == 1
  let x : ExtReq := ⟨a.owner, sp, pa % 2 ^ 48, wr, at_, a.kind.bytes, if posted then .nobody else .acc id lane, posted⟩
  let s := { s with sent := x :: s.sent }
  if posted then s
  else modAcc (tick { s with exts := mset s.exts s.nextId x }) id (fun a => { a with waiting := a.waiting + 1 })

/-- An access to a host-coherent page of the host's memory takes an L2 position before it leaves, at the slice that its line falls
in on its own die (R69). (DESIGN CHOICE, log entry 123) -/
def awayReq (s : State) (id : Nat) (x : Xlat) (pa : Nat) (lanes : List Nat) : Req :=
  let a := mget s.accs id
  { (default : Req) with
    owner := a.owner, die := a.die, core := a.core, part := a.part, home := a.die, line := lineNo pa, agent := .acc id
    coil := a.coil, block := a.block, hc := x.hc, prot := x.prot, kind := .away lanes }

/-- Bytes of a line that some lanes of an access read. -/
def gatherLine (s : State) (id : Nat) (lanes : List Nat) (d : BitVec 1024) : State :=
  modAcc s id (fun a => lanes.foldl (fun a l => gather a l (lineBytes d (lanePa a (reqOf a l) % 128) a.kind.bytes)) a)

/-- An earlier load of the same threads is under way to a line: one that follows it takes no older copy (R98). -/
def loadBefore (s : State) (id : Nat) (a : Access) (line : Nat) : Bool :=
  s.reqs.any (fun q => q.2.line == line && (match q.2.agent with
    | .acc j => j < id && (match mfind s.accs j with | some b => b.kind.loads && ofThreads a.block a.tids b | none => false)
    | _ => false))

/-- An L1 gives threads the data of stores of others that have not been performed: a release of theirs carries them (R106). -/
def noteSeen (s : State) (a : Access) (lanes : List Nat) : State :=
  let spans := lanes.map (fun l => lanePa a (reqOf a l))
  let hits := s.accs.filter (fun e => e.2.owner == a.owner && e.2.coreKey == a.coreKey && !ofThreads a.block a.tids e.2 && e.2.coil == 0 &&
    (match e.2.kind with | .store _ | .sstore _ => true | _ => false) &&
    e.2.reqs.any (fun q => !e.2.spad && !inWindow q.va && !laneQueued e.2 q && laneOwed s e.1 e.2 9 a.die q &&
      spans.any (fun p => p < lanePa e.2 q + e.2.kind.bytes && lanePa e.2 q < p + a.kind.bytes)))
  if hits.isEmpty then s else { s with seen := hits.map (fun e => (a.block, a.tids, e.1)) ++ s.seen }

/-- A load's line: from the L1, or a request to the line's home or to the die's replica (R43, R47, R48). A read that passes the
L1 by leaves no older copy there (R98). (DEDUCED, log entry 39; DEDUCED, log entry 43) -/
def loadLine (s : State) (id : Nat) (a : Access) (x : Xlat) (lanes : List Nat) (q : Req) : State :=
  let bypass := a.policy == 3 || x.hc
  let rep := a.policy == 2 && x.rep && q.home != a.die
  let s := l1DropBad s a.owner a.coreKey q.line
  match (if bypass || loadBefore s id a q.line then none else l1Find s a.owner a.coreKey q.line rep) with
  | some l =>
    let s := { s with l1 := s.l1.map (fun y => if y = l then { y with used := recency s a.policy } else y) }
    noteSeen (gatherLine (modAcc (tick s) id (fun a => { a with avail := max a.avail s.clock })) id lanes l.data) a lanes
  | none =>
    let s := if bypass then l1Drop (noFill s a.owner a.coreKey (some q.line)) a.owner a.coreKey q.line else s
    modAcc (sendReq s { q with kind := .read lanes, rep := rep, home := if rep then a.die else q.home, noL1 := bypass } 2 s.clock) id
      (fun a => { a with waiting := a.waiting + 1 })

/-- A pass that names one line. -/
def linePass (s : State) (id : Nat) (a : Access) (lanes : List Nat) : State :=
  let r := reqOf a (lanes.head?.getD 0)
  let x := (xlatOf a.xlats r.va.toNat).getD default
  let pa := lanePa a r
  if spaceOf pa = 1 ∧ x.hc then modAcc (sendReq s (awayReq s id x pa lanes) 0 s.clock) id (fun a => { a with waiting := a.waiting + 1 })
  else if spaceOf pa ≠ 0 then
    let s := lanes.foldl (fun s l => externalLane s id a l) s
    if spaceOf pa = 1 then modAcc s id (fun a => { a with unperformed := a.unperformed - 1 }) else s
  else
    let core := a.coreKey
    let line := lineNo pa
    let q : Req := { (default : Req) with
      owner := a.owner, die := a.die, core := a.core, part := a.part, home := homeOf pa, line := line, gpa := gpaOf x r.va.toNat
      agent := .acc id, policy := a.policy, coil := a.coil, block := a.block, hc := x.hc, prot := x.prot }
    let go (s : State) (q : Req) (flits : Nat) : State := modAcc (sendReq s q flits s.clock) id (fun a => { a with waiting := a.waiting + 1 })
    match a.kind with
    | .load _ _ | .sload _ _ | .sealRec _ => loadLine s id a x lanes q
    | .arm =>
      let (w, s) := armLine s a pa
      sendReq s { q with kind := .arm w } 2 s.clock
    | .store _ | .sstore _ =>
      let (mask, data) := mergeLanes a lanes
      let s := noFill s a.owner core (some line)
      let s := if a.policy = 3 then l1Drop s a.owner core line else l1Update s a.owner core line mask data
      go s { q with kind := .write mask data } (4 + (popcount mask + 7) / 8)
    | _ =>
      let s := l1Drop (noFill s a.owner core (some line)) a.owner core line
      go s { q with kind := .operate lanes } 4

/-! The load-store position. -/

/-- An earlier access of the same threads that this one may not pass (R98, R100): one that has not taken its positions,
an atomic or a coil's write not yet performed, or a read under way where this one writes, to a line this one names. Of an
access without its translations the lines are known within a granule. (DEDUCED, log entry 39) -/
def mustFollow (s : State) (id : Nat) (a : Access) : Bool :=
  let place (f : LaneReq → Nat) (x : Access) : List Nat := x.reqs.map (fun r => match spadTarget s x r with
    | some (b, off) => 2 ^ 60 + 4096 * b + off / 128
    | none => f r)
  let lines (x : Access) : List Nat := place (fun r => lineNo (lanePa x r)) x
  let places : Access → List Nat := place (fun r => lineNo r.va.toNat % 512)
  s.accs.any (fun e => e.1 < id && ofThreads a.block a.tids e.2 &&
    (match e.2.kind with | .load _ _ | .store _ | .atomic _ _ | .cas _ | .sload _ _ | .sstore _ => true | _ => false) &&
    (if !e.2.checked then (places e.2).any (places a).contains
     else (!e.2.passes.isEmpty || (e.2.waiting != 0 && (e.2.kind.atomicLike || (a.kind.writes && !e.2.kind.writes))) ||
       (e.2.coil != 0 && e.2.unperformed != 0)) && (lines e.2).any (lines a).contains))

/-- An earlier access of the fragment to the same other core has passes left: one core serves them in issue order (R39). -/
def awayBehind (s : State) (id : Nat) (a : Access) (p : List Nat) : Bool :=
  let x := passPlace s a p
  x.2.2 && s.accs.any (fun e => e.1 < id && e.2.g == a.g && e.2.frag == a.frag && e.2.reqs.any (fun r => laneQueued e.2 r &&
    (match spadTarget s e.2 r with
     | some (b, _) => b != e.2.block && 32 * (block s b).die + (block s b).core == x.1
     | none => false)))

/-! Lines of engines, and accesses of the queue path (R121, R288, R303, R409). -/

/-- Byte runs of a mask: first byte and length. -/
def maskRuns : Nat → List Bool → List (Nat × Nat)
  | _, [] => []
  | i, m :: t =>
    match maskRuns (i + 1) t with
    | (j, n) :: r => if !m then (j, n) :: r else if j = i + 1 then (i, n + 1) :: r else (i, 1) :: (j, n) :: r
    | [] => if !m then [] else [(i, 1)]

/-- Bytes that a mask of bits touches, whether it covers them whole, and the bits merged under it (R301). -/
def bytesTouched (m : BitVec 1024) : BitVec 128 :=
  BitVec.ofNat 128 (((List.range 128).map (fun i => if ext m (8 * i) 8 = 0 then 0 else 2 ^ i)).sum)
def wholeBytes (m : BitVec 1024) : Bool := (List.range 128).all (fun i => ext m (8 * i) 8 == 0 || ext m (8 * i) 8 == 255)
def mergeMask (old new m : BitVec 1024) : BitVec 1024 := (old &&& ~~~m) ||| (new &&& m)
def touchedRuns (m : BitVec 1024) : List (Nat × Nat) := maskRuns 0 ((List.range 128).map (fun i => (bytesTouched m).getLsbD i))

/-- What such an access holds under a number: lines read by their lane, and at 8 and 9 the line to write and its bit mask. -/
def Access.piece (a : Access) (k : Nat) : BitVec 1024 := ((a.got.find? (fun e => e.1 == k)).map (·.2)).getD 0
def Access.has (a : Access) (k : Nat) : Bool := a.got.any (fun e => e.1 == k)

/-- A line has come for a lane. -/
def lineGot (s : State) (id lane : Nat) (x : BitVec 1024) : State :=
  let s := modAcc s id (fun a => { a with got := a.got ++ [(lane, x)] })
  wakeLine s (mget s.accs id)

/-- Its write is performed and acknowledged: it ends. A command of the queue path that has ended meanwhile is not woken. -/
def endLine (s : State) (id : Nat) : State :=
  let a := mget s.accs id
  let stale := match a.kind with | .queue key => (mget s.queues key).acc != some id | _ => false
  if stale then dropAccess s id else wakeLine (dropAccess s id) a

/-- Writes a line's bytes in a block's scratchpad, those under the mask. -/
def spadMerge (s : State) (b first : Nat) (data mask : BitVec 1024) : State :=
  let new := mergeMask (BitVec.ofNat 1024 (numOf (spadTake (block s b) first 128))) data mask
  (touchedRuns mask).foldl (fun s r => modBlock s b (fun y =>
    { spadPut y (first + r.1) (lineBytes new r.1 r.2) with spadBad := y.spadBad.filter (fun x => x < first + r.1 || first + r.1 + r.2 ≤ x) })) s

/-- A transfer's line in a scratchpad, at the end of its position; what another core's holds comes 24 clocks later (R303). -/
def spadLine (s : State) (id : Nat) (a : Access) (r : LaneReq) (b off : Nat) : State :=
  let first := off / 128 * 128
  if r.lane = 8 then endLine (spadMerge s b first (a.piece 8) (a.piece 9)) id
  else if spadStruck (block s b) first 128 then failLine s id (r.lane, .uncorrectable, 0)
  else
    let x := BitVec.ofNat 1024 (numOf (spadTake (block s b) first 128))
    if b = a.block then lineGot s id r.lane x
    else post (modAcc s id (fun a => { a with got := a.got ++ [(r.lane, x)] })) (s.clock + 24) (.lspAccess id)

/-- A request to another space (R10, R90). -/
def askSpace (s : State) (id : Nat) (a : Access) (pa lane n : Nat) (write : Option (List (BitVec 8))) : State :=
  let x : ExtReq := ⟨a.owner, spaceOf pa, pa % 2 ^ 48, write, none, n, .acc id lane, false⟩
  modAcc (tick { s with exts := mset s.exts s.nextId x, sent := x :: s.sent }) id (fun a => { a with waiting := a.waiting + 1 })

/-- A line of another space: the bytes named are read; what is written goes out run by run, and where a mask divides bytes they
are read first. A write to the host is posted (R69, R90, R301). -/
def extLine (s : State) (id : Nat) (a : Access) (r : LaneReq) (pa : Nat) : State :=
  let base := pa / 128 * 128
  if r.lane ≠ 8 then askSpace s id a (base + r.data.toNat) r.lane r.cmp.toNat none
  else
    let m := a.piece 9
    if !wholeBytes m && !a.has 0 then askSpace (modAcc s id (fun a => { a with passes := [[8]] })) id a base 0 128 none
    else
      let new := mergeMask (a.piece 0) (a.piece 8) m
      if spaceOf pa = 1 then
        endLine { s with sent := (touchedRuns m).reverse.map (fun x =>
          (⟨a.owner, 1, (base + x.1) % 2 ^ 48, some (lineBytes new x.1 x.2), none, x.2, .nobody, true⟩ : ExtReq)) ++ s.sent } id
      else (touchedRuns m).foldl (fun s x => askSpace s id a (base + x.1) 8 x.2 (some (lineBytes new x.1 x.2))) s

/-- Its request goes out: to a scratchpad, to its home, or to another space. A read comes after the accesses of the issuing
threads that precede the instruction, as a load of theirs would (R121). (DEDUCED, log entry 51) -/
def engineTurn (s : State) (id : Nat) (a : Access) (p : List Nat) (rest : List (List Nat)) : State :=
  let r := reqOf a (p.head?.getD 0)
  let held := r.lane != 8 && (match a.kind with | .line op _ => mustFollow s op { a with reqs := [r] } | _ => false)
  match spadTarget s a r with
  | some (b, off) => if held then postPass s id s.clock else spadLine (modAcc s id (fun a => { a with passes := rest })) id a r b off
  | none =>
    if held then post s (s.clock + 1) (.lspAccess id)
    else
      let x := (xlatOf a.xlats r.va.toNat).getD default
      let pa := paOf x r.va.toNat
      let s := modAcc s id (fun a => { a with passes := rest })
      let s := if rest.isEmpty then s else post s s.clock (.lspAccess id)
      let core := match a.kind with | .line _ _ => r.lane == 8 | _ => false
      let s := if core then l1Drop (noFill s a.owner a.coreKey (some (lineNo pa))) a.owner a.coreKey (lineNo pa) else s
      if spaceOf pa = 1 ∧ x.hc then
        modAcc (sendReq s (awayReq s id x pa [r.lane]) 0 s.clock) id (fun a => { a with waiting := a.waiting + 1 })
      else if spaceOf pa ≠ 0 then extLine s id a r pa
      else
        let q : Req := { (default : Req) with
          owner := a.owner, die := a.die, core := a.core, part := a.part, home := homeOf pa, line := lineNo pa, gpa := gpaOf x r.va.toNat
          agent := .acc id, policy := a.policy, coil := a.coil, block := a.block, hc := x.hc, prot := x.prot, noL1 := true }
        let m := a.piece 9
        let touched := bytesTouched m
        let s := if r.lane = 8 then
            sendReq s { q with kind := if wholeBytes m then .write touched (a.piece 8) else .bits m (a.piece 8) } (4 + (popcount touched + 7) / 8) s.clock
          else sendReq s { q with kind := .read [r.lane] } 2 s.clock
        modAcc s id (fun a => { a with waiting := a.waiting + 1 })

/-- The position's work: what must come first has, or the access takes the next position. (DEDUCED, log entry 39) -/
def lspTurn (s : State) (id : Nat) (a : Access) (p : List Nat) (rest : List (List Nat)) : State :=
  let wait := (match a.kind with
    | .lrel => owedRegion s a id
    | .bar 1 _ => owed s a.g a.block a.tids 4 id
    | _ => releases a.order && owed s a.g a.block a.tids a.scope id) || mustFollow s id a || traceBehind s a || awayBehind s id a p
  if wait then postPass s id s.clock
  else
    match a.kind with
    | .refresh =>
      let s := noFill (l1Refresh s a.owner a.coreKey) a.owner a.coreKey none
      if s.clock < a.avail then post (modAcc s id (fun a => { a with passes := [] })) a.avail (.lspAccess id) else dropAccess s id
    | .mig => startMig s id
    | .bar op x => barOperate s id a op x
    | .arm => dropAccess (linePass s id a p) id
    | _ =>
      let s := modAcc s id (fun a => { a with passes := rest })
      let first := reqOf a (p.head?.getD 0)
      proceed (if (spadTarget s a first).isSome || p.isEmpty then spadPass s id a p else linePass s id a p) id

/-- R38, R43: an access's pass or line in its position; with none left, its end. -/
def execLspAccess (id : Nat) (s : State) : Answer :=
  .next (match mfind s.accs id with
  | none => s
  | some a =>
    match a.passes with
    | [] => if a.kind.apart then wakeLine s a else if a.waiting = 0 then finish s id else s
    | p :: rest =>
      if a.transit then
        let s := modAcc s id (fun a => { a with transit := false })
        let (core, port, _) := passPlace s a p
        postLsp s a.owner core port s.clock (.lspAccess id)
      else if a.kind.apart then engineTurn s id a p rest
      else if vacant s a.owner 4 then post s (boundary s.clock) (.lspAccess id)
      else lspTurn s id a p rest)

/-! The channels in their positions (R61 to R63). -/

/-- A fill's read: both units are decoded, and the data is on its way (R63, R66). -/
def readChannel (s : State) (id : Nat) (r : ChanReq) : State :=
  let bad := badUnit s (2 * r.line) || badUnit s (2 * r.line + 1)
  let data := stackLine s r.owner r.line
  let s := noteDecode (noteDecode s (2 * r.line) r.owner false) (2 * r.line + 1) r.owner false
  post { s with channels := mset s.channels id { r with served := true, data := data, poisoned := bad } } (s.clock + 30) (.l2FillArrival id)

/-- R61: one position of the two channels of a slice, if the owner holds it. A write is performed within it (R63). -/
def execChannelAccess (die slice o : Nat) (s : State) : Answer :=
  .next (
    let v := s.clock / 48
    let i := s.clock % 48 / 3
    let q := chanQueue s o die slice
    let due (r : ChanReq) : Bool := bankGroup r.line == (i + v) % 8 && (match r.entered with | some t => decide (t ≤ s.clock) | none => false)
    let hit := if i < 15 ∧ (rota s o 9).getLsbD i then q.find? (fun e => due e.2) else none
    let s := match hit with
      | none => s
      | some (id, r) =>
        let s := if r.write then { writeVictim s r with channels := mdel s.channels id } else readChannel s id r
        match q.find? (fun e => e.2.entered.isNone) with
        | some (w, x) => { s with channels := mset s.channels w { x with entered := some (s.clock + 7) } }
        | none => s
    if (chanQueue s o die slice).isEmpty then s else watchChannel s o die slice (s.clock + 1))

/-! Replies. -/

/-- An inbound request is answered (R68): data, or a completion error. -/
def answerInbound (s : State) (id : Nat) (data : BitVec 512) (bad : Bool) : State :=
  { s with inbound := mdel s.inbound id, returned := s.returned ++ [(id, data, bad)] }

/-- The owner reads data that no code corrects: a fatal fault of the group that asked (R54). (DESIGN CHOICE, log entry 126) -/
def poisonFault (s : State) (id : Nat) : State :=
  let r := mget s.reqs id
  let s := { s with reqs := mdel s.reqs id }
  let acc (s : State) (i : Nat) : State :=
    let a := mget s.accs i
    if a.kind.apart then failLine s i ((match r.kind with | .read (l :: _) => l | _ => 8), .uncorrectable, 0) else
    let va := (match r.kind with | .read (l :: _) => (reqOf a l).va | .operate (l :: _) => (reqOf a l).va | _ => ((a.reqs.head?.map (·.va)).getD 0))
    accFault s a ⟨.uncorrectable, 0, 0, va⟩
  match r.agent with
  | .acc i => acc s i
  | .walk w => match (s.misses.find? (fun m => m.2.walk == some w)).bind (fun m => m.2.accs.head?) with
    | some i => acc s i
    | none => raiseFault s r.owner (reportBytes s r.owner ⟨.uncorrectable, 0, 0, 0⟩ 0 0 0 0 0 0 0 0 0) none none
  | .inbound i => answerInbound s i 0 true

/-- A remote line enters the requesting die's slice as a replica (R48). (DEDUCED, log entry 43; DEDUCED, log entry 65) -/
def putReplica (s : State) (r : Req) : State :=
  let a := match r.agent with | .acc i => mget s.accs i | _ => default
  let page := (a.xlats.find? (fun x => x.pa ≤ r.line * 128 && r.line * 128 < x.pa + x.size)).getD default
  let s := l2Fill (l2Allocate s r.owner r.die r.line 0 true r.hc r.prot false) r.owner r.die r.line true r.data false
  match l2Find s r.owner r.die r.line true with
  | some y => l2Put s { y with launch := a.launch, page := page }
  | none => s

/-- The line that a reply brings to the L1; data of a replica is marked so (R42, R48). (DEDUCED, log entry 43) -/
def l1Line (s : State) (i : Nat) (r : Req) : CoreLine :=
  let a := mget s.accs i
  { (default : CoreLine) with
    owner := r.owner, at_ := 32 * r.die + r.core, line := r.line, data := r.data, replica := r.rep, launch := a.launch
    page := (a.xlats.find? (fun x => x.pa ≤ r.line * 128 && r.line * 128 < x.pa + x.size)).getD default }

/-- A reply reaches its agent (R63, R272, R277). (DEDUCED, log entry 43) -/
def arrive (s : State) (id : Nat) : State :=
  match mfind s.reqs id with
  | none => s
  | some r =>
    let s := { s with reqs := mdel s.reqs id }
    match r.agent with
    | .walk w =>
      if (mfind s.walks w).isSome then
        post { s with walks := mmod s.walks w (fun x => { x with data := some r.data }) } s.clock (.walkReadReturn w)
      else s
    | .inbound i => answerInbound s i (BitVec.ofNat 512 (r.data.toNat / 2 ^ (8 * ((mget s.inbound i).gpa.toNat % 128)))) false
    | .acc i =>
      match mfind s.accs i with
      | none => s
      | some a =>
        if a.kind.apart then
          lineGot (modAcc s i (fun a => { a with waiting := a.waiting - 1 })) i (match r.kind with | .read (l :: _) => l | _ => 0) r.data
        else
        let s := match r.kind with
          | .read lanes =>
            let s := if r.rep && r.home != r.die then putReplica s r else s
            let s := if r.noL1 then s else l1Put s r.policy (l1Line s i r)
            gatherLine s i lanes r.data
          | _ => s
        proceed (modAcc s i (fun a => { a with waiting := a.waiting - 1, avail := max a.avail s.clock })) i

/-- R63: a reply on its own die. -/
def execLoadDataArrival (id : Nat) (s : State) : Answer := .next (arrive s id)

/-- The slice presents a reply: 10 clocks on its own die, a message to another (R72, R75, R272). -/
def reply (s : State) (id flits : Nat) : State :=
  let r := mget s.reqs id
  if r.home = r.die then post s (s.clock + 10) (.loadDataArrival id)
  else presentFrom s (sliceRank r.line) r.owner r.home r.die flits s.clock (.reply id)

/-- A write is acknowledged (R75). -/
def acknowledged (s : State) (id : Nat) : State :=
  match mfind s.reqs id with
  | none => s
  | some r =>
    let s := { s with reqs := mdel s.reqs id }
    match r.agent with
    | .acc i =>
      (match mfind s.accs i with
       | none => s
       | some a => if a.kind.apart then endLine s i else proceed (modAcc s i (fun a => { a with waiting := a.waiting - 1 })) i)
    | .inbound i => { s with inbound := mdel s.inbound i }
    | _ => s

/-! The slice (R45, R83). -/

/-- Place of a request's instruction in the coil order: the order of acceptance (R83). -/
def coilPlace (s : State) (r : Req) : Nat :=
  match r.agent with
  | .acc i => (match (mget s.accs i).kind with | .line op _ => op | _ => i)
  | _ => 0

/-- An earlier write of the coil has not been performed (R83). -/
def coilHeld (s : State) (id : Nat) (r : Req) : Bool :=
  let i := coilPlace s r
  r.coil != 0 && (match r.kind with | .read _ => false | _ => true) &&
  (s.reqs.any (fun e => e.2.coil == r.coil && e.2.block == r.block && !e.2.served && (match e.2.kind with | .read _ => false | _ => true) &&
     (let j := coilPlace s e.2; j < i || (j == i && e.1 < id))) ||
   s.accs.any (fun e => e.1 < i && !e.2.kind.apart && e.2.coil == r.coil && e.2.block == r.block && e.2.reqs.any (laneQueued e.2)) ||
   s.ops.any (fun e => e.1 < i && e.2.coil == r.coil && e.2.block == r.block && e.2.kind == .bcpy && e.2.nextWrite < e.2.left))

/-- An earlier posted write of the same port with Relaxed Ordering clear has not been performed (R109). -/
def inboundHeld (s : State) (r : Req) : Bool :=
  match r.agent with
  | .inbound i =>
    let x := mget s.inbound i
    x.write && !x.relaxed &&
    s.inbound.any (fun e => e.1 < i && e.2.owner == x.owner && e.2.port == x.port && e.2.write && !e.2.relaxed)
  | _ => false

/-- A clean line struck by an uncorrectable error is discarded and refetched; a host-coherent one is not clean (R54). (DEDUCED, log entry 109) -/
def dropBadLine (s : State) (o die line : Nat) (rep : Bool) : State :=
  match l2Find s o die line rep with
  | some l => if l.bad && l.dirty == 0 && !l.hc then correctionRecord (l2Drop s l) o else s
  | none => s

/-- The line whole at its home: it is touched and returned; a missing line is asked for, and the request waits. -/
def wholeLine (s : State) (id : Nat) (r : Req) : Option L2Line × State :=
  let s := dropBadLine s r.owner r.home r.line false
  match l2Find s r.owner r.home r.line false with
  | some l =>
    if l.valid = BitVec.allOnes 128 then (some l, tick (l2Put s { l with used := recency s r.policy }))
    else (none, { s with reqs := mset s.reqs id { r with again := true } })
  | none =>
    let s := l2Allocate s r.owner r.home r.line r.policy false r.hc r.prot true
    let own := match r.kind with | .read _ => true | _ => false
    (none, { s with reqs := mset s.reqs id { r with waitsFill := own, again := !own } })

/-- The bytes of its line that a read needs: those that it returns, where no L1, L0 or replica takes the line (R45). (DEDUCED, log entry 104) -/
def neededBytes (s : State) (r : Req) : BitVec 128 :=
  match r.kind, r.agent with
  | .read lanes, .acc i =>
    let a := mget s.accs i
    if a.kind.apart then
      lanes.foldl (fun m l => m ||| byteMask (reqOf a l).data.toNat (reqOf a l).cmp.toNat) 0
    else if r.noL1 && !r.rep && a.kind != .fetch then
      lanes.foldl (fun m l => m ||| byteMask (lanePa a (reqOf a l) % 128) a.kind.bytes) 0
    else BitVec.allOnes 128
  | .read _, .inbound i =>
    let x := mget s.inbound i
    byteMask (x.gpa.toNat % 128) (min x.bytes (128 - x.gpa.toNat % 128))
  | _, _ => BitVec.allOnes 128

/-- The line at its home with every byte that a read needs: it is touched and returned; else the read waits (R45). (DEDUCED, log entry 104) -/
def readableLine (s : State) (id : Nat) (r : Req) : Option L2Line × State :=
  match l2Find s r.owner r.home r.line false with
  | some l =>
    if l.valid &&& neededBytes s r = neededBytes s r && !(l.bad && l.dirty == 0 && !l.hc) then
      (some l, tick (l2Put s { l with used := recency s r.policy }))
    else wholeLine s id r
  | none => wholeLine s id r

/-- A read is served from a line. -/
def serveRead (s : State) (id : Nat) (l : L2Line) : State :=
  if l.poisoned then poisonFault s id
  else reply { s with reqs := mmod s.reqs id (fun r => { r with data := l.data, served := true }) } id 18

/-- One lane's atomic at its home (R276, R278). -/
def homeLane (s : State) (i lane : Nat) : State :=
  let a := mget s.accs i
  let r := reqOf a lane
  let x := (xlatOf a.xlats r.va.toNat).getD default
  let pa := lanePa a r
  let old := homeBytes s a.owner pa a.kind.bytes
  let s := modAcc s i (fun a => gather a lane old)
  match operateBytes a r old with
  | none => s
  | some xs => performBytes s a.owner pa (gpaOf x r.va.toNat) a.policy x.hc x.prot xs

/-- The operation of a request on its whole line. -/
def homeOperate (s : State) (id i : Nat) (lanes : List Nat) : State :=
  let a := mget s.accs i
  let s := { s with reqs := mmod s.reqs id (fun r => { r with again := false, waitsFill := false, served := true }) }
  if a.kind.latch then
    let r := reqOf a (lanes.head?.getD 0)
    let (e, s) := latchOperate s i a ((xlatOf a.xlats r.va.toNat).getD default) (lanePa a r)
    let s := modAcc s i (fun a => { a with got := [(0, BitVec.ofNat 1024 e.code)], unperformed := 0 })
    if e = .queued then { s with reqs := mdel s.reqs id } else reply s id 3
  else
    let s := lanes.foldl (fun s l => homeLane s i l) s
    reply (modAcc s i (fun a => { a with unperformed := a.unperformed - 1 })) id 3

/-- A write is performed at once; what it leaves of a new line is asked for (R45). -/
def homeWrite (s : State) (id : Nat) (r : Req) (mask : BitVec 128) (data : BitVec 1024) : State :=
  let s := dropBadLine s r.owner r.home r.line false
  let s := if (l2Find s r.owner r.home r.line false).isSome then s
    else l2Allocate s r.owner r.home r.line r.policy false r.hc r.prot (mask != BitVec.allOnes 128)
  let s := performWrite s r.owner (r.line * 128) (r.gpa / 128 * 128) r.policy r.hc r.prot mask data
  let s := match r.agent with
    | .acc i =>
      if (mfind s.accs i).isNone then s else
      let s := modAcc s i (fun a => { a with unperformed := a.unperformed - 1 })
      if r.home = r.die then s else wakeLine s (mget s.accs i)
    | .inbound i => { s with inbound := mdel s.inbound i }
    | _ => s
  let s := { s with reqs := mmod s.reqs id (fun r => { r with served := true }) }
  if r.home = r.die then acknowledged s id else presentFrom s (sliceRank r.line) r.owner r.home r.die 2 s.clock (.ack id)

/-- An access to the host's memory leaves its slice (R10, R69). (DESIGN CHOICE, log entry 123) -/
def leaveSlice (s : State) (id i : Nat) (r : Req) (lanes : List Nat) : State :=
  match mfind s.accs i with
  | none => { s with reqs := mdel s.reqs id }
  | some a =>
    let s := modAcc { s with reqs := mdel s.reqs id } i (fun a => { a with waiting := a.waiting - 1 })
    if a.kind.apart then
      let q := reqOf a (lanes.head?.getD 0)
      extLine s i a q (match xlatOf a.xlats q.va.toNat with | some x => paOf x q.va.toNat | none => r.line * 128)
    else
      let s := lanes.foldl (fun s l => externalLane s i a l) s
      proceed (modAcc s i (fun a => { a with unperformed := a.unperformed - 1 })) i

/-- One request is served in the owner's position of a slice (R45). -/
def serveReq (s : State) (id : Nat) (r : Req) : State :=
  match r.kind with
  | .arm w => installWatcher { s with reqs := mdel s.reqs id } w
  | .away lanes => (match r.agent with | .acc i => leaveSlice s id i r lanes | _ => s)
  | .write mask data => homeWrite s id r mask data
  | .bits mask data =>
    (match wholeLine s id r with
     | (some l, s) => homeWrite s id (mget s.reqs id) (bytesTouched mask) (mergeMask l.data data mask)
     | (none, s) => s)
  | .operate lanes =>
    (match r.agent, wholeLine s id r with
     | .acc i, (some l, s) => if l.poisoned then poisonFault s id else homeOperate s id i lanes
     | _, (_, s) => s)
  | .read _ =>
    if r.rep && r.home == r.die then
      let s := dropBadLine s r.owner r.die r.line true
      match l2Find s r.owner r.die r.line true with
      | some l => serveRead (tick (l2Put s { l with used := recency s 0 })) id l
      | none =>
        let home := homeOf (r.line * 128)
        presentFrom { s with reqs := mset s.reqs id { r with home := home, entered := none } } r.rank r.owner r.die home 2 s.clock (.request id)
    else match readableLine s id r with
      | (some l, s) => serveRead s id l
      | (none, s) => s

/-- A request in a stream that a position can serve: it waits for no fill, and for no earlier write of its coil or of its
inbound order (R45, R83, R109). -/
def eligible (s : State) (id : Nat) (r : Req) : Bool :=
  r.entered.isSome && !r.served && !r.waitsFill && !r.again && !coilHeld s id r && !inboundHeld s r

/-- The oldest that can be served of those of an owner at a slice. -/
def oldest (s : State) (o key : Nat) : Option (Nat × Req) :=
  (s.reqs.filter (fun e => e.2.owner == o && sliceKey e.2.home e.2.line == key && eligible s e.1 e.2)).foldl
    (fun m e => match m with | none => some e | some x => if e.2.entered.getD 0 < x.2.entered.getD 0 then some e else some x) none

/-- R45, R75: a local request enters its slice's stream; or, in a position that a request of the stream has taken, the oldest
that can be served is, and where that is another the request takes its position in turn. -/
def execL2Access (id : Nat) (s : State) : Answer :=
  .next (match mfind s.reqs id with
  | none => s
  | some r =>
    if r.entered.isNone then enterStream s id
    else if vacant s r.owner 7 then post s (boundary s.clock) (.l2Access id)
    else match oldest s r.owner (sliceKey r.home r.line) with
      | none => if r.served || r.waitsFill || r.again then s else postClaim s r.owner 7 (sliceKey r.home r.line) s.clock (.l2Access id)
      | some (j, q) =>
        if j = id then serveReq s id r
        else
          let s := { s with agenda := s.agenda.map (fun e => if e.2 = .l2Access j then (e.1, .l2Access id) else e) }
          serveReq s j q)

/-- R63: fill data reaches the slice: the line is whole, the read that asked is answered, and the requests that wait are
served in positions (R45). -/
def execL2FillArrival (c : Nat) (s : State) : Answer :=
  .next (match mfind s.channels c with
  | none => s
  | some r =>
    let s := { s with channels := mdel s.channels c }
    let data := mergeLine r.data r.kept r.mask
    let bad := r.poisoned && r.mask != BitVec.allOnes 128
    let s := l2Fill s r.owner r.die r.line false data bad
    let mine := sortBy (fun a b => a.2.entered.getD 0 ≤ b.2.entered.getD 0)
      (s.reqs.filter (fun e => e.2.owner == r.owner && e.2.home == r.die && e.2.line == r.line && (e.2.waitsFill || e.2.again)))
    mine.foldl (fun s e =>
      let s := { s with reqs := mset s.reqs e.1 { e.2 with waitsFill := false, again := false } }
      if e.2.waitsFill then
        serveRead s e.1 ((l2Find s r.owner r.die r.line false).getD { (default : L2Line) with data := data, poisoned := bad })
      else postClaim s r.owner 7 (sliceKey r.die r.line) s.clock (.l2Access e.1)) s)

/-! Messages (R73 to R75). -/

/-- A landing request of the same clock that comes later: of a higher source die, core or slot (R85). -/
def laterLanding (s : State) (m : Nat) : Instr → Bool
  | .landingRequestArrival n =>
    let k (i : Nat) : Nat := (mget s.migs i).g
    decide (k m < k n)
  | _ => false

/-- R73: a message arrives. -/
def execCircuitMessageArrival (m : Nat) (s : State) : Answer :=
  .next (match mfind s.messages m with
  | none => s
  | some x =>
    let s := { s with messages := mdel s.messages m }
    match x.payload with
    | .request id => if (mfind s.reqs id).isSome then enterStream s id else s
    | .reply id => arrive s id
    | .ack id => acknowledged s id
    | .fire g code => post s s.clock (.monitorWake g code)
    | .latchGrant acc => post s s.clock (.latchGrant acc)
    | .landRequest n => { s with agenda := insertBefore (laterLanding s n) s.agenda s.clock (.landingRequestArrival n) }
    | .landGrant n => post s s.clock (.landingGrantArrival n)
    | .groupState n => post s s.clock (.migrationStateArrival n))

end Sys2Proof.Machine
end

