-- ==== Sys2Proof/Machine/Memory.lean ====
section
/-! DEFINITION. The memory, atomic and synchronisation instructions at issue (R266 to R285). -/

namespace Sys2Proof.Machine

/-- An access of the executing instruction: its place, its modifiers (R208) and its lanes' requests. -/
def accessOf (c : Ctx) (kind : AccKind) (dst dflt : Nat) (lanes : BitVec 32) (reqs : List LaneReq) : Access :=
  { (default : Access) with
    g := c.k, block := c.g.block, frag := c.f.id, lanes := lanes, tids := tidsOf c.g lanes, pc := c.pc, owner := c.o, launch := c.g.launch, die := dieOf c.k
    core := coreOf c.k, part := partOf c.k, kind := kind, reqs := reqs, dst := dst, order := orderOf c
    scope := scopeOf c dflt, coil := coilOf c, policy := policyOf c
    window := if c.window then c.g.window.map (fun w => w.pcs.length) else none }

/-- A coil-tagged write counts one class X operation, on an open coil (R83, R84, R118). -/
def tagAccess (s : State) (c : Ctx) (a : Access) : Except Trap State :=
  if a.coil = 0 then beginAccess s a
  else if c.g.migrated then .error ⟨.migratedAccess, 0, 0, 0⟩
  else if (coilDie (block s c.g.block) a.coil).isNone then .error ⟨.illegalOp, 0, 0, 0⟩
  else
    let op : EngOp := { (default : EngOp) with
      cls := 1, kind := .tagged (s.nextId + 1), g := c.k, block := c.g.block, launch := c.g.launch, owner := c.o
      die := a.die, core := a.core, part := a.part, frag := a.frag, pc := a.pc, coil := a.coil }
    let id := s.nextId
    let s := tick { s with ops := mset s.ops id op }
    beginAccess (modGroup s c.k (fun g => countOp g 1 id)) { a with op := some id }

/-- Bits of a lane's register, pair or quad. -/
def laneBits (g : Group) (r n l : Nat) : BitVec 128 :=
  match n with
  | 16 => rv64 g (r + 2) l ++ rv64 g r l
  | 8 => (rv64 g r l).setWidth 128
  | _ => (rv g r l).setWidth 128

/-! Vector loads and stores (R271 to R274). -/

/-- Requests of the participating lanes, their addresses and data given. -/
def laneReqs (c : Ctx) (va : Nat → BitVec 64) (data : Nat → BitVec 128) (cmp : Nat → BitVec 64) : List LaneReq :=
  (lanesOf c.lanes).map (fun l => ⟨l, va l, data l, cmp l⟩)

def loadKind (z : Nat) : AccKind := .load (z == 1 || z == 3) (sizeBytes z)

def vectorLoad (i : Instr) (h : Hdr) (z w b a : Nat) (s : State) : State :=
  plain i h s (fun c s => beginAccess s (accessOf c (loadKind z) a 5 c.lanes (laneReqs c (laneAddr c w b) (fun _ => 0) (fun _ => 0))))

def vectorStore (i : Instr) (h : Hdr) (z w b a : Nat) (s : State) : State :=
  plain i h s (fun c s =>
    tagAccess s c (accessOf c (.store (sizeBytes z)) 0 5 c.lanes (laneReqs c (laneAddr c w b) (laneBits c.g a (sizeBytes z)) (fun _ => 0))))

def execVld (h : Hdr) (z w : BitVec 3) (b a : BitVec 6) (s : State) : Answer :=
  .next (vectorLoad (.vld h z w b a) h z.toNat w.toNat b.toNat a.toNat s)
def execVst (h : Hdr) (z w : BitVec 3) (b a : BitVec 6) (s : State) : Answer :=
  .next (vectorStore (.vst h z w b a) h z.toNat w.toNat b.toNat a.toNat s)
/-- R209, R273: the 16-bit forms, with base s0. -/
def execVldB3216 (b : BitVec 5) (a : BitVec 6) (s : State) : Answer :=
  .next (vectorLoad (.vldB3216 b a) (shortHdr 0) 4 0 b.toNat a.toNat s)
def execVstB3216 (b : BitVec 5) (a : BitVec 6) (s : State) : Answer :=
  .next (vectorStore (.vstB3216 b a) (shortHdr 0) 4 0 b.toNat a.toNat s)

/-- R274. -/
def spadAccess (c : Ctx) (kind : AccKind) (dst : Nat) (reqs : List LaneReq) (s : State) : Except Trap State :=
  if c.g.migrated then .error ⟨.migratedAccess, 0, 0, 0⟩
  else beginAccess s { accessOf c kind dst 2 c.lanes reqs with spad := true }

def execLds (h : Hdr) (z w : BitVec 3) (b a : BitVec 6) (s : State) : Answer :=
  .next (plain (.lds h z w b a) h s (fun c s =>
    spadAccess c (loadKind z.toNat) a.toNat
      (laneReqs c (fun l => BitVec.ofNat 64 (laneOff c w.toNat b.toNat l)) (fun _ => 0) (fun _ => 0)) s))
def execSts (h : Hdr) (z w : BitVec 3) (b a : BitVec 6) (s : State) : Answer :=
  .next (plain (.sts h z w b a) h s (fun c s =>
    spadAccess c (.store (sizeBytes z.toNat)) 0
      (laneReqs c (fun l => BitVec.ofNat 64 (laneOff c w.toNat b.toNat l)) (laneBits c.g a.toNat (sizeBytes z.toNat)) (fun _ => 0)) s))

/-! Scalar loads and stores (R275). -/

/-- The one request of a uniform access, which belongs to every thread of the fragment. -/
def oneReq (c : Ctx) (va : BitVec 64) (data : BitVec 64) : List LaneReq := [⟨(lanesOf c.f.mask).head?.getD 0, va, data.setWidth 128, 0⟩]

def execSld (h : Hdr) (f b a : BitVec 6) (s : State) : Answer :=
  .next (plain (.sld h f b a) h s (fun c s =>
    let (x, s) := takeScalar s c (numN c.x.hb b.toNat)
    beginAccess s (accessOf c (.sload false 8) (numN c.x.ha a.toNat) 5 c.f.mask (oneReq c (x + BitVec.ofNat 64 (8 * f.toNat)) 0))))
def execSst (h : Hdr) (f b a : BitVec 6) (s : State) : Answer :=
  .next (plain (.sst h f b a) h s (fun c s =>
    let (x, s) := takeScalar s c (numN c.x.hb b.toNat)
    let (y, s) := takeScalar s c (numN c.x.ha a.toNat)
    tagAccess s c (accessOf c (.sstore 8) 0 5 c.f.mask (oneReq c (x + BitVec.ofNat 64 (8 * f.toNat)) y))))

/-! Atomics (R276 to R278). -/

def execVatom (h : Hdr) (z w : BitVec 3) (b a : BitVec 6) (s : State) : Answer :=
  .next (plain (.vatom h z w b a) h s (fun c s =>
    tagAccess s c (accessOf c (.atomic z.toNat 4) a.toNat 5 c.lanes
      (laneReqs c (laneAddr c w.toNat b.toNat) (laneBits c.g a.toNat 4) (fun _ => 0)))))
def execVcas (h : Hdr) (z w : BitVec 3) (b a : BitVec 6) (s : State) : Answer :=
  .next (plain (.vcas h z w b a) h s (fun c s =>
    let n := if z.toNat = 5 then 8 else 4
    let r := a.toNat
    tagAccess s c (accessOf c (.cas n) r 5 c.lanes
      (laneReqs c (laneAddr c w.toNat b.toNat) (fun l => if n = 8 then laneBits c.g (r + 2) 8 l else laneBits c.g (r + 1) 4 l)
        (fun l => if n = 8 then rv64 c.g r l else (rv c.g r l).setWidth 64)))))

/-! Fences (R105, R107, R279). -/

def execFence (h : Hdr) (k : BitVec 2) (q : BitVec 4) (s : State) : Answer :=
  .next (plain (.fence h k q) h s (fun c s =>
    if !fenceDone s c.k k.toNat q.toNat c.lanes then
      .ok (modGroup s c.k (fun g => modFrag g c.f.id (fun f => { f with status := .fence k.toNat q.toNat c.lanes })))
    else if fenceRefreshes k.toNat q.toNat then .ok (beginRefresh s c.k c.f.id c.lanes)
    else .ok s))

/-! Latches (R280, R281). -/

/-- The fragment waits for the access that begins now. (DEDUCED, log entry 38) -/
def parkOn (s : State) (c : Ctx) (a : Access) : Except Trap State :=
  let id := s.nextId
  (beginAccess s a).map (fun s => modGroup s c.k (fun g => modFrag g c.f.id (fun f => { f with status := .mem id })))

/-- A region that `lbind` accepts for a latch at an address (R116). -/
def regionOk (va base len : BitVec 64) : Bool :=
  base.toNat % 128 == 0 && len.toNat % 128 == 0 && len != 0 && len.toNat ≤ 2 ^ 32 &&
  sameHalf base.toNat (base.toNat + len.toNat - 1) && 0x400000 ≤ base.toNat &&
  !(base.toNat ≤ va.toNat && va.toNat + 32 ≤ base.toNat + len.toNat)

def execLbind (h : Hdr) (q b a : BitVec 6) (s : State) : Answer :=
  .next (plain (.lbind h q b a) h s (fun c s =>
    let (base, s) := takeScalar s c (numN c.x.hb b.toNat)
    let (len, s) := takeScalar s c (numN c.x.hc q.toNat)
    let (va, s) := takeScalar s c (numN c.x.ha a.toNat)
    if canonical va ∧ va.toNat % 32 = 0 ∧ !regionOk va base len then .error ⟨.illegalOp, 0, 0, 0⟩
    else parkOn s c (accessOf c (.lbind base len) 0 5 c.f.mask (oneReq c va 0))))
/-- DEDUCED, log entry 38. -/
def execLacq (h : Hdr) (t : BitVec 1) (q : BitVec 4) (b : BitVec 6) (s : State) : Answer :=
  .next (plain (.lacq h t q b) h s (fun c s =>
    let (va, s) := takeScalar s c (numN c.x.hb b.toNat)
    parkOn s c { accessOf c (.lacq (t == 1)) 0 5 c.f.mask (oneReq c va 0) with order := 1, scope := q.toNat }))
def execLrel (h : Hdr) (q : BitVec 4) (b : BitVec 6) (s : State) : Answer :=
  .next (plain (.lrel h q b) h s (fun c s =>
    let (va, s) := takeScalar s c (numN c.x.hb b.toNat)
    parkOn s c { accessOf c .lrel 0 5 c.f.mask (oneReq c va 0) with scope := q.toNat }))

/-! Barrier objects (R125, R282). -/

/-- The checks of a `bar` operation that its operands decide, then its access. `bar.test` alone lets the fragment go on, as
what may be an acquire (R127). -/
def barOp (c : Ctx) (op : Nat) (va x : BitVec 64) (s : State) : Except Trap State :=
  let lane := (lanesOf c.f.mask).head?.getD 0
  if c.g.migrated then .error ⟨.migratedAccess, 0, 0, 0⟩
  else if !canonical va then .error (faultTrap false lane 1 va (wf 1 0 0 0))
  else if va.toNat % 16 ≠ 0 then .error ⟨.misaligned, 0, detailWord false lane 1 0 0 0 0 0, va⟩
  else if !inWindow va then .error ⟨.illegalOp, 0, 0, 0⟩
  else if op = 0 ∧ (x = 0 ∨ 4095 < x.toNat) then .error ⟨.illegalOp, 0, 0, 0⟩
  else if op = 4 ∧ traceMisaligned s c.k then .error ⟨.misaligned, 0, detailWord false lane 1 0 0 0 0 0, (launch s c.g.launch).arg⟩
  else
    let a := { accessOf c (.bar op x) 0 2 c.f.mask (oneReq c va 0) with order := if op = 5 then 1 else 0, coil := 0, policy := 0 }
    if op = 5 then beginAccess s a else parkOn s c a

/-- A `bar` operation with an operand: sB, then sA. -/
def barTwo (i : Instr) (h : Hdr) (op : Nat) (b a : BitVec 6) (s : State) : State :=
  plain i h s (fun c s =>
    let (va, s) := takeScalar s c (numN c.x.hb b.toNat)
    let (x, s) := takeScalar s c (numN c.x.ha a.toNat)
    barOp c op va x s)

def execBarInit (h : Hdr) (b a : BitVec 6) (s : State) : Answer := .next (barTwo (.barInit h b a) h 0 b a s)
def execBarArrive (h : Hdr) (b : BitVec 6) (s : State) : Answer :=
  .next (plain (.barArrive h b) h s (fun c s =>
    let (va, s) := takeScalar s c (numN c.x.hb b.toNat)
    barOp c 1 va (BitVec.ofNat 64 (popcount c.f.mask)) s))
def execBarExpin (h : Hdr) (b a : BitVec 6) (s : State) : Answer := .next (barTwo (.barExpin h b a) h 2 b a s)
def execBarExpout (h : Hdr) (b a : BitVec 6) (s : State) : Answer := .next (barTwo (.barExpout h b a) h 3 b a s)
def execBarWait (h : Hdr) (b a : BitVec 6) (s : State) : Answer := .next (barTwo (.barWait h b a) h 4 b a s)
def execBarTest (h : Hdr) (b a : BitVec 6) (s : State) : Answer := .next (barTwo (.barTest h b a) h 5 b a s)

/-! Monitors (R129 to R131, R284). -/

def execMonArm (h : Hdr) (b : BitVec 6) (s : State) : Answer :=
  .next (plain (.monArm h b) h s (fun c s =>
    let (va, s) := takeScalar s c (numN c.x.hb b.toNat)
    let a := { accessOf c .arm 0 5 c.f.mask (oneReq c va 0) with order := 0, coil := 0, policy := 0 }
    beginAccess s a))

/-- DEDUCED, log entry 45. -/
def execMonWait (h : Hdr) (a : BitVec 6) (s : State) : Answer :=
  .next (plain (.monWait h a) h s (fun c s =>
    let (x, s) := takeScalar s c (numN c.x.ha a.toNat)
    match monCode s c.k 0 with
    | some code => .ok (modGroup (disarmAll s c.k) c.k (fun g => { g with fired := none, monwhy := BitVec.ofNat 64 code }))
    | none =>
      let limit := if x = 0 then 0 else ocyc s c.o + x.toNat
      let s := if x = 0 then s else post s (s.clock + x.toNat) (.monWaitTimeout c.k c.f.id)
      .ok (modGroup s c.k (fun g => modFrag g c.f.id (fun f => { f with status := .monWait limit })))))

def execMonClr (h : Hdr) (s : State) : Answer :=
  .next (plain (.monClr h) h s (fun c s =>
    .ok (if monParked c.g then wakeMon s c.k 4 else modGroup (disarmAll s c.k) c.k (fun g => { g with fired := none }))))

/-! Engine counters (R120, R285, R320). -/

/-- On class F a pending REFIRE_EXIT is raised; else the fragment waits for the counter. (DEDUCED, log entry 58) -/
def execWaitc (h : Hdr) (n : BitVec 12) (q : BitVec 2) (s : State) : Answer :=
  .next (let c := ctx s
    let popped (s : State) : State := match c.g.exits with
      | _ :: rest => if q.toNat = 3 ∧ gate (.waitc h n q) h s c = .go ∧ acts (.waitc h n q) h c ∧ !c.window then
          modGroup s c.k (fun g => { g with exits := rest }) else s
      | [] => s
    let exits := c.g.exits
    plain (.waitc h n q) h (popped s) (fun c s =>
      match q.toNat, exits with
      | 3, info :: _ => .error ⟨.refireExit, info, 0, 0⟩
      | cls, _ => .ok (if counter c.g cls ≤ n.toNat then s
          else modGroup s c.k (fun g => modFrag g c.f.id (fun f => { f with status := .classWait cls n.toNat c.pc })))))

/-! `seal` (R298). -/

def sealOp (i : Instr) (h : Hdr) (refire : Bool) (b a : BitVec 6) (s : State) : State :=
  plain i h s (fun c s =>
    let (va, s) := takeScalar s c (numN c.x.hb b.toNat)
    if c.g.migrated then .error ⟨.migratedAccess, 0, 0, 0⟩
    else
      let reqs := (List.range (if refire then 4 else 1)).map (fun j => (⟨j, va + BitVec.ofNat 64 (64 * j), 0, 0⟩ : LaneReq))
      beginAccess s (accessOf c (.sealRec refire) (numN c.x.ha a.toNat) 5 c.f.mask reqs))

/-- DEDUCED, log entry 47. -/
def execSealTensor (h : Hdr) (b a : BitVec 6) (s : State) : Answer := .next (sealOp (.sealTensor h b a) h false b a s)
/-- DEDUCED, log entry 47. -/
def execSealRefire (h : Hdr) (b a : BitVec 6) (s : State) : Answer := .next (sealOp (.sealRefire h b a) h true b a s)

end Sys2Proof.Machine
end

