-- ==== Sys2Proof/Machine/Engine.lean ====
section
/-! DEFINITION. The copy engines: `cpy` and `bcpy` from issue to their last write (R89, R126, R287 to R291, R340), and the
coils with their drains (R82 to R84, R292). -/

namespace Sys2Proof.Machine

/-! Lines (R121, R122). -/

def modOp (s : State) (id : Nat) (f : EngOp → EngOp) : State := { s with ops := mmod s.ops id f }

/-- The accesses that carry a line of an operation, or all of its lines, in the order of their reads. -/
def lineAccs (s : State) (id i : Nat) : List (Nat × Access) := s.accs.filter (fun e => e.2.kind == .line id i)
def opAccs (s : State) (id : Nat) : List (Nat × Access) := s.accs.filter (fun e => e.2.kind.lineOf id)

/-- An access for a line of an operation, whose request goes out no earlier than a clock. (DEDUCED, log entry 13) -/
def lineAccess (s : State) (op : EngOp) (id i : Nat) (reqs : List LaneReq) (at_ : Nat) (copy : Bool) : Access :=
  lineOpen s { (default : Access) with
    g := op.g, block := op.block, frag := op.frag, tids := op.tids, pc := op.pc, owner := op.owner, launch := op.launch, die := op.die
    core := op.core, part := op.part, kind := .line id i, reqs := reqs, coil := op.coil, policy := op.policy, avail := at_ } copy

/-- A read of `n` bytes of a line from an address on, by a lane. (DEDUCED, log entry 13) -/
def readReq (lane : Nat) (va : BitVec 64) (first n : Nat) : LaneReq := ⟨lane, va, BitVec.ofNat 128 first, BitVec.ofNat 64 n⟩

/-- An access takes its place, and its granules are looked up now (R411). (DEDUCED, log entry 13) -/
def openLine (s : State) (a : Access) : State := lookLine (tick { s with accs := mset s.accs s.nextId a }) s.nextId

/-- The fault of an engine operation: nothing more of it is read or written (R340). (DEDUCED, log entry 51) -/
def engineFault (s : State) (id : Nat) (t : Trap) : State :=
  let op := mget s.ops id
  let bytes := if op.kind = .bcpy ∧ t.cause.addressed then op.bytes else 0
  let extra := BitVec.ofNat 64 bytes
  let s := if stillOf s op.g op.launch op.block then groupFault s op.g op.frag t op.pc extra true
    else orphanFault s op.owner op.launch op.block op.g 0 t op.pc extra
  modOp { s with accs := s.accs.filter (fun e => !(e.2.kind.lineOf id && e.2.unperformed == 0)) } id (fun o =>
    { o with left := o.nextWrite, nextRead := o.nextWrite, half := 0, lines := [], pend := [], started := false, dead := true })

/-- The trap of a line that has failed. A coil's fault names the line (R84). -/
def lineTrap (a : Access) : Option Trap :=
  a.faults.head?.map (fun f =>
    let va := ((a.reqs.find? (fun r => r.lane == f.1)).map (·.va)).getD 0
    ⟨f.2.1, 0, f.2.2, match f.2.1 with | .coilHome => BitVec.ofNat 64 (va.toNat / 128 * 128) | .uncorrectable => 0 | _ => va⟩)

/-! The engine's positions (R288). -/

/-- Line `i` of a `bcpy`: its destination bytes, in one piece for each source line (R290). -/
def bulkLine (op : EngOp) (i : Nat) : LineOp :=
  let base := (op.dst.toNat / 128 + i) * 128
  let d := max base op.dst.toNat
  let e := min (base + 128) (op.dst.toNat + op.len)
  let src := op.src.toNat + (d - op.dst.toNat)
  let n := min (e - d) (128 - src % 128)
  let piece (d' s' n : Nat) : BitVec 64 × BitVec 64 × Nat := (BitVec.ofNat 64 d', BitVec.ofNat 64 s', n)
  let copies := piece d src n :: (if d + n < e then [piece (d + n) (src + n) (e - d - n)] else [])
  ⟨copies.map (fun _ => 0), copies⟩

/-- Line writes of a `bcpy`. -/
def bulkLines (dst : BitVec 64) (len : Nat) : Nat := (dst.toNat + len - 1) / 128 + 1 - dst.toNat / 128

/-- Line `i` of a copy. -/
def lineAt (op : EngOp) (i : Nat) : LineOp := if op.kind = .bcpy then bulkLine op i else op.lines.getD (i - op.nextWrite) default

/-- Its pieces: the copies of one source line each. -/
def piecesOf (op : EngOp) (i : Nat) : List LineOp :=
  let l := lineAt op i
  if op.kind = .bcpy then l.copies.map (fun c => ⟨[0], [c]⟩) else [l]

/-- Oldest operation of a kind, for an owner on a core, that has a line to read. A `bcpy` whose owner is being saved
begins no further line (R291), and an operation of which a line has failed none. -/
def oldestCopy (s : State) (o core : Nat) (kind : OpKind) : Option Nat :=
  (s.ops.find? (fun e => e.2.owner == o && 32 * e.2.die + e.2.core == core && e.2.kind == kind && e.2.nextRead < e.2.left && !e.2.dead &&
    !(kind == .bcpy && (owner s o).saving && e.2.half == 0) && !(opAccs s e.1).any (fun a => !a.2.faults.isEmpty))).map (·.1)

/-- A line whose write has been presented is in flight until it is performed, that of a `bcpy` until it is acknowledged. -/
def lineLeft (op : EngOp) (a : Access) : Bool := op.kind == .bcpy || a.unperformed != 0

/-- Line operations in flight in a core's engine. -/
def copiesInFlight (s : State) (o core : Nat) : Nat :=
  (s.ops.map (fun e => if e.2.owner = o ∧ 32 * e.2.die + e.2.core = core ∧ (e.2.kind = .cpy ∨ e.2.kind = .bcpy)
    then e.2.nextRead + min 1 e.2.half - e.2.nextWrite +
      (s.accs.filter (fun a => match a.2.kind with | .line p i => p == e.1 && i < e.2.nextWrite && lineLeft e.2 a.2 | _ => false)).length
    else 0)).sum

/-- Where the engine's last turn of an episode is kept: 1 class C, 2 class X, 0 no episode. -/
def episodeKey (o core : Nat) : Nat := claimKey o 6 (1024 + core)

/-- The operation that the position at this clock serves, and the episode's state after it. -/
def copyPick (s : State) (o core : Nat) : Option (Nat × Nat) :=
  let full := 16 ≤ copiesInFlight s o core
  let last := mget s.claims (claimKey o 6 core)
  let turn := if nextPos s o 6 last = nextPos s o 6 s.clock then mget s.claims (episodeKey o core) else 0
  let may (k : OpKind) : Option Nat := (oldestCopy s o core k).bind (fun id => if full ∧ (mget s.ops id).half = 0 then none else some id)
  match may .cpy, may .bcpy with
  | none, none => none
  | some c, none => some (c, 0)
  | none, some x => some (x, 0)
  | some c, some x => if turn = 1 then some (x, 2) else some (c, 1)

/-- The event of an operation's line. -/
def copyEvent (s : State) (id : Nat) : Instr := if (mget s.ops id).kind = .bcpy then .bcpyLineRead id else .cpyLineRead id

/-- The engine's next position is watched while a line waits. -/
def watchCopy (s : State) (o core : Nat) : State :=
  let here (id : Nat) : Bool := (mget s.ops id).owner == o && 32 * (mget s.ops id).die + (mget s.ops id).core == core
  if s.agenda.any (fun e => match e.2 with | .cpyLineRead id | .bcpyLineRead id => here id | _ => false) then s
  else match copyPick s o core with
    | none => s
    | some (id, _) => post s (claimAt s o 6 core s.clock) (copyEvent s id)

/-! Reads. -/

/-- Adjusts the barrier object of a `cpy` for the copies of a line whose address on side `f` lies in the object's
scratchpad (R126): inbound for a write, outbound for a read. -/
def countDown (s : State) (op : EngOp) (l : LineOp) (inbound : Bool) : State :=
  if op.cpybar = 0 then s
  else match windowTarget s op.block op.cpybar with
    | none => s
    | some (b, off) =>
      let at_ (c : BitVec 64 × BitVec 64 × Nat) : BitVec 64 := if inbound then c.1 else c.2.1
      let n := (l.copies.map (fun c =>
        if inWindow (at_ c) && (windowTarget s op.block (at_ c)).map (·.1) == some b then c.2.2 else 0)).sum
      if n = 0 then s
      else
        let x := barAt s b off
        let d : BitVec 32 := BitVec.ofNat 32 n
        putBar s b off (if inbound then { x with inbound := x.inbound - d } else { x with outbound := x.outbound - d })

/-- First byte, in its line, and length of what a piece reads. -/
def spanOf (l : LineOp) : Nat × Nat :=
  let lo := (l.copies.map (fun c => c.2.1.toNat)).foldl min (2 ^ 64)
  let hi := (l.copies.map (fun c => c.2.1.toNat + c.2.2)).foldl max 0
  (lo % 128, hi - lo)

/-- The requests of a piece: its read, and with a line's first piece its write. -/
def pieceReqs (op : EngOp) (i k : Nat) (l : LineOp) : List LaneReq :=
  let c := l.copies.head?.getD (0, 0, 0)
  let x := spanOf l
  readReq 0 c.2.1 x.1 x.2 :: (if k = 0 then [⟨8, (((lineAt op i).copies.head?).getD (0, 0, 0)).1, 0, 0⟩] else [])

/-- Source bytes in a scratchpad, as a line; none where an uncorrectable error stands in them (R54). -/
def spadSource (s : State) (b off : Nat) (l : LineOp) : Option (BitVec 1024) :=
  let x := spanOf l
  let first := off / 128 * 128
  if spadStruck (block s b) (first + x.1) x.2 then none
  else some (BitVec.ofNat 1024 (numOf (spadTake (block s b) (first + x.1) x.2) * 2 ^ (8 * x.1)))

/-- The read of a line's next piece issues. What stands in a scratchpad is read in this position (R288). -/
def copyLine (s : State) (id : Nat) : State :=
  let op := mget s.ops id
  let i := op.nextRead
  let ps := piecesOf op i
  let l := ps.getD op.half default
  let a := lineAccess s op id i (pieceReqs op i op.half l) (s.clock + 2) true
  let s := modOp s id (fun o => if op.half + 1 < ps.length then { o with half := op.half + 1 } else { o with nextRead := i + 1, half := 0 })
  let r := reqOf a 0
  match spadTarget s a r with
  | none => openLine s a
  | some (b, off) =>
    let s := if op.kind = .cpy then countDown s op l false else s
    post (match spadSource s b off l with
      | some x => openLine s { a with got := [(0, x)] }
      | none => openLine s { a with faults := (0, .uncorrectable, 0) :: a.faults }) (s.clock + 2) (.engineWritePresent id)

/-- The position that a line would take goes unused: an earlier line of the operation waits for its translation (R411), or an
access that the read comes after has not been served (R121). (DEDUCED, log entry 51) -/
def lineHeld (s : State) (id : Nat) : Bool :=
  let op := mget s.ops id
  let l := (piecesOf op op.nextRead).getD op.half default
  let r := (pieceReqs op op.nextRead op.half l).head?.getD default
  let a := lineAccess s op id op.nextRead [r] 0 true
  (opAccs s id).any (fun e => !e.2.checked) || (inWindow r.va && mustFollow s id a)

/-- A position of the copy engine: the engine's choice decides which line it serves. -/
def copyTurn (s : State) (ev : Instr) (id : Nat) : State :=
  match mfind s.ops id with
  | none => s
  | some op =>
    let core := 32 * op.die + op.core
    let at_ := claimAt s op.owner 6 core s.clock
    if at_ ≠ s.clock then post s at_ ev
    else match copyPick s op.owner core with
      | none => s
      | some (j, turn) =>
        if copyEvent s j ≠ ev then { s with agenda := insertBefore (fun _ => true) s.agenda s.clock (copyEvent s j) }
        else
          let s := claim s op.owner 6 core s.clock
          let s := { s with claims := mset s.claims (episodeKey op.owner core) turn }
          watchCopy (if lineHeld s j then s else copyLine s j) op.owner core

/-- R288: a line operation of a `cpy` reads. -/
def execCpyLineRead (op : Nat) (s : State) : Answer := .next (copyTurn s (.cpyLineRead op) op)
/-- R89, R290: a line of a `bcpy` reads. -/
def execBcpyLineRead (op : Nat) (s : State) : Answer := .next (copyTurn s (.bcpyLineRead op) op)

/-! Writes. -/

/-- The write must wait: an earlier `cpy` that the engine serves for the owner has lines to write (R287). (DEDUCED, log entry 51) -/
def writeHeld (s : State) (op : EngOp) (id : Nat) : Bool :=
  op.kind == .cpy && s.ops.any (fun e => e.1 < id && e.2.owner == op.owner && e.2.die == op.die && e.2.core == op.core &&
    e.2.kind == .cpy && e.2.nextWrite < e.2.left)

/-- A copy whose writes are all performed, a `bcpy`'s acknowledged, retires (R118). -/
def copyEnd (s : State) (id : Nat) : State :=
  let op := mget s.ops id
  if (mfind s.ops id).isSome ∧ op.left ≤ op.nextWrite ∧ !(opAccs s id).any (fun e => lineLeft op e.2) ∧ !(owner s op.owner).halting then
    retireOp s id
  else s

/-- The bytes of a line's copies, as a line and its mask. Of the lanes of an execution the highest one's byte stays (R287). -/
def copyBytes (op : EngOp) (key : Nat) (l : LineOp) (data : List (BitVec 1024)) : BitVec 128 × BitVec 1024 :=
  ((l.lanes.zip l.copies).zip data).foldl (fun (m : BitVec 128 × BitVec 1024) e =>
    let (d, src, n) := e.1.2
    let off := d.toNat % 128
    if op.kind = .cpy ∧ op.written.any (fun w => w.1 == key + off && e.1.1 < w.2) then m
    else
      let mask := byteMask off n
      (m.1 ||| mask, mergeLine m.2 (BitVec.ofNat 1024 (numOf (lineBytes e.2 (src.toNat % 128) n) * 2 ^ (8 * off))) mask)) (0, 0)

/-- What a line has written is kept, by place, with the lane it holds (R287). -/
def noteWritten (op : EngOp) (key : Nat) (l : LineOp) : List (Nat × Nat) :=
  if op.kind = .cpy then
    (l.lanes.zip l.copies).foldl (fun w e =>
      let k := key + e.2.1.toNat % 128
      if w.any (fun x => x.1 == k && e.1 < x.2) then w else (k, e.1) :: w.filter (fun x => x.1 != k)) op.written
  else op.written

/-- Bits of a byte mask. -/
def bitMask (m : BitVec 128) : BitVec 1024 :=
  BitVec.ofNat 1024 (((List.range 128).map (fun i => if m.getLsbD i then 255 * 2 ^ (8 * i) else 0)).sum)

/-- An access presents its line's write; one with nothing to write ends. -/
def presentWrite (s : State) (id : Nat) (data mask : BitVec 1024) : State :=
  if mask = 0 then endLine s id
  else
    let s := modAcc s id (fun a => { a with got := [(8, data), (9, mask)], unperformed := 1 })
    engineTurn s id (mget s.accs id) [8] []

/-- The next line's write is presented; a scratchpad's is performed at once (R288). -/
def writeLine (s : State) (id : Nat) (op : EngOp) : State :=
  let i := op.nextWrite
  let l := lineAt op i
  let as := lineAccs s id i
  let first := (as.head?.map (·.1)).getD 0
  let a := mget s.accs first
  let data := if op.kind = .bcpy then as.map (fun e => e.2.piece 0) else l.copies.map (fun _ => a.piece 0)
  let target := spadTarget s a (reqOf a 8)
  let key := match target with
    | some (b, off) => 2 ^ 60 + 2 ^ 20 * b + off / 128 * 128
    | none => lanePa a (reqOf a 8) / 128 * 128
  let (mask, line) := copyBytes op key l data
  let s := modOp s id (fun o => { o with
    nextWrite := i + 1, lines := o.lines.tail, bytes := o.bytes + (l.copies.map (fun c => c.2.2)).sum, written := noteWritten o key l })
  let s := (as.drop 1).foldl (fun s e => dropAccess s e.1) s
  let s := match target with
    | some (b, off) =>
      let s := spadMerge s b (off / 128 * 128) line (bitMask mask)
      dropAccess (if op.kind = .cpy then countDown s op l true else s) first
    | none => presentWrite s first line (bitMask mask)
  if i + 1 < op.left then s
  else s.ops.foldl (fun s e => if e.2.kind = .cpy ∧ e.2.owner = op.owner ∧ e.2.die = op.die ∧ e.2.core = op.core
    then post s s.clock (.engineWritePresent e.1) else s) s

/-- A line that has failed is raised once those before it are written; one whose data has come is written (R291, R340). -/
def presentLine (s : State) (id : Nat) : State :=
  match mfind s.ops id with
  | none => s
  | some op =>
    let i := op.nextWrite
    let as := lineAccs s id i
    let before := (opAccs s id).any (fun e => (match e.2.kind with | .line _ j => j < i | _ => false) && e.2.unperformed != 0)
    match as.findSome? (fun e => if e.2.checked then lineTrap e.2 else none) with
    | some t => if before then s else engineFault s id t
    | none =>
      if i < op.nextRead && !as.isEmpty && as.all (fun e => e.2.checked && e.2.has 0 && decide (e.2.avail ≤ s.clock)) && !writeHeld s op id then writeLine s id op
      else s

/-- The `cpy` and `bcpy` part of R288: writes are presented in order as their data arrives. -/
def presentCopy (s : State) (id : Nat) : State :=
  let s := (List.range 16).foldl (fun s _ => presentLine s id) s
  let op := mget s.ops id
  watchCopy (copyEnd s id) op.owner (32 * op.die + op.core)

/-! `cpy` at issue (R287, R289). -/

/-- Window addresses of the typed granules that a group can name (R5, R124). -/
def typedAddrs (s : State) (g : Group) : List Nat :=
  (block s g.block).typed ++ (List.range (launch s g.launch).clusterSize).flatMap (fun r =>
    match rankBlock s g.block r with
    | some b => (block s b).typed.map (fun x => 0x100000 + 0x40000 * r + x)
    | none => [])

/-- Some byte of a range lies in a typed granule. -/
def typedRange (s : State) (g : Group) (first n : Nat) : Bool := (typedAddrs s g).any (fun x => x < first + n && first < x + 16)

/-- `%cpybar` names a typed granule. -/
def cpybarTyped (s : State) (g : Group) : Bool :=
  match windowTarget s g.block g.cpybar with
  | some (b, off) => (block s b).typed.contains off
  | none => false

/-- A lane's copy: lane, destination, source. -/
abbrev LaneCopy := Nat × BitVec 64 × BitVec 64

/-- Line operations: one for each pair of lines, in ascending destination line, then lowest lane (R287). (DEDUCED, log entry 50) -/
def lineOps (n : Nat) (cs : List LaneCopy) : List LineOp :=
  let pair (c : LaneCopy) : Nat × Nat := (lineOf c.2.1, lineOf c.2.2)
  let pairs := sortBy (fun a b => a.1 ≤ b.1) ((cs.map pair).eraseDups)
  pairs.map (fun p =>
    let mine := cs.filter (fun c => pair c == p)
    ⟨mine.map (·.1), mine.map (fun c => (c.2.1, c.2.2, n))⟩)

/-- The first lane that a check names. -/
def firstLane (cs : List LaneCopy) (bad : LaneCopy → Option Trap) : Option Trap := cs.findSome? bad

/-- The checks of R289 from the third on; an address that is not canonical meets none of them, and faults at its line (R3). (DEDUCED, log entry 50) -/
def cpyTrap (s : State) (c : Ctx) (n : Nat) (cs : List LaneCopy) : Option Trap :=
  let win (a : BitVec 64) : Bool := inWindow a
  if rota s c.o 6 = 0 then some ⟨.illegalOp, 0, 0, 0⟩
  else if c.g.migrated && cs.any (fun x => win x.2.1 || win x.2.2) then some ⟨.migratedAccess, 0, 0, 0⟩
  else match firstLane cs (fun x =>
      if canonical x.2.1 ∧ x.2.1.toNat % n ≠ 0 then some ⟨.misaligned, 0, detailWord false x.1 1 0 0 0 0 0, x.2.1⟩
      else if canonical x.2.2 ∧ x.2.2.toNat % n ≠ 0 then some ⟨.misaligned, 0, detailWord false x.1 0 0 0 0 0 0, x.2.2⟩ else none) with
    | some t => some t
    | none => match firstLane cs (fun x =>
        if win x.2.1 && (windowTarget s c.g.block x.2.1).isNone then some (windowTrap false x.1 1 x.2.1)
        else if win x.2.2 && (windowTarget s c.g.block x.2.2).isNone then some (windowTrap false x.1 0 x.2.2) else none) with
      | some t => some t
      | none =>
        if (c.g.cpybar ≠ 0 && !cpybarTyped s c.g) || cs.any (fun x => clobbers s c.g.block x.2.1 n) then some ⟨.barrierClobber, 0, 0, 0⟩ else none

/-- An operation of the executing instruction. -/
def opOf (s : State) (c : Ctx) (cls : Nat) (kind : OpKind) : EngOp :=
  { (default : EngOp) with
    cls := cls, kind := kind, g := c.k, block := c.g.block, launch := c.g.launch, owner := c.o, die := dieOf c.k
    core := coreOf c.k, part := partOf c.k, frag := c.f.id, pc := c.pc, tids := tidsOf c.g c.lanes, prot := launchFlag s c.g 2 }

/-- It takes its place in its class, under the identity `s.nextId` (R119). -/
def beginOp (s : State) (op : EngOp) : State :=
  let id := s.nextId
  modGroup (tick { s with ops := mset s.ops id op }) op.g (fun g => countOp g op.cls id)

def execCpy (h : Hdr) (z d e : BitVec 2) (b a : BitVec 6) (s : State) : Answer :=
  .next (plain (.cpy h z d e b a) h s (fun c s =>
    let n := 4 * 2 ^ z.toNat
    let cs := (lanesOf c.lanes).map (fun l => (l, laneAddr c d.toNat a.toNat l, laneAddr c (e.toNat + 4) b.toNat l))
    match cpyTrap s c n cs with
    | some t => .error t
    | none =>
      let lines := lineOps n cs
      let op := { opOf s c 0 .cpy with lines := lines, left := lines.length, policy := policyOf c, cpybar := c.g.cpybar }
      .ok (watchCopy (beginOp s op) c.o (coreKey c.k))))

/-! `bcpy` at issue (R290). -/

def rangesOverlap (a b n : Nat) : Bool := a < b + n && b < a + n

/-- A range names a window address. -/
def windowRange (a : BitVec 64) : Bool := inWindow a

/-- DEDUCED, log entry 52. -/
def bcpyTrap (s : State) (c : Ctx) (dst src len : BitVec 64) : Option Trap :=
  let lane := (lanesOf c.f.mask).head?.getD 0
  let bad (kind : Nat) (va : BitVec 64) : Option Trap := some ⟨.misaligned, 0, detailWord false lane kind 0 0 0 0 0, va⟩
  if 2 ^ 32 < len.toNat ∨ rangesOverlap dst.toNat src.toNat len.toNat then some ⟨.illegalOp, 0, 0, 0⟩
  else if canonical dst ∧ dst.toNat % 16 ≠ 0 then bad 1 dst
  else if canonical src ∧ src.toNat % 16 ≠ 0 then bad 0 src
  else if len.toNat % 16 ≠ 0 then bad 1 dst
  else if rota s c.o 6 = 0 then some ⟨.illegalOp, 0, 0, 0⟩
  else if !c.g.migrated && typedRange s c.g dst.toNat len.toNat then some ⟨.barrierClobber, 0, 0, 0⟩
  else if c.g.migrated && (windowRange dst || windowRange src || coilOf c != 0) then some ⟨.migratedAccess, 0, 0, 0⟩
  else if coilOf c ≠ 0 ∧ (coilDie (block s c.g.block) (coilOf c)).isNone then some ⟨.illegalOp, 0, 0, 0⟩
  else none

def execBcpy (h : Hdr) (q b a : BitVec 6) (s : State) : Answer :=
  .next (plain (.bcpy h q b a) h s (fun c s =>
    let (src, s) := takeScalar s c (numN c.x.hb b.toNat)
    let (len, s) := takeScalar s c (numN c.x.hc q.toNat)
    let (dst, s) := takeScalar s c (numN c.x.ha a.toNat)
    if len = 0 then .ok s
    else match bcpyTrap s c dst src len with
      | some t => .error t
      | none =>
        let op := { opOf s c 1 .bcpy with
          src := src, dst := dst, len := len.toNat, left := bulkLines dst len.toNat, policy := policyOf c, coil := coilOf c
          home := (coilDie (block s c.g.block) (coilOf c)).getD 0 }
        .ok (watchCopy (beginOp s op) c.o (coreKey c.k))))

/-! Coils (R82, R292). -/

def modCoil (s : State) (b q : Nat) (f : Coil → Coil) : State := modBlock s b (fun x => { x with coils := mmod x.coils q f })

/-- A drain begins: its place among the coil's drains, and its end at once if nothing tagged is outstanding. -/
def beginDrain (s : State) (c : Ctx) (q : Nat) (rebinding : Bool) : State :=
  let id := s.nextId
  let s := beginOp s { opOf s c 1 (.drain q) with rebinding := rebinding }
  checkDrains (modCoil s c.g.block q (fun x => { x with drains := x.drains ++ [id], rebinding := x.rebinding || rebinding })) c.g.block

/-- What `coil.open` checks of its die (R82, R76). (DESIGN CHOICE, log entry 128) -/
def coilOpenTrap (s : State) (c : Ctx) (d : BitVec 64) : Option Trap :=
  if c.g.migrated then some ⟨.migratedAccess, 0, 0, 0⟩
  else if d.toNat = dieOf c.k ∨ !liveDie s d.toNat then some ⟨.illegalOp, 0, 0, 0⟩
  else (circuitMissing s c.o (dieOf c.k) d.toNat).map (fun m => ⟨.circuitAbsent, 0, BitVec.ofNat 32 (m.2 + 16 * m.1 + 256 * 3), 0⟩)

def execCoilOpen (h : Hdr) (b : BitVec 6) (q : BitVec 3) (s : State) : Answer :=
  .next (plain (.coilOpen h b q) h s (fun c s =>
    let (d, s) := takeScalar s c (numN c.x.hb b.toNat)
    match coilOpenTrap s c d with
    | some t => .error t
    | none =>
      match coilDie (block s c.g.block) q.toNat with
      | none => .ok (modCoil s c.g.block q.toNat (fun x => { x with die := some d.toNat }))
      | some e =>
        if e = d.toNat then .ok s
        else .ok (beginDrain (modCoil s c.g.block q.toNat (fun x => { x with die := some d.toNat })) c q.toNat true)))

/-- A close or a drain of an open coil; of a closed one, nothing. -/
def coilDrainOp (c : Ctx) (q : Nat) (close : Bool) (s : State) : Except Trap State :=
  if c.g.migrated then .error ⟨.migratedAccess, 0, 0, 0⟩
  else if (coilDie (block s c.g.block) q).isNone then .ok s
  else .ok (beginDrain (if close then modCoil s c.g.block q (fun x => { x with die := none }) else s) c q close)

def execCoilClose (h : Hdr) (q : BitVec 3) (s : State) : Answer :=
  .next (plain (.coilClose h q) h s (fun c s => coilDrainOp c q.toNat true s))
def execCoilDrain (h : Hdr) (q : BitVec 3) (s : State) : Answer :=
  .next (plain (.coilDrain h q) h s (fun c s => coilDrainOp c q.toNat false s))

/-- R82: every earlier write tagged with the coil is acknowledged, and the drain ends. -/
def execCoilDrainComplete (op : Nat) (s : State) : Answer :=
  .next (match mfind s.ops op with
  | none => s
  | some x =>
    match x.kind with
    | .drain q =>
      let s := modCoil s x.block q (fun y =>
        let rest := y.drains.filter (· != op)
        { y with drains := rest, rebinding := rest.any (fun i => (mget s.ops i).rebinding) })
      checkDrains (retireOp s op) x.block
    | _ => s)

end Sys2Proof.Machine
end

