-- ==== Sys2Proof/Machine/Matrix.lean ====
section
/-! DEFINITION. The exact arithmetic of the matrix array (R191 to R197): what one `mma` makes of its tiles. -/

namespace Sys2Proof.Machine

/-! Shape registers (R295). -/

def shFormat (x : BitVec 64) : Nat := x.toNat % 16
def shRows (x : BitVec 64) : Nat := x.toNat / 2 ^ 4 % 32 + 1
def shCols (x : BitVec 64) : Nat := x.toNat / 2 ^ 9 % 32 + 1
def shK (x : BitVec 64) : Nat := x.toNat / 2 ^ 14 % 1024 + 1
def shGroup (x : BitVec 64) : Nat := x.toNat / 2 ^ 24 % 4
def shScale (x : BitVec 64) : Nat := x.toNat / 2 ^ 32

/-- D's format and K for a semiring and the formats of A and B (R193); none where the combination is not accepted. -/
def mmaRow (semiring a b : Nat) : Option (Nat × Nat) :=
  match semiring, a, b with
  | 0, 0, 0 | 0, 0, 1 | 0, 1, 0 | 0, 1, 1 => some (9, 128)
  | 0, 2, 2 => some (9, 256)
  | 0, 5, 5 | 0, 6, 6 => some (7, 64)
  | 0, 7, 7 => some (7, 32)
  | 0, 8, 8 => some (8, 16)
  | 0, 0, 3 | 0, 0, 4 => some (7, 128)
  | 1, 7, 7 | 2, 7, 7 => some (7, 32)
  | 1, 9, 9 => some (9, 32)
  | 3, 10, 10 => some (10, 1024)
  | _, _, _ => none

/-- TIL positions of an `mma` (R305). -/
def mmaPositions (semiring b : Nat) : Nat :=
  if semiring = 3 then 2
  else if semiring ≠ 0 then 4
  else if b = 4 then 1
  else if b = 7 ∨ b = 8 then 4
  else 2

/-! Elements (R185, R294). -/

/-- The first `n` elements of `b` bits of a 128-byte tile line. -/
def lineElems (line b n : Nat) : List Nat := (List.range n).map (fun e => line / 2 ^ (b * e) % 2 ^ b)
def tileLine (d : BitVec 32768) (i : Nat) : Nat := d.toNat / 2 ^ (1024 * i) % 2 ^ 1024
/-- Elements of all 32 lines. -/
def tileElems (d : BitVec 32768) (b n : Nat) : List (List Nat) := (List.range 32).map (fun i => lineElems (tileLine d i) b n)
/-- A tile whose lines begin with these elements and go on as before. (DEDUCED, log entry 56) -/
def tileWith (d : BitVec 32768) (b : Nat) (rows : List (List Nat)) : BitVec 32768 :=
  BitVec.ofNat 32768 ((rows.zipIdx.map (fun r =>
    let m := 2 ^ (b * r.1.length)
    (tileLine d r.2 / m * m + (r.1.zipIdx.map (fun e => e.1 % 2 ^ b * 2 ^ (b * e.2))).sum) * 2 ^ (1024 * r.2))).sum)

/-- Scale and zero point of group `g` of column `j`, from a side band (R191). -/
def groupScale (side : BitVec 8192) (j g : Nat) : Nat := side.toNat / 2 ^ (16 * (4 * j + g)) % 2 ^ 16
def groupZero (side : BitVec 8192) (fmt j g : Nat) : Nat :=
  side.toNat / 2 ^ (8 * (0x100 + 4 * j + g)) % 2 ^ (if fmt = 4 then 4 else 8)

/-! Sums. -/

/-- A value as the integer an integer format gives. -/
def intElem (fmt x : Nat) : Int := match fmt with | 0 => asInt 8 x | 2 => asInt 4 x | _ => x

/-- Rounds an exact value to a format by RNE (R187). -/
def roundFp (F : Fmt) (x : Fp) : Nat :=
  match x with
  | .nan _ => F.nan
  | .inf s => signed F s F.inf
  | .fin s m e => if m = 0 then signed F s 0 else (roundTo F 0 s m e false).bits

/-- Lists of `c` elements. -/
def chunks (c : Nat) : Nat → List (Nat × Nat) → List (List (Nat × Nat))
  | 0, _ => []
  | n + 1, xs => if xs.isEmpty then [] else xs.take c :: chunks c n (xs.drop c)

/-- The chunked sum of R194: elements of format F, `c` to a chunk. -/
def chunkedSum (F : Fmt) (c d : Nat) (xs : List (Nat × Nat)) : Nat :=
  (chunks c xs.length xs).foldl (fun d ch =>
    (fAdd fp32 0 d (sumFp fp32 0 (ch.map (fun p => (mulFp (.of F p.1) (.of F p.2)).1))).bits).bits) d

/-- One output under a grouped weight (R195): groups in increasing order. -/
def groupedSum (alpha fmt gsize j : Nat) (side : BitVec 8192) (d : Nat) (xs : List (Nat × Nat)) : Nat :=
  ((chunks gsize xs.length xs).zipIdx).foldl (fun d c =>
    let z : Int := groupZero side fmt j c.2
    let i : Int := (c.1.map (fun p => asInt 8 p.1 * ((p.2 : Int) - z))).sum
    let t := roundFp fp32 (mulFp (.of fp16 (groupScale side j c.2)) (.of fp32 alpha)).1
    (fAdd fp32 0 d (fMul fp32 0 (fOfInt fp32 0 i).bits t).bits).bits) d

/-- Saturation to 32 signed bits, as a pattern. -/
def sat32 (x : Int) : Int := max (-(2 ^ 31)) (min (2 ^ 31 - 1) x)

/-- One output element d of D ⊕ (A ⊗ B) at column j (R194 to R196). -/
def mmaElem (semiring fa fb : Nat) (alpha gsize : Nat) (side : BitVec 8192) (j d : Nat) (xs : List (Nat × Nat)) : Nat :=
  match semiring with
  | 0 =>
    if fb = 3 ∨ fb = 4 then groupedSum alpha fb gsize j side d xs
    else match fb with
      | 5 => chunkedSum fp16 16 d xs
      | 6 => chunkedSum bf16 16 d xs
      | 7 => chunkedSum fp32 4 d xs
      | 8 => xs.foldl (fun d p => (fFma fp64 0 d p.1 p.2).bits) d
      | _ => (((d : Int) + (xs.map (fun p => intElem fa p.1 * intElem fb p.2)).sum) % (2 ^ 32 : Int)).toNat
  | 1 =>
    if fb = 7 then xs.foldl (fun d p => (fMinMax fp32 false d (fAdd fp32 0 p.1 p.2).bits).bits) d
    else xs.foldl (fun d p => ((min (asInt 32 d) (sat32 (asInt 32 p.1 + asInt 32 p.2))) % (2 ^ 32 : Int)).toNat) d
  | 2 => xs.foldl (fun d p => (fMinMax fp32 true d (fMul fp32 0 p.1 p.2).bits).bits) d
  | _ => xs.foldl (fun d p => max d (p.1 * p.2)) d

/-- Element bits of the formats (R184). -/
def elemBits (f : Nat) : Nat :=
  match f with
  | 0 | 1 | 3 => 8
  | 2 | 4 => 4
  | 5 | 6 => 16
  | 8 => 64
  | 10 => 1
  | _ => 32

/-- D's tiles after an `mma`, one or a pair: D's data, A's, B's, B's side band, and the shapes of D, A and B. (DEDUCED, log entry 56) -/
def mmaResult (semiring : Nat) (d : List (BitVec 32768)) (a b : BitVec 32768) (side : BitVec 8192) (shA shB : BitVec 64) :
    List (BitVec 32768) :=
  let fa := shFormat shA
  let fb := shFormat shB
  match mmaRow semiring fa fb with
  | none => d
  | some (fd, k) =>
    let w := elemBits fd
    let cols := if fd = 8 then 16 else 32
    let rowsA := tileElems a (elemBits fa) k
    let colsB := tileElems b (elemBits fb) k
    d.zipIdx.map (fun t =>
      let old := tileElems t.1 w cols
      tileWith t.1 w ((rowsA.zip old).map (fun r =>
        (List.range cols).map (fun c =>
          let j := cols * t.2 + c
          mmaElem semiring fa fb (shScale shA) (32 * 2 ^ shGroup shB) side j (r.2.getD c 0) (r.1.zip (colsB.getD j []))))))

end Sys2Proof.Machine
end

