-- ==== Sys2Proof/Machine/Tile.lean ====
section
/-! DEFINITION. Tiles: shape fields (R295, R296), transfers between memory and a tile (R301 to R303), `mma` (R304, R305),
and allocation, freeing, clearing and rows (R40, R41, R156, R306). -/

namespace Sys2Proof.Machine

/-! Tiles a block holds. -/

/-- Tiles a block holds in a partition, those being freed apart (R40, R306). -/
def tilesHeld (b : Block) (part : Nat) : Nat := mget b.ntiles part
/-- Tiles of a partition that are not back in the pool: those held, and those being freed. -/
def tilesTaken (b : Block) (part : Nat) : Nat := mget b.ntiles part + (mget b.freeing part).length

/-- The group's block holds tile `t` in its partition. (DEDUCED, log entry 53) -/
def holdsTile (s : State) (c : Ctx) (t : Nat) : Bool := t < tilesHeld (block s c.g.block) (partOf c.k)

def tileAt (b : Block) (key : Nat) : Tile := (mfind b.tiles key).getD ⟨0, 0, 0, false⟩
def modTile (s : State) (b key : Nat) (f : Tile → Tile) : State := modBlock s b (fun x => { x with tiles := mset x.tiles key (f (tileAt x key)) })

/-- The tile quota of an owner in a partition, as its last launch start took it (R49, R51). -/
def tileQuota (s : State) (o : Nat) : Nat := ext (owner s o).storage 8 5

/-! `tcfg` (R296). -/

/-- The field's lowest bit, length and new value; none where sB is not accepted. -/
def shapeField (f : Nat) (x : Nat) : Option (Nat × Nat × Nat) :=
  match f with
  | 0 => if x ≤ 10 then some (0, 4, x) else none
  | 1 => if 1 ≤ x ∧ x ≤ 32 then some (4, 5, x - 1) else none
  | 2 => if 1 ≤ x ∧ x ≤ 32 then some (9, 5, x - 1) else none
  | 3 => if 1 ≤ x ∧ x ≤ 1024 then some (14, 10, x - 1) else none
  | 4 => if x ≤ 2 then some (24, 2, x) else none
  | _ => if x < 2 ^ 32 then some (32, 32, x) else none

def execTcfg (h : Hdr) (f b : BitVec 6) (t : BitVec 4) (s : State) : Answer :=
  .next (plain (.tcfg h f b t) h s (fun c s =>
    let (x, s) := takeScalar s c (numN c.x.hb b.toNat)
    if c.g.migrated then .error ⟨.migratedAccess, 0, 0, 0⟩
    else if !holdsTile s c t.toNat then .error ⟨.illegalReg, 0, 0, 0⟩
    else match shapeField f.toNat x.toNat with
      | none => .error ⟨.tileShape, 0, 0, 0⟩
      | some (lo, len, v) => .ok (send s c (c.n + 1) [.shape (tileKey c.k t.toNat) lo len v] [] false)))

/-! The box of a transfer (R301, R302). -/

/-- A signed coordinate. -/
def coord (op : EngOp) (d : Nat) : Int := (op.coords.getD d 0).toInt

/-- The tensor coordinates of element e of line i; none where an im2col index lies outside. -/
def boxCoords (op : EngOp) (i e : Nat) : Option (List Int) :=
  let r := op.record
  let n (d : Nat) : Int := recExtent r d
  let p := coord op 1 + i
  let k := coord op 0 + e
  if recIm2col r then
    let fr : Int := field r 0x38 2
    let fs : Int := field r 0x3A 2
    if k < 0 ∨ n 0 * fr * fs ≤ k ∨ p < 0 ∨ n 1 * n 2 * n 3 ≤ p then none
    else
      let dx : Int := field r 0x34 2
      let dy : Int := field r 0x36 2
      some [k % n 0, p % n 1 + coord op 2 + k / n 0 % fr * dx, p / n 1 % n 2 + coord op 3 + k / (n 0 * fr) * dy, p / (n 1 * n 2)]
  else some [k, p, coord op 2, coord op 3]

/-- Bit address in memory of an element inside the extents. -/
def boxBit (op : EngOp) (i e : Nat) : Option Nat :=
  let r := op.record
  match boxCoords op i e with
  | none => none
  | some xs =>
    if (xs.zipIdx.all (fun x => decide (0 ≤ x.1) && decide (x.1 < recExtent r x.2))) then
      let x (d : Nat) : Nat := (xs.getD d 0).toNat
      some ((recBase r + x 1 * recStride r 1 + x 2 * recStride r 2 + x 3 * recStride r 3) * 8 + x 0 * formatBits (recFormat r))
    else none

def opShape (op : EngOp) : BitVec 64 := op.shapes.head?.getD 0
/-- Element bits, and elements of the box in a line. -/
def boxWidth (op : EngOp) : Nat := formatBits (recFormat op.record)
def boxLen (op : EngOp) : Nat := 32 * shCols (opShape op) / boxWidth op

/-- Elements of a line inside the extents: element and bit address. -/
def rowElems (op : EngOp) (i : Nat) : List (Nat × Nat) :=
  (List.range (boxLen op)).filterMap (fun e => (boxBit op i e).map (fun a => (e, a)))

/-- A bit address's memory line. -/
def bitLine (a : Nat) : Nat := a / 1024

/-- Drops each that equals the one before it. -/
def squeeze : List Nat → List Nat
  | [] => []
  | a :: t => match squeeze t with
    | [] => [a]
    | b :: r => if a = b then b :: r else a :: b :: r

/-- Memory lines of the box, in request order (R303). (DEDUCED, log entry 54) -/
def boxLines (op : EngOp) : List Nat :=
  ((List.range (shRows (opShape op))).flatMap (fun i => squeeze (sortBy (fun a b => a ≤ b) (squeeze ((rowElems op i).map (fun x => bitLine x.2)))))).eraseDups

/-- Side-band entries that a `tld` reads: tile entry and byte address (R191, R192). -/
def sideEntries (op : EngOp) : List (Nat × Nat) :=
  let r := op.record
  if !groupedFormat (recFormat r) then []
  else
    let g := groupSize (recGroup r)
    let inside (d : Nat) (x : Int) : Bool := decide (0 ≤ x) && decide (x < recExtent r d)
    (List.range (shRows (opShape op))).flatMap (fun (i : Nat) =>
      let x1 : Int := coord op 1 + (i : Int)
      if inside 1 x1 && inside 2 (coord op 2) && inside 3 (coord op 3) then
        let n := x1.toNat + recExtent r 1 * ((coord op 2).toNat + recExtent r 2 * (coord op 3).toNat)
        (List.range (128 / g)).filterMap (fun (q : Nat) =>
          let gg : Int := coord op 0 / g + q
          if 0 ≤ gg ∧ gg < (sideGroups r : Int) then some ((4 * i + q : Nat), recBase r + recSide r + 4 * (n * sideGroups r + gg.toNat)) else none)
      else [])

/-- Lines of the side band that no element touches. (DEDUCED, log entry 54) -/
def sideExtra (op : EngOp) : List Nat := ((sideEntries op).map (fun e => e.2 / 128)).eraseDups.filter (fun l => !(boxLines op).contains l)

/-! What a transfer moves. -/

/-- Bits of an element in a line's bytes. -/
def bitsOf (xs : List (BitVec 8)) (bit b : Nat) : Nat := numOf ((xs.drop (bit / 8)).take (max 1 (b / 8))) / 2 ^ (bit % 8) % 2 ^ b

/-- The elements of a memory line enter the tile. -/
def readLineOf (op : EngOp) (d : BitVec 32768) (line : Nat) (xs : List (BitVec 8)) : BitVec 32768 :=
  let b := boxWidth op
  (List.range (shRows (opShape op))).foldl (fun d i =>
    ((rowElems op i).filter (fun x => bitLine x.2 == line)).foldl (fun d x =>
      putBits d (1024 * i + b * x.1) b (bitsOf xs (x.2 % 1024) b)) d) d

/-- The side-band entries of a memory line enter the side band. (DEDUCED, log entry 54) -/
def loadSide (op : EngOp) (d : BitVec 8192) (line : Nat) (xs : List (BitVec 8)) : BitVec 8192 :=
  ((sideEntries op).filter (fun e => e.2 / 128 == line)).foldl (fun d e =>
    let y := (xs.drop (e.2 % 128)).take 4
    putBits (putBits d (16 * e.1) 16 (numOf (y.take 2))) (8 * (0x100 + e.1)) 8 (numOf ((y.drop 2).take 1))) d

/-- Elements of the box outside the extents of a grouped tensor load as their group's zero point (R192). -/
def padGroups (op : EngOp) (d : BitVec 32768) (side : BitVec 8192) : BitVec 32768 :=
  let f := recFormat op.record
  if !groupedFormat f then d
  else
    let b := boxWidth op
    let g := groupSize (recGroup op.record)
    (List.range (shRows (opShape op))).foldl (fun d i =>
      ((List.range (boxLen op)).filter (fun e => (boxBit op i e).isNone)).foldl (fun d e =>
        putBits d (1024 * i + b * e) b (groupZero side f i (e / g))) d) d

/-- The bits that a `tst` writes in a memory line, and their mask (R301). -/
def storeLine (op : EngOp) (d : BitVec 32768) (line : Nat) : BitVec 1024 × BitVec 1024 :=
  let b := boxWidth op
  let r := (List.range (shRows (opShape op))).foldl (fun (r : Nat × Nat) i =>
    ((rowElems op i).filter (fun x => bitLine x.2 == line)).foldl (fun r x =>
      let at_ := x.2 % 1024
      let m := 2 ^ b - 1
      (Nat.lor (r.1 - Nat.land r.1 (m * 2 ^ at_)) (ext d (1024 * i + b * x.1) b * 2 ^ at_), Nat.lor r.2 (m * 2 ^ at_))) r) (0, 0)
  (BitVec.ofNat 1024 r.1, BitVec.ofNat 1024 r.2)

/-! The array (R123, R303, R305). -/

/-- No earlier class M operation of the block names a tile of the operation. -/
def tileReady (s : State) (id : Nat) (op : EngOp) : Bool :=
  !s.ops.any (fun e => e.1 < id && e.2.block == op.block && e.2.cls == 2 && e.2.tiles.any op.tiles.contains)

/-- Takes `n` TIL positions of the array that begin after this clock: the end of each, and the state. -/
def takeTil (o part : Nat) : Nat → State → List Nat → List Nat × State
  | 0, s, acc => (acc, s)
  | n + 1, s, acc => takeTil o part n (claim s o 5 part (s.clock + 1)) (acc ++ [claimAt s o 5 part (s.clock + 1) + 16])

/-- Key of a partition over all dies. -/
def EngOp.partKey (op : EngOp) : Nat := (32 * op.die + op.core) * 4 + op.part

/-- Positions that a transfer holds the array's port for (R303). -/
def transferPositions (op : EngOp) : Nat := max 1 (((boxLines op).length + 63) / 64)

/-- An operation starts: it takes its positions (R303, R305). -/
def startTile (s : State) (id : Nat) : State :=
  let s := modOp s id (fun o => { o with started := true })
  let op := mget s.ops id
  if op.kind = .mma then
    let (ends, s) := takeTil op.owner op.partKey op.left s []
    ends.foldl (fun s t => post s t (.mmaPosition id)) s
  else
    let lines := boxLines op
    let all := lines ++ (if op.kind = .tld then sideExtra op else [])
    let s := modOp s id (fun o => { o with
      left := all.length
      lines := all.map (fun l => ⟨[], [(BitVec.ofNat 64 (l * 128), BitVec.ofNat 64 (l * 128), 128)]⟩) })
    let (ends, s) := takeTil op.owner op.partKey (transferPositions op) s []
    post s (ends.head?.getD 0 - 16) (.tileTransferStart id)

/-- Operations of a block that have become ready start: in ascending partition, then issue port (R305). -/
def wakeTiles (s : State) (b : Nat) : State :=
  let ready := s.ops.filter (fun e => e.2.block == b && e.2.cls == 2 && !e.2.started && tileReady s e.1 e.2)
  let key (e : Nat × EngOp) : Nat := 2 * e.2.part + slotOf e.2.g % 2
  (sortBy (fun x y => key x ≤ key y) ready).foldl (fun s e => startTile s e.1) s

/-! Freed tiles, and requests for tiles (R156, R306). -/

/-- Tiles of a partition that an owner's blocks on a core hold. -/
def tilesUsed (s : State) (o core part : Nat) : Nat :=
  (s.blocks.map (fun e => if e.2.owner = o ∧ 32 * e.2.die + e.2.core = core then tilesTaken e.2 part else 0)).sum

/-- Waiting requests of an owner in a partition of a core: block and request, in arrival order. -/
def tileWants (s : State) (o core part : Nat) : List (Nat × (Nat × Nat × Nat × Nat × Nat)) :=
  sortBy (fun x y => x.2.2.1 ≤ y.2.2.1) ((s.blocks.filter (fun e => e.2.owner == o && 32 * e.2.die + e.2.core == core)).flatMap
    (fun e => (e.2.wants.filter (fun w => w.1 == part)).map (fun w => (e.1, w))))

/-- A request ends: k0 is written and the fragment goes on. (DEDUCED, log entry 53) -/
def answerTalloc (s : State) (b : Nat) (w : Nat × Nat × Nat × Nat × Nat) (ok : Bool) : State :=
  let (part, _, k, f, n) := w
  let s := modBlock s b (fun x => { x with
    wants := x.wants.filter (· != w)
    ntiles := if ok then mmod x.ntiles part (· + n) else x.ntiles })
  setRun (postResult s ⟨k, (s.clock + 7) / 8, [.k 0 ok], 0, true, f⟩) k f

/-- Grants whole requests in arrival order; where every block that holds tiles waits, the youngest waiting block's fails. -/
def serveTiles (o core part : Nat) : Nat → State → State
  | 0, s => s
  | n + 1, s =>
    match tileWants s o core part with
    | [] => s
    | (b, w) :: rest =>
      if tilesUsed s o core part + w.2.2.2.2 ≤ tileQuota s o then
        serveTiles o core part n (answerTalloc s b w true)
      else
        let waits (x : Nat) : Bool := ((b, w) :: rest).any (fun e => e.1 == x)
        let holders := s.blocks.filter (fun e => e.2.owner == o && 32 * e.2.die + e.2.core == core && 0 < tilesTaken e.2 part)
        if holders.all (fun e => waits e.1) then
          let y := ((b, w) :: rest).foldl (fun m e => if (block s m.1).placed < (block s e.1).placed then e else m) (b, w)
          serveTiles o core part n (answerTalloc s y.1 y.2 false)
        else s

/-- Serves the requests of an owner in a partition. -/
def serveTallocs (s : State) (o core part : Nat) : State := serveTiles o core part (tileWants s o core part).length s

/-- A block's last `n` tiles of a partition leave its numbers, and are to be wiped in descending order (R306). What names
one of them goes on naming it. -/
def giveBack (s : State) (b part n : Nat) : State :=
  let held := tilesHeld (block s b) part
  let pairs := (List.range n).map (fun i => (16 * part + (held - 1 - i), 64 * (s.nextId + 1) + i))
  let key (t : Nat) : Nat := ((pairs.find? (fun p => p.1 == t)).map (·.2)).getD t
  tick { s with
    blocks := mmod s.blocks b (fun y => { y with
      tiles := y.tiles.map (fun e => (key e.1, e.2)), ntiles := mset y.ntiles part (held - n)
      freeing := mmod y.freeing part (· ++ pairs.map (·.2)) })
    ops := mall s.ops (fun _ o => if o.block = b then { o with tiles := o.tiles.map key } else o)
    results := mall s.results (fun _ r => if (group s r.g).block = b then
      { r with writes := r.writes.map (fun w => match w with | .shape t lo len v => .shape (key t) lo len v | w => w) } else r) }

/-- The next tile that `tfree` gives back is wiped in the array's next position, once no class M operation names one of
those to be freed. -/
def pumpFree (s : State) (b part clock : Nat) : State :=
  let x := block s b
  if (mget x.freeing part).isEmpty ∨ (mget x.freeing part).any (tileBusy s b) ∨
      s.agenda.any (fun e => match e.2 with | .tfreeWipe c p => c == b && p == part | _ => false) then s
  else postClaim s x.owner 5 ((32 * x.die + x.core) * 4 + part) clock (.tfreeWipe b part)

/-- R306: a freed tile is wiped and returned. -/
def execTfreeWipe (b part : Nat) (s : State) : Answer :=
  .next (
    let x := block s b
    match mget x.freeing part with
    | [] => s
    | t :: rest =>
    if vacant s x.owner 5 then post s (boundary s.clock) (.tfreeWipe b part)
    else
      let s := modBlock s b (fun x => { x with freeing := mset x.freeing part rest, tiles := mdel x.tiles t })
      pumpFree (serveTallocs s x.owner (32 * x.die + x.core) part) b part s.clock)

/-- A class M operation retires: what waited for its tiles goes on. (DEDUCED, log entry 53) -/
def retireTile (s : State) (id : Nat) : State :=
  let op := mget s.ops id
  if (owner s op.owner).halting then s
  else (List.range 4).foldl (fun s p => pumpFree s op.block p (s.clock + 1)) (wakeTiles (retireOp s id) op.block)

/-! `tld` and `tst` (R301 to R303). -/

/-- Checks from the shape on. (DEDUCED, log entry 55) -/
def moveTrap (s : State) (c : Ctx) (store : Bool) (sh : BitVec 64) (op : EngOp) : Option Trap :=
  let r := op.record
  let f := shFormat sh
  let b := formatBits f
  let c0 := coord op 0
  if f ≠ recFormat r ∨ shGroup sh ≠ recGroup r ∨ 32 * shCols sh % b ≠ 0 ∨ (f = 4 ∧ 16 < shCols sh) ∨
      (groupedFormat f ∧ c0 % (groupSize (recGroup r) : Int) ≠ 0) ∨ (store ∧ (recIm2col r ∨ groupedFormat f)) then
    some ⟨.tileShape, 0, 0, 0⟩
  else if (b = 4 ∧ c0 % 2 ≠ 0) ∨ (b = 1 ∧ c0 % 8 ≠ 0) then
    some ⟨.misaligned, 0, detailWord false ((lanesOf c.f.mask).head?.getD 0) (b2n store) 0 0 0 0 0, 0⟩
  else if store ∧ (List.range (shRows sh)).any (fun i => (rowElems op i).any (fun x =>
      inWindow (BitVec.ofNat 64 (x.2 / 8)) && typedRange s c.g (x.2 / 8) (max 1 (b / 8)))) then some ⟨.barrierClobber, 0, 0, 0⟩
  else none

/-- A transfer at issue: its checks in order, then its operation. -/
def tileMove (i : Instr) (h : Hdr) (store : Bool) (q b : BitVec 6) (t : BitVec 4) (s : State) : State :=
  plain i h s (fun c s =>
    let (x, s) := takeScalar s c (numN c.x.hb b.toNat)
    let m := sregOf (numN c.x.hc q.toNat)
    if c.g.migrated then .error ⟨.migratedAccess, 0, 0, 0⟩
    else if rota s c.o 5 = 0 then .error ⟨.illegalOp, 0, 0, 0⟩
    else if !holdsTile s c t.toNat then .error ⟨.illegalReg, 0, 0, 0⟩
    else match handleTrap (block s c.g.block) x false, handleAt (block s c.g.block) x with
      | some cause, _ => .error ⟨cause, 0, 0, 0⟩
      | none, none => .error ⟨.handleInvalid, 0, 0, 0⟩
      | none, some hd =>
        let key := tileKey c.k t.toNat
        let sh := (tileAt (block s c.g.block) key).shape
        let op := { opOf s c 2 (if store then .tst else .tld) with
          tiles := [key], shapes := [sh], record := hd.record, coords := (List.range 4).map (fun j => rs c.g (m + j)) }
        match moveTrap s c store sh op with
        | some e => .error e
        | none => .ok (wakeTiles (beginOp s op) c.g.block))

def execTld (h : Hdr) (q b : BitVec 6) (t : BitVec 4) (s : State) : Answer := .next (tileMove (.tld h q b t) h false q b t s)
def execTst (h : Hdr) (q b : BitVec 6) (t : BitVec 4) (s : State) : Answer := .next (tileMove (.tst h q b t) h true q b t s)

/-- The lines of a transfer, presented four to a clock in request order; each is looked up as it is presented (R303, R411). -/
def postLines (s : State) (id : Nat) (op : EngOp) (write : Option (BitVec 32768)) : State :=
  op.lines.zipIdx.foldl (fun s l =>
    let va := (l.1.copies.head?.map (·.1)).getD 0
    let at_ := s.clock + l.2 / 64 * 16 + l.2 % 64 / 4
    let n := s.nextId
    let a := match write with
      | none => lineAccess s op id l.2 [readReq 0 va 0 128] at_ false
      | some d =>
        let x := storeLine op d (lineOf va)
        { lineAccess s op id l.2 [⟨8, va, 0, 0⟩] at_ false with got := [(8, x.1), (9, x.2)], unperformed := 1 }
    post (tick { s with accs := mset s.accs n a }) at_ (.coreTlbLookup n)) s

/-- R303: a transfer starts in its first position. A `tst` reads its box from the tile now. -/
def execTileTransferStart (id : Nat) (s : State) : Answer :=
  .next (match mfind s.ops id with
  | none => s
  | some op =>
    if vacant s op.owner 5 then post s (boundary s.clock) (.tileTransferStart id)
    else
      let key := op.tiles.head?.getD 0
      let x := tileAt (block s op.block) key
      if op.kind = .tst then
        if x.poisoned then engineFault s id ⟨.uncorrectable, 0, 0, 0⟩
        else if op.lines.isEmpty then post s (s.clock + 16) (.engineWritePresent id)
        else postLines s id op (some x.data)
      else
        let s := modTile s op.block key (fun y => { y with data := 0, side := 0, poisoned := false })
        if op.lines.isEmpty then post s (s.clock + 16) (.tldRetire id) else postLines s id op none)

/-- A line's bytes enter the tile; the last one's retires the operation 2 clocks later. -/
def tileArrive (s : State) (id : Nat) (i : Nat) (xs : List (BitVec 8)) : State :=
  let op := mget s.ops id
  let key := op.tiles.head?.getD 0
  let line := lineOf (((op.lines.getD i default).copies.head?.map (·.1)).getD 0)
  let s := modTile s op.block key (fun y => { y with data := readLineOf op y.data line xs, side := loadSide op y.side line xs })
  let s := modOp s id (fun o => { o with nextWrite := o.nextWrite + 1 })
  if (mget s.ops id).nextWrite = op.left then post s (s.clock + 2) (.tldRetire id) else s

/-- The index of a line's access. -/
def AccKind.index : AccKind → Nat
  | .line _ i => i
  | _ => 0

/-- The trap of the first line of an operation that has failed, if no write of a line before it is outstanding (R340). -/
def opTrap (s : State) (id : Nat) : Option Trap :=
  match (opAccs s id).find? (fun e => e.2.checked && !e.2.faults.isEmpty) with
  | some e => if (opAccs s id).any (fun x => x.2.kind.index < e.2.kind.index && x.2.unperformed != 0) then none else lineTrap e.2
  | none => none

/-- R303: read data reaches the array: the first line in request order of which it has come. A line that failed is fatal. -/
def execTldDataArrival (id : Nat) (s : State) : Answer :=
  .next (match mfind s.ops id with
  | none => s
  | some op =>
    if op.dead then s
    else match opTrap s id with
    | some t => engineFault s id t
    | none =>
      match (opAccs s id).find? (fun e => e.2.has 0) with
      | some (n, a) => tileArrive (dropAccess s n) id a.kind.index (bytesOf 128 (a.piece 0).toNat)
      | none => s)

/-- R303: the `tld` retires; padding of a grouped tensor is in place (R192). -/
def execTldRetire (id : Nat) (s : State) : Answer :=
  .next (match mfind s.ops id with
  | none => s
  | some op =>
    retireTile (modTile s op.block (op.tiles.head?.getD 0) (fun y => { y with data := padGroups op y.data y.side })) id)

/-- A `tst` retires when its last write has been performed, or acknowledged (R303); a line that failed is fatal once those
before it are written (R340). -/
def storeEnd (s : State) (id : Nat) : State :=
  match opTrap s id with
  | some t => engineFault s id t
  | none => if (opAccs s id).isEmpty then retireTile s id else s

/-! `mma` (R304, R305). -/

/-- Tiles of D: one, or a pair for FP64. -/
def dTiles (s : State) (c : Ctx) (d : Nat) : List Nat :=
  if shFormat (tileAt (block s c.g.block) (tileKey c.k d)).shape = 8 then [d, d + 1] else [d]

/-- The checks of R304 from the fourth on. -/
def mmaTrap (s : State) (c : Ctx) (semiring d a b : Nat) : Option Trap :=
  let sh (t : Nat) : BitVec 64 := (tileAt (block s c.g.block) (tileKey c.k t)).shape
  let ds := dTiles s c d
  if !(holdsTile s c a && holdsTile s c b && holdsTile s c d) then some ⟨.illegalReg, 0, 0, 0⟩
  else if ds.length = 2 ∧ (d % 2 = 1 ∨ !holdsTile s c (d + 1)) then some ⟨.illegalReg, 0, 0, 0⟩
  else match mmaRow semiring (shFormat (sh a)) (shFormat (sh b)) with
    | none => some ⟨.tileShape, 0, 0, 0⟩
    | some (f, k) =>
      if shK (sh a) ≠ k ∨ shK (sh b) ≠ k ∨ shFormat (sh d) ≠ f ∨ ds.any (fun t => t == a || t == b) then some ⟨.tileShape, 0, 0, 0⟩
      else none

def execMma (h : Hdr) (q b : BitVec 4) (r : BitVec 2) (d : BitVec 4) (s : State) : Answer :=
  .next (plain (.mma h q b r d) h s (fun c s =>
    let ta := b.toNat
    let tb := q.toNat
    let td := d.toNat
    if c.g.migrated then .error ⟨.migratedAccess, 0, 0, 0⟩
    else if rota s c.o 5 = 0 then .error ⟨.illegalOp, 0, 0, 0⟩
    else match mmaTrap s c r.toNat td ta tb with
      | some t => .error t
      | none =>
        let key (t : Nat) : Nat := tileKey c.k t
        let sh (t : Nat) : BitVec 64 := (tileAt (block s c.g.block) (key t)).shape
        let op := { opOf s c 2 .mma with
          tiles := (dTiles s c td).map key ++ [key ta, key tb], shapes := [sh td, sh ta, sh tb], semiring := r.toNat
          left := mmaPositions r.toNat (shFormat (sh tb)) }
        .ok (wakeTiles (beginOp s op) c.g.block)))

/-- D is written at the end of the last position; a tile in error beyond correction is fatal (R54). -/
def mmaDone (s : State) (id : Nat) (op : EngOp) : State :=
  let b := block s op.block
  let n := op.tiles.length - 2
  let ds := op.tiles.take n
  let ka := op.tiles.getD n 0
  let kb := op.tiles.getD (n + 1) 0
  if op.tiles.any (fun t => (tileAt b t).poisoned) then engineFault s id ⟨.uncorrectable, 0, 0, 0⟩
  else
    let out := mmaResult op.semiring (ds.map (fun t => (tileAt b t).data)) (tileAt b ka).data (tileAt b kb).data (tileAt b kb).side
      (op.shapes.getD 1 0) (op.shapes.getD 2 0)
    retireTile ((ds.zip out).foldl (fun s e => modTile s op.block e.1 (fun y => { y with data := e.2 })) s) id

/-- R305: an `mma` has taken a position. -/
def execMmaPosition (id : Nat) (s : State) : Answer :=
  .next (match mfind s.ops id with
  | none => s
  | some op =>
    if vacant s op.owner 5 then post s (boundary s.clock) (.mmaPosition id)
    else if op.left ≤ 1 then mmaDone s id op
    else modOp s id (fun o => { o with left := o.left - 1 }))

/-! `tops` (R306). -/

/-- sB lies outside 1 to 16. -/
def badCount (x : BitVec 64) : Bool := x.toNat < 1 || 16 < x.toNat

def execTalloc (h : Hdr) (b : BitVec 6) (s : State) : Answer :=
  .next (plain (.talloc h b) h s (fun c s =>
    let (x, s) := takeScalar s c (numN c.x.hb b.toNat)
    if c.g.migrated then .error ⟨.migratedAccess, 0, 0, 0⟩
    else if badCount x then .error ⟨.illegalOp, 0, 0, 0⟩
    else if tileQuota s c.o < x.toNat then .ok (send s c (c.n + 1) [.k 0 false] [] true)
    else
      let w := (partOf c.k, s.nextId, c.k, c.f.id, x.toNat)
      let s := modBlock (tick s) c.g.block (fun y => { y with wants := y.wants ++ [w] })
      let s := modGroup s c.k (fun g => modFrag g c.f.id (fun f => { f with status := .talloc }))
      .ok (serveTallocs s c.o (coreKey c.k) (partOf c.k))))

def execTfree (h : Hdr) (b : BitVec 6) (s : State) : Answer :=
  .next (plain (.tfree h b) h s (fun c s =>
    let (x, s) := takeScalar s c (numN c.x.hb b.toNat)
    let part := partOf c.k
    if c.g.migrated then .error ⟨.migratedAccess, 0, 0, 0⟩
    else if badCount x || tilesHeld (block s c.g.block) part < x.toNat then .error ⟨.illegalOp, 0, 0, 0⟩
    else
      let s := giveBack s c.g.block part x.toNat
      let last := (mget (block s c.g.block).freeing part).getLast?.getD 0
      let s := modGroup s c.k (fun g => modFrag g c.f.id (fun f => { f with status := .tfree last }))
      .ok (pumpFree s c.g.block part (s.clock + 1))))

/-- What the operations on one tile check first. -/
def oneTile (c : Ctx) (t : Nat) (s : State) (run : State → Except Trap State) : Except Trap State :=
  if c.g.migrated then .error ⟨.migratedAccess, 0, 0, 0⟩
  else if !holdsTile s c t then .error ⟨.illegalReg, 0, 0, 0⟩
  else run s

def execTzero (h : Hdr) (t : BitVec 4) (s : State) : Answer :=
  .next (plain (.tzero h t) h s (fun c s => oneTile c t.toNat s (fun s =>
    .ok (modTile s c.g.block (tileKey c.k t.toNat) (fun y => { y with data := 0, side := 0, poisoned := false })))))

/-- DEDUCED, log entry 53. -/
def execTrowget (h : Hdr) (t : BitVec 4) (a : BitVec 6) (s : State) : Answer :=
  .next (plain (.trowget h t a) h s (fun c s => oneTile c t.toNat s (fun s =>
    let y := tileAt (block s c.g.block) (tileKey c.k t.toNat)
    if y.poisoned then .error ⟨.uncorrectable, 0, 0, 0⟩
    else
      let ws := (lineElems (tileLine y.data c.x.x.toNat) 32 32).zipIdx.filterMap (fun e =>
        if c.lanes.getLsbD e.2 then some (RegWrite.v a.toNat e.2 (BitVec.ofNat 32 e.1)) else none)
      .ok (send s c (c.n + 1) ws [] true))))

def execTrowset (h : Hdr) (t : BitVec 4) (a : BitVec 6) (s : State) : Answer :=
  .next (plain (.trowset h t a) h s (fun c s => oneTile c t.toNat s (fun s =>
    let word (l : Nat) : Nat := if c.lanes.getLsbD l then (rv c.g a.toNat l).toNat else 0
    .ok (modTile s c.g.block (tileKey c.k t.toNat) (fun y => { y with
      data := putBits y.data (1024 * c.x.x.toNat) 1024 (((List.range 32).map (fun l => word l * 2 ^ (32 * l))).sum) })))))

end Sys2Proof.Machine
end

