-- ==== Sys2Proof/Machine/Refire.lean ====
section
/-! DEFINITION. The Refire sequencer: the arithmetic of a run (R315 to R318), its steps and positions (R322 to R324), its
exits (R319, R320), and the `rfire` instructions (R311 to R314). -/

namespace Sys2Proof.Machine

/-! Arithmetic in a rung's precision (R316, R318). -/

/-- The format of a ladder byte. -/
def rungFmt (f : Nat) : Fmt := match f with | 5 => fp16 | 6 => bf16 | 7 => fp32 | _ => fp64

/-- round_P of an FP64 container. -/
def roundP (P : Fmt) (x : Nat) : Nat := if P = fp64 then x else (fConvert P fp64 0 (fConvert fp64 P 0 x).bits).bits

/-- An operation of P on containers that hold values of P, rounded once. -/
def opP (P : Fmt) (f : Fmt → Nat → Nat → Nat → FpRes) (x y : Nat) : Nat :=
  if P = fp64 then (f fp64 0 x y).bits
  else (fConvert P fp64 0 (f P 0 (fConvert fp64 P 0 x).bits (fConvert fp64 P 0 y).bits).bits).bits

/-- round_P(a − round_P(l × u)). -/
def stepP (P : Fmt) (a l u : Nat) : Nat := opP P fSub a (opP P fMul l u)

/-- Magnitude bits, and order with a NaN above every number. -/
def mag64 (x : Nat) : Nat := x % 2 ^ 63
def nan64 (x : Nat) : Bool := fp64.inf < mag64 x

/-- The maximum magnitude, NaN if any is (R317). -/
def norm64 (xs : List Nat) : Nat := if xs.any nan64 then fp64.nan else (xs.map mag64).foldl max 0

/-- A matrix row by row. -/
abbrev Mat := List (List Nat)

def cell (m : Mat) (i j : Nat) : Nat := (m.getD i []).getD j 0

/-- The first row of maximal magnitude in column k; a NaN ranks above every number. -/
def pivotRow (m : Mat) (k : Nat) : Nat :=
  let rank (i : Nat) : Nat := if nan64 (cell m i k) then 2 ^ 63 else mag64 (cell m i k)
  (List.range m.length).foldl (fun p i => if rank p < rank i then i else p) 0

def swapAt {α : Type} [Inhabited α] (l : List α) (i j : Nat) : List α :=
  (l.set i (l.getD j default)).set j (l.getD i default)

/-- A diagonal element that makes the factor singular. -/
def badPivot (x : Nat) : Bool := mag64 x = 0 || fp64.inf ≤ mag64 x

/-- Column k of the factor on rows k to n − 1: the rows, the pivot's place among them, and whether it is singular there
(R316). -/
def factorColumn (P : Fmt) (m : Mat) (k : Nat) : Mat × Nat × Bool :=
  let p := pivotRow m k
  let m := swapAt m 0 p
  let rk := m.head?.getD []
  let d := rk.getD k 0
  if badPivot d then (m, p, true)
  else
    (rk :: m.tail.map (fun r =>
      let l := opP P fDiv (r.getD k 0) d
      r.zipIdx.map (fun e => if e.2 < k then e.1 else if e.2 = k then l else stepP P e.1 l (rk.getD e.2 0))), p, false)

/-- r := b − A x by fma in increasing j (R317). -/
def residual64 (a : Mat) (b x : List Nat) : List Nat :=
  (a.zip b).map (fun r => (r.1.zip x).foldl (fun s e => (fFma fp64 0 s (flipSign fp64 e.1) e.2).bits) r.2)

/-- d of L U d = P·round_P(r) (R318). -/
def solveP (P : Fmt) (m : Mat) (piv r : List Nat) (n : Nat) : List Nat :=
  let y := r.map (roundP P)
  let y := (List.range (n - 1)).foldl (fun y k => swapAt y k (piv.getD k k)) y
  let y := (List.range n).foldl (fun y i =>
    y.set i ((List.range i).foldl (fun v j => stepP P v (cell m i j) (y.getD j 0)) (y.getD i 0))) y
  (List.range n).foldl (fun y d =>
    let i := n - 1 - d
    let v := (List.range (n - 1 - i)).foldl (fun v e => let j := n - 1 - e; stepP P v (cell m i j) (y.getD j 0)) (y.getD i 0)
    y.set i (opP P fDiv v (cell m i i))) y

/-- FP64 comparisons. -/
def le64 (a b : Nat) : Bool := (fCompare fp64 3 a b).1
def gt64 (a b : Nat) : Bool := (fCompare fp64 4 a b).1

/-! Memory of a run (R321, R322). -/

def runSize (x : RefRun) : Nat := refN x.record
def aAddr (x : RefRun) (i j : Nat) : Nat := refA x.record + 8 * (refLda x.record * i + j)
def fAddr (x : RefRun) (i j : Nat) : Nat := refWork x.record + 8 * (runSize x * i + j)
def rAddr (x : RefRun) (i : Nat) : Nat := refWork x.record + 8 * runSize x * runSize x + 8 * i
def xAddr (x : RefRun) (i : Nat) : Nat := refX x.record + 8 * i
def bAddr (x : RefRun) (i : Nat) : Nat := refB x.record + 8 * i

/-- Addresses of an n × m grid. -/
def grid (rows cols : List Nat) (f : Nat → Nat → Nat) : List Nat := rows.flatMap (fun i => cols.map (f i))
def upTo (n : Nat) : List Nat := List.range n
/-- k to n − 1. -/
def fromTo (k n : Nat) : List Nat := (List.range (n - k)).map (· + k)

/-- Addresses that a step reads. -/
def stepReads (x : RefRun) : List Nat :=
  let n := runSize x
  let all := grid (upTo n) (upTo n)
  match x.phase with
  | .start | .residual => all (aAddr x) ++ (upTo n).map (bAddr x) ++ (upTo n).map (xAddr x)
  | .load => all (aAddr x)
  | .factor => grid (fromTo x.index n) (upTo n) (fAddr x)
  | .pivotTest => [fAddr x (n - 1) (n - 1)]
  | .tests | .leave _ _ => []
  | .correct => all (fAddr x) ++ (upTo n).map (rAddr x) ++ (upTo n).map (xAddr x)

/-- 128-byte lines of some addresses, each once. -/
def linesOf (as : List Nat) : List Nat := squeeze (sortBy (fun a b => a ≤ b) (as.map (· / 128)))

/-- Lines that a step has read, by number. -/
abbrev Lines := List (Nat × BitVec 1024)

def stepLines (s : State) (id : Nat) : Lines :=
  (opAccs s id).filterMap (fun e => if e.2.has 0 then some (lineOf (reqOf e.2 0).va, e.2.piece 0) else none)

/-- An element among the lines read. -/
def elemAt (m : Lines) (a : Nat) : Nat := ext (((m.find? (fun l => l.1 == a / 128)).map (·.2)).getD 0) (8 * (a % 128)) 64
def matOf (m : Lines) (rows cols : List Nat) (f : Nat → Nat → Nat) : Mat := rows.map (fun i => cols.map (fun j => elemAt m (f i j)))

/-- A byte lies in a barrier-typed granule, which no run writes (R128). (DEDUCED, log entry 57) -/
def typedByte (s : State) (op : EngOp) (a : Nat) : Bool :=
  match (if inWindow (BitVec.ofNat 64 a) then windowTarget s op.block (BitVec.ofNat 64 a) else none) with
  | some (b, off) => typedAt (block s b) off 1
  | none => false

/-- Bytes to write, by address, as lines with their masks. -/
def writtenLines (s : State) (op : EngOp) (bs : List (Nat × BitVec 8)) : List (Nat × BitVec 128 × BitVec 1024) :=
  let bs := bs.filter (fun e => !typedByte s op e.1)
  (linesOf (bs.map (·.1))).map (fun l =>
    let mine := bs.filter (fun e => e.1 / 128 == l)
    (l, mine.foldl (fun m e => m ||| byteMask (e.1 % 128) 1) 0,
      mine.foldl (fun (d : BitVec 1024) e => putBits d (8 * (e.1 % 128)) 8 e.2.toNat) 0))

/-- The bytes of elements to write. -/
def elemBytes (ws : List (Nat × Nat)) : List (Nat × BitVec 8) :=
  ws.flatMap (fun e => (bytesOf 8 e.2).zipIdx.map (fun b => (e.1 + b.2, b.1)))

/-- Lines of a run in flight: reads whose data has not come, writes not performed. -/
def runInFlight (s : State) (id : Nat) : Nat :=
  ((opAccs s id).filter (fun e => e.2.unperformed != 0 || (e.2.reqs.any (fun r => r.lane == 0) && !e.2.has 0))).length

/-- The next line of a run is presented: four in a clock, at most 16 in flight, none behind one that waits for its translation
(R322, R411). -/
def presentRun (s : State) (id : Nat) : State :=
  let op := mget s.ops id
  match op.pend with
  | [] => s
  | (l, mask, data) :: rest =>
    let sent := if op.nextRead = s.clock then op.half else 0
    if 4 ≤ sent ∨ 16 ≤ runInFlight s id ∨ (opAccs s id).any (fun e => !e.2.checked || !e.2.faults.isEmpty) then s
    else
      let s := modOp s id (fun o => { o with pend := rest, nextRead := s.clock, half := sent + 1 })
      let va := BitVec.ofNat 64 (l * 128)
      if mask = 0 then openLine s (lineAccess s op id 0 [readReq 0 va 0 128] s.clock false)
      else openLine s { lineAccess s op id 0 [⟨8, va, 0, 0⟩] s.clock false with got := [(8, data), (9, bitMask mask)], unperformed := 1 }

/-- The lines that a step has read are let go. -/
def dropReads (s : State) (id : Nat) : State :=
  { s with accs := s.accs.filter (fun e => !(e.2.kind.lineOf id && e.2.unperformed == 0 && e.2.has 0)) }

/-! Runs. -/

def modRun (s : State) (id : Nat) (f : RefRun → RefRun) : State := { s with runs := mmod s.runs id f }

def tolAbs (x : RefRun) : Nat := field x.record 0x30 8
def tolRel (x : RefRun) : Nat := field x.record 0x38 8
def rho (x : RefRun) : Nat := let r := field x.record 0x40 8; if r = 0 then 0x3FE0000000000000 else r
def delta (x : RefRun) : Nat := let r := field x.record 0x48 8; if r = 0 then 0x4010000000000000 else r
def rungOf (x : RefRun) : Fmt := rungFmt (refRung x.record x.rung)
def w64 (n : Nat) : BitVec 64 := BitVec.ofNat 64 n

/-- Exit codes of R319. -/
inductive Exit where
  | converged | stagnated | diverged | iterLimit | singular | aborted
deriving DecidableEq, Repr

def Exit.code : Exit → Nat
  | .converged => 0 | .stagnated => 1 | .diverged => 2 | .iterLimit => 3 | .singular => 4 | .aborted => 5

/-- The policy's action: 0 return, 1 escalate, 2 trap (R309). -/
def policyFor (x : RefRun) : Exit → Nat
  | .singular => refPolicy x.record / 64 % 4
  | .iterLimit => refPolicy x.record / 16 % 4
  | .diverged => refPolicy x.record / 4 % 4
  | .stagnated => refPolicy x.record % 4
  | _ => 0

/-- The exit that the tests decide, in their order (R315). -/
def decideExit (x : RefRun) : Option Exit :=
  if x.singular then some .singular
  else if x.skip then none
  else if le64 x.eta.toNat x.thr.toNat then some .converged
  else if fp64.inf ≤ mag64 x.eta.toNat || gt64 x.eta.toNat (fMul fp64 0 (delta x) x.eta0.toNat).bits then some .diverged
  else if refStag x.record ≤ x.s then some .stagnated
  else if x.it = refLimit x.record then some .iterLimit
  else none

/-- After the decisions: a factor, or the next correction. -/
def toWork (x : RefRun) : RefRun := { x with phase := if x.factored then .correct else .load, skip := false, index := 0 }

/-- Tests and decision: the run goes on, or it exits under an action. (DEDUCED, log entry 57) -/
def decideStep (x : RefRun) : RefRun × Option (Exit × Nat) :=
  match decideExit x with
  | none => (toWork x, none)
  | some e =>
    let act := if e = .converged then 0 else policyFor x e
    let act := if act = 1 ∧ x.rung + 1 = refRungs x.record then 0 else act
    if act = 1 then (toWork { x with rung := x.rung + 1, it := 0, s := 0, factored := false, singular := false }, none)
    else (x, some (e, act))

/-- A residual's values and writes. -/
def residualStep (x : RefRun) (op : Lines) : List Nat :=
  let n := upTo (runSize x)
  residual64 (matOf op n n (aAddr x)) (n.map (fun i => elemAt op (bAddr x i))) (n.map (fun i => elemAt op (xAddr x i)))

/-- One step of R322 on the lines it has read: the run after it, what it writes, and an exit. (DEDUCED, log entry 57) -/
def refStep (x : RefRun) (op : Lines) : RefRun × List (Nat × Nat) × Option (Exit × Nat) :=
  let n := runSize x
  let P := rungOf x
  match x.phase with
  | .start =>
    let beta := norm64 ((upTo n).map (fun i => elemAt op (bAddr x i)))
    let r := residualStep x op
    let eta := w64 (norm64 r)
    ({ x with phase := .tests, beta := w64 beta, eta := eta, eta0 := eta, etaPrev := eta, hasEta := true
              thr := w64 (fAdd fp64 0 (tolAbs x) (fMul fp64 0 (tolRel x) beta).bits).bits },
      r.zipIdx.map (fun e => (rAddr x e.2, e.1)), none)
  | .load =>
    ({ x with phase := if n = 1 then .pivotTest else .factor, index := 0, piv := [] },
      (grid (upTo n) (upTo n) (fun i j => i * n + j)).map (fun e => (fAddr x (e / n) (e % n), roundP P (elemAt op (aAddr x (e / n) (e % n))))), none)
  | .factor =>
    let k := x.index
    let (m, p, bad) := factorColumn P (matOf op (fromTo k n) (upTo n) (fAddr x)) k
    let y := { x with piv := x.piv ++ [k + p], singular := bad, index := k + 1,
                      phase := if bad then .tests else if k + 2 < n then .factor else .pivotTest }
    (y, m.zipIdx.flatMap (fun r => r.1.zipIdx.map (fun e => (fAddr x (k + r.2) e.2, e.1))), none)
  | .pivotTest =>
    if badPivot (elemAt op (fAddr x (n - 1) (n - 1))) then ({ x with singular := true, phase := .tests }, [], none)
    else ({ x with factored := true, phase := .correct, index := 0 }, [], none)
  | .tests => let (y, e) := decideStep x; (y, [], e)
  | .leave _ _ => (x, [], none)
  | .correct =>
    let d := solveP P (matOf op (upTo n) (upTo n) (fAddr x)) x.piv ((upTo n).map (fun i => elemAt op (rAddr x i))) n
    ({ x with phase := .residual, total := x.total + 1, it := x.it + 1 },
      d.zipIdx.map (fun e => (rAddr x e.2, e.1)) ++
      d.zipIdx.map (fun e => (xAddr x e.2, (fAdd fp64 0 (elemAt op (xAddr x e.2)) e.1).bits)), none)
  | .residual =>
    let r := residualStep x op
    let eta := norm64 r
    ({ x with phase := .tests, etaPrev := x.eta, eta := w64 eta
              s := if gt64 eta (fMul fp64 0 (rho x) x.eta.toNat).bits then x.s + 1 else 0 },
      r.zipIdx.map (fun e => (rAddr x e.2, e.1)), none)

/-! Positions (R322). -/

def ceilDiv (a b : Nat) : Nat := (a + b - 1) / b

/-- Elements a TIL position updates. -/
def unitU (f : Nat) : Nat := match f with | 5 | 6 => 1024 | 7 => 512 | _ => 256

/-- ISS and TIL positions of a step. -/
def stepPositions (x : RefRun) : Nat × Nat :=
  let n := runSize x
  let u := unitU (refRung x.record x.rung)
  match x.phase with
  | .start => (ceilDiv n 16 + 1, ceilDiv (n * n) 256)
  | .load => (0, ceilDiv (n * n) u)
  | .factor => let k := x.index; (ceilDiv (n - k) 16 + ceilDiv (n - k - 1) 16, ceilDiv ((n - k - 1) * (n - k - 1)) u)
  | .pivotTest | .tests => (1, 0)
  | .leave _ _ => (0, 0)
  | .correct => (2 * n + ceilDiv n 16, 2 * ceilDiv (n * (n - 1)) (2 * u))
  | .residual => (ceilDiv n 16, ceilDiv (n * n) 256)

/-- Takes `n` positions of a table under a claim that begin after a clock: the end of the last. (DEDUCED, log entry 10) -/
def takeRun (s : State) (o t key n clock : Nat) : Nat × State :=
  if n = 0 then (clock, s)
  else
    let last := nthPosition s o t (n - 1) (max (clock + 1) (mget s.claims key)) + posLen t
    (last, { s with claims := mset s.claims key last })

/-- The phases with step boundaries inside them (R324). -/
def hasInner (x : RefRun) : Bool := match x.phase with | .start | .residual | .correct => true | _ => false

/-- A step boundary stands behind a step's p-th ISS position: between rows of a residual or of a substitution, and for a
save between elements of the update of x, which an abort lets complete (R314, R324). (DEDUCED, log entry 57) -/
def breakable (x : RefRun) (p : Nat) (save : Bool) : Bool :=
  let n := runSize x
  let q := ceilDiv n 16
  match x.phase with
  | .start | .residual => 1 ≤ p && p < q
  | .correct => (1 ≤ p && p < 2 * n) || (save && 2 * n < p && p < 2 * n + q)
  | _ => false

/-- The array's key of a run's partition. -/
def RefRun.partKey (x : RefRun) : Nat := (32 * x.die + x.core) * 4 + x.part

/-- The run's step takes `t` TIL positions that begin after a clock. -/
def takeArray (s : State) (id t at_ : Nat) : State :=
  let x := mget s.runs id
  let (b, s) := takeRun s x.owner 5 (claimKey x.owner 5 x.partKey) t at_
  modRun s id (fun y => { y with tilEnd := b, tilLeft := t })

/-- And `i` ISS positions; it is looked at again when the first passes, or when all have. (DEDUCED, log entry 57) -/
def takeIssue (s : State) (id i at_ : Nat) : State :=
  let x := mget s.runs id
  let key := pathKey x.owner x.g 2
  let first := nthPosition s x.owner x.part 0 (max (at_ + 1) (mget s.claims key)) + posLen x.part
  let (a, s) := takeRun s x.owner x.part key i at_
  let inner := hasInner x && 1 < i
  post (modRun s id (fun y => { y with issLeft := if inner then i - 1 else 0, issTaken := i })) (if inner then first else max a x.tilEnd) (.refireStep id)

/-- A step takes its positions. -/
def takeStep (s : State) (id i t at_ : Nat) : State := takeIssue (takeArray s id t at_) id i at_

/-- The run of an operation. -/
def runOf (s : State) (op : Nat) : Option (Nat × RefRun) := s.runs.find? (fun e => e.2.op == op)

/-- A step whose reads have all come takes its positions, or what a save left of them (R324). (DEDUCED, log entry 57) -/
def computeStep (s : State) (id : Nat) : State :=
  let x := mget s.runs id
  let (i, t) := if x.issLeft = 0 then stepPositions x else (x.issLeft, x.tilLeft)
  takeStep (modOp s x.op (fun o => { o with started := false })) id i t s.clock

/-- The sequencer presents what it can; a step whose reads have come computes; a run that leaves and has written its out fields
retires; a line that failed is fatal (R322, R340). -/
def pumpRun (s : State) (id : Nat) : State :=
  match opTrap s id with
  | some t => engineFault s id t
  | none =>
    let s := (List.range 4).foldl (fun s _ => presentRun s id) s
    let op := mget s.ops id
    if !op.pend.isEmpty then
      if op.nextRead = s.clock ∧ 4 ≤ op.half ∧ !s.agenda.any (fun e => e.1 == s.clock + 1 && e.2 == .engineWritePresent id) then
        post s (s.clock + 1) (.engineWritePresent id)
      else s
    else match runOf s id with
      | none => s
      | some (r, x) =>
        match x.phase with
        | .leave _ _ => if (opAccs s id).any (fun e => e.2.unperformed != 0) then s else post s s.clock (.refireStep r)
        | _ =>
          if op.started && (opAccs s id).all (fun e => e.2.unperformed != 0 || e.2.has 0 || e.2.reqs.any (fun q => q.lane == 8)) then computeStep s r
          else s

/-- The run's next step presents its reads, behind what the step before writes. (DEDUCED, log entry 10) -/
def scheduleStep (s : State) (id : Nat) (written : List (Nat × BitVec 128 × BitVec 1024)) : State :=
  let x := mget s.runs id
  let reads := (linesOf (stepReads x)).map (fun l => (l, (0 : BitVec 128), (0 : BitVec 1024)))
  let s := modOp s x.op (fun o => { o with pend := o.pend ++ written ++ reads, started := !reads.isEmpty })
  pumpRun (if reads.isEmpty then computeStep s id else s) x.op

/-- A step goes on after a save: it reads its lines anew, and takes the rest of its positions if it was broken off (R324).
(DEDUCED, log entry 57) -/
def resumeStep (s : State) (id : Nat) : State := scheduleStep s id []

/-! Queueing and exits. -/

/-- The owner's runs on a core in a state. -/
def runsIn (s : State) (o core st : Nat) : List (Nat × RefRun) :=
  s.runs.filter (fun e => e.2.owner == o && 32 * e.2.die + e.2.core == core && e.2.state == st)

/-- The oldest queued run: by clock of its `go`, then partition, then port (R323). -/
def oldestRun (s : State) (o core : Nat) : Option Nat :=
  let key (e : Nat × RefRun) : Nat := (e.2.at_ * 4 + e.2.part) * 2 + slotOf e.2.g % 2
  ((sortBy (fun a b => key a ≤ key b) (runsIn s o core 1)).head?).map (·.1)

/-- The status's 16-bit iteration count. -/
def iterations (x : RefRun) : Nat := min x.total 65535

/-- `%tinfo` of a REFIRE_EXIT (R320). -/
def exitInfo (x : RefRun) (code : Nat) : BitVec 64 := w64 (code + 256 * x.rung + 2 ^ 16 * x.handle + 2 ^ 32 * iterations x)

/-- The run retires; under the trap action it leaves a REFIRE_EXIT pending; the next one may start (R320, R323). -/
def retireRun (s : State) (id code act : Nat) : State :=
  let x := mget s.runs id
  let s := modRun s id (fun y => { y with state := 3, exit := BitVec.ofNat 8 code })
  let s := if act = 2 then modGroup s x.g (fun g => { g with exits := g.exits ++ [exitInfo x code] }) else s
  let s := retireOp s x.op
  match oldestRun s x.owner (32 * x.die + x.core) with
  | some n => post s (s.clock + 1) (.refireRunStart n)
  | none => s

/-- The out fields (R319). -/
def outFields (x : RefRun) (code : Nat) : List (BitVec 8) :=
  bytesOf 1 code ++ bytesOf 1 x.rung ++ bytesOf 2 (iterations x) ++ bytesOf 4 0 ++
  bytesOf 8 (if x.hasEta then x.eta.toNat else 0) ++ bytesOf 8 (if x.hasEta then x.eta0.toNat else 0)

/-- Address of the out fields in the command block. -/
def outVa (x : RefRun) : BitVec 64 := x.va + 0x50

/-- The run exits: its out fields are presented, after what its last step writes. -/
def exitRun (s : State) (id : Nat) (e : Exit) (act : Nat) (written : List (Nat × BitVec 128 × BitVec 1024)) : State :=
  let s := modRun s id (fun x => { x with phase := .leave e.code act, issLeft := 0 })
  let x := mget s.runs id
  let out := writtenLines s (mget s.ops x.op) ((outFields x e.code).zipIdx.map (fun b => ((outVa x).toNat + b.2, b.1)))
  pumpRun (modOp (dropReads s x.op) x.op (fun o => { o with pend := o.pend ++ written ++ out, started := false })) x.op

/-- Its out fields are written, and the run retires. -/
def leaveRun (s : State) (id code act : Nat) : State :=
  let op := (mget s.runs id).op
  if (mget s.ops op).pend.isEmpty ∧ !(opAccs s op).any (fun e => e.2.unperformed != 0) then retireRun s id code act else s

/-- R323: a queued run starts. -/
def execRefireRunStart (id : Nat) (s : State) : Answer :=
  .next (
    let y := mget s.runs id
    let core := 32 * y.die + y.core
    if !(runsIn s y.owner core 2).isEmpty then s
    else match oldestRun s y.owner core with
      | none => s
      | some n => scheduleStep (modRun s n (fun x => { x with state := 2, phase := .start })) n [])

/-- What follows a step: its writes, then an exit or the next step; while the owner is being saved the run stops here (R324).
(DEDUCED, log entry 57) -/
def afterStep (s : State) (id : Nat) (written : List (Nat × BitVec 128 × BitVec 1024)) (e : Option (Exit × Nat)) : State :=
  let x := mget s.runs id
  match e with
  | some (e, act) => exitRun s id e act written
  | none =>
    if x.abort then exitRun s id .aborted 0 written
    else if (owner s x.owner).saving then pumpRun (modOp s x.op (fun o => { o with pend := o.pend ++ written })) x.op
    else scheduleStep s id written

/-- An ISS position inside a step has passed: an abort or a save acts at a step boundary, or the next position passes
(R314, R324). (DEDUCED, log entry 57) -/
def innerStep (s : State) (id : Nat) (x : RefRun) : State :=
  let (i, t) := stepPositions x
  if x.abort && breakable x (i - x.issLeft) false then exitRun s id .aborted 0 []
  else if (owner s x.owner).saving && breakable x (i - x.issLeft) true then
    modRun (dropReads s x.op) id (fun y => { y with tilLeft := positionsIn (rota s x.owner 5) 5 x.tilEnd t s.clock })
  else
    let due := nthPosition s x.owner x.part 0 s.clock + posLen x.part
    post (modRun s id (fun y => { y with issLeft := x.issLeft - 1 })) (if x.issLeft = 1 then max due x.tilEnd else due) (.refireStep id)

/-- R322: a step's reads have come and its positions have passed: it computes and writes. -/
def execRefireStep (id : Nat) (s : State) : Answer :=
  .next (match mfind s.runs id with
  | none => s
  | some x =>
    if (x.state ≠ 2 ∧ x.state ≠ 4) ∨ (mfind s.ops x.op).isNone ∨ (mget s.ops x.op).dead then s
    else match x.phase with
    | .leave code act => leaveRun s id code act
    | _ =>
    if (x.issTaken ≠ 0 ∧ vacant s x.owner x.part) ∨ (x.tilLeft ≠ 0 ∧ vacant s x.owner 5) then post s (boundary s.clock) (.refireStep id)
    else if x.issLeft ≠ 0 then innerStep s id x
    else
      let (y, ws, e) := refStep x (stepLines s x.op)
      let written := writtenLines s (mget s.ops x.op) (elemBytes ws)
      afterStep (modRun (dropReads s x.op) id (fun z => { y with abort := z.abort })) id written e)

/-- R288, R303, R322: a line of an engine has come, or its write is performed: the operation goes on. -/
def execEngineWritePresent (id : Nat) (s : State) : Answer :=
  .next (match mfind s.ops id with
  | none => s
  | some op => if op.dead then s else match op.kind with
    | .tst => storeEnd s id
    | .rfire => pumpRun s id
    | _ => presentCopy s id)

/-! `rfire` (R311 to R314). -/

/-- The ranges that a run of a handle writes: x, the workspace and the out fields (R308). -/
def runWrites (h : Handle) : List (Nat × Nat) :=
  let n := refN h.record
  [(refX h.record, 8 * n), (refWork h.record, 8 * n * n + 8 * n), (h.va.toNat + 0x50, 0x18)]

/-- The checks of R311 from the third on, then that of R128. (DEDUCED, log entry 58) -/
def rfireTrap (s : State) (c : Ctx) (x : BitVec 64) (go : Bool) : Option Trap :=
  let b := block s c.g.block
  if c.g.migrated then some ⟨.migratedAccess, 0, 0, 0⟩
  else if go && rota s c.o 5 == 0 then some ⟨.illegalOp, 0, 0, 0⟩
  else match handleTrap b x true with
    | some cause => some ⟨cause, 0, 0, 0⟩
    | none =>
      let busy := match (handleAt b x).bind (·.run) with
        | some r => [1, 2, 4].contains (mget s.runs r).state
        | none => false
      if go && busy then some ⟨.illegalOp, 0, 0, 0⟩
      else match (handleAt b x).map (fun h => runWrites h) with
        | some l => if go && l.any (fun r => typedRange s c.g r.1 r.2) then some ⟨.barrierClobber, 0, 0, 0⟩ else none
        | none => none

def execRfireGo (h : Hdr) (b : BitVec 6) (s : State) : Answer :=
  .next (plain (.rfireGo h b) h s (fun c s =>
    let (x, s) := takeScalar s c (numN c.x.hb b.toNat)
    match rfireTrap s c x true, handleAt (block s c.g.block) x with
    | some t, _ => .error t
    | none, none => .error ⟨.handleInvalid, 0, 0, 0⟩
    | none, some hd =>
      let id := s.nextId
      let core := coreKey c.k
      let idle := (runsIn s c.o core 1).isEmpty && (runsIn s c.o core 2).isEmpty
      let run : RefRun := { (default : RefRun) with
        op := id + 1, at_ := s.clock, owner := c.o, die := dieOf c.k, core := coreOf c.k, part := partOf c.k, g := c.k
        handle := x.toNat, record := hd.record, va := hd.va, state := 1, phase := .start, exit := 0xFF }
      let s := beginOp (tick { s with runs := mset s.runs id run }) (opOf s c 3 .rfire)
      let s := modBlock s c.g.block (fun y => { y with handles := mset y.handles x.toNat { hd with run := some id } })
      .ok (if idle then post s (s.clock + 1) (.refireRunStart id) else s)))

/-- The status word of R313. (DEDUCED, log entry 105) -/
def statusWord (s : State) (hd : Handle) : BitVec 64 :=
  match hd.run with
  | none => 0xFF
  | some r =>
    let x := mget s.runs r
    w64 (x.exit.toNat + 256 * x.rung + 2 ^ 16 * iterations x + 2 ^ 32 * (if x.state = 4 then 2 else x.state))

/-- A pending REFIRE_EXIT leaves the slot as `rfire.stat` raises it. (DEDUCED, log entry 58) -/
def popExit (s : State) (i : Instr) (h : Hdr) (b : BitVec 6) : State :=
  let c := ctx s
  if gate i h s c = .go ∧ acts i h c ∧ !c.window ∧ (rfireTrap s c (peekScalar s c (numN c.x.hb b.toNat)) false).isNone then
    modGroup s c.k (fun g => { g with exits := g.exits.tail })
  else s

/-- DEDUCED, log entry 58. -/
def execRfireStat (h : Hdr) (b a : BitVec 6) (s : State) : Answer :=
  .next (plain (.rfireStat h b a) h (popExit s (.rfireStat h b a) h b) (fun c s' =>
    let (x, s') := takeScalar s' c (numN c.x.hb b.toNat)
    match rfireTrap s' c x false, handleAt (block s' c.g.block) x, (group s c.k).exits with
    | some t, _, _ => .error t
    | none, none, _ => .error ⟨.handleInvalid, 0, 0, 0⟩
    | none, some _, info :: _ => .error ⟨.refireExit, info, 0, 0⟩
    | none, some hd, [] =>
      let (ws, s') := giveScalar s' c (numN c.x.ha a.toNat) (statusWord s' hd)
      .ok (send s' c (c.n + 2) ws [] true)))

/-- DEDUCED, log entry 105. -/
def execRfireAbort (h : Hdr) (b : BitVec 6) (s : State) : Answer :=
  .next (plain (.rfireAbort h b) h s (fun c s =>
    let (x, s) := takeScalar s c (numN c.x.hb b.toNat)
    match rfireTrap s c x false with
    | some t => .error t
    | none =>
      match (handleAt (block s c.g.block) x).bind (·.run) with
      | none => .ok s
      | some r =>
        match (mget s.runs r).state with
        | 1 => .ok (exitRun (modRun s r (fun y => { y with state := 4 })) r .aborted 0 [])
        | 2 => .ok (modRun s r (fun y => { y with abort := true }))
        | _ => .ok s))

end Sys2Proof.Machine
end

