-- ==== Sys2Proof/Machine/Halt.lean ====
section
/-! DEFINITION. An owner's time across its residencies (R74, R160, R169), its queues' errors and completions (R352, R353,
R356), and the halt: the discard of an owner's work (R338), the fault report (R339) and the wipe that may follow (R362). -/

namespace Sys2Proof.Machine

/-! Time. -/

/-- Owner of a group, block, launch, operation and so on that an event names. -/
def blockOwner (s : State) (b : Nat) : Option Nat := (mfind s.blocks b).map (·.owner)
def launchOwner (s : State) (l : Nat) : Option Nat := (mfind s.launches l).map (·.owner)
def groupOwner (s : State) (k : Nat) : Option Nat := (mfind s.groups k).map (·.owner)

/-- The owner in whose cycles an event's clock counts; none for what the package clock alone governs (R159, R65, R80). -/
def eventOwner (s : State) (i : Instr) : Option Nat :=
  match i with
  | .commandRead o _ | .launch o _ | .signal o _ | .wait o _ | .inval o _ | .replay o _ | .fenceCommand o _ | .launchStart o _
  | .queueRestart o _ | .vfWriteTakeIn o | .saveRequestTakeIn o | .preemptionHaltDone o | .eventRingDoorbell o _
  | .dirtyLogEpoch o | .memoryWipeComplete o | .haltComplete o | .drainStep o | .channelAccess _ _ o | .eventRecordSlot o => some o
  | .launchStartEnd l | .laterPlacementEnd l _ | .launchCompletion l | .launchCompletionEnd l => launchOwner s l
  | .blockEndTimeEnd b | .saggarTimeout b _ _ _ | .tfreeWipe b _ => blockOwner s b
  | .fragmentPriority k _ | .branchResolution k _ | .monWaitTimeout k _ | .monitorWake k _ | .barrierWake k _ => groupOwner s k
  | .resultWrite r => (mfind s.results r).bind (fun x => groupOwner s x.g)
  | .latchGrant a | .coreTlbLookup a | .lspAccess a => (mfind s.accs a).map (·.owner)
  | .dieTlbLookup m => (mfind s.misses m).map (·.owner)
  | .walkStep w | .walkReadReturn w | .walkInstall w => (mfind s.walks w).map (·.owner)
  | .l2Access r | .loadDataArrival r => (mfind s.reqs r).map (·.owner)
  | .l2FillArrival c => (mfind s.channels c).map (·.owner)
  | .circuitMessageArrival m => (mfind s.messages m).map (·.owner)
  | .cpyLineRead p | .bcpyLineRead p | .engineWritePresent p | .tileTransferStart p | .tldDataArrival p | .tldRetire p
  | .mmaPosition p | .coilDrainComplete p => (mfind s.ops p).map (·.owner)
  | .refireRunStart r | .refireStep r => (mfind s.runs r).map (·.owner)
  | .landingRequestArrival m | .landingGrantArrival m | .migrationStateArrival m | .landingInstall m => (mfind s.migs m).map (·.owner)
  | .invalRemoval v _ | .invalComplete v => (mfind s.invals v).map (·.owner)
  | _ => none

/-- Events of accesses under way, which a drain lets end (R52). -/
def ofAccess : Instr → Bool
  | .coreTlbLookup _ | .dieTlbLookup _ | .walkStep _ | .walkReadReturn _ | .walkInstall _ | .lspAccess _ | .l2Access _
  | .loadDataArrival _ | .l2FillArrival _ | .channelAccess _ _ _ | .circuitMessageArrival _ | .resultWrite _ | .latchGrant _ => true
  | _ => false

/-- The owner's cycles stop: they are summed, and its events of a kind wait with the cycles they have still to go. -/
def pauseOwner (s : State) (o : Nat) (kind : Instr → Bool) : State :=
  let w := owner s o
  let mine (e : Nat × Instr) : Bool := eventOwner s e.2 == some o && kind e.2
  let w' := { w with
    ocyc := ocyc s o, since := if counts w then s.clock else w.since, stopped := s.clock
    held := w.held ++ (s.agenda.filter mine).map (fun e => (e.1 - s.clock, e.2)) }
  { s with agenda := s.agenda.filter (fun e => !mine e), owners := mset s.owners o w' }

/-- Events that wait are due again. -/
def releaseHeld (s : State) (o : Nat) (kind : Instr → Bool) : State :=
  let w := owner s o
  let s := modOwner s o (fun w => { w with held := w.held.filter (fun e => !kind e.2) })
  (w.held.filter (fun e => kind e.2)).foldl (fun s e => post s (s.clock + e.1) e.2) s

/-- Everything that names a clock or a turn of the owner's issue and engines moves by the time its cycles stood still. -/
def shiftIssue (s : State) (o gap : Nat) : State :=
  let t := gap / 8
  let from_ := s.clock - gap
  let mineG (k : Nat) : Bool := groupOwner s k == some o
  { s with
    groups := mall s.groups (fun _ g => if g.owner = o then
      { g with
        nextTurn := g.nextTurn + t, lastStart := if g.lastStart = 0 then 0 else g.lastStart + gap
        frags := g.frags.map (fun f => { f with notBefore := f.notBefore + t, since := f.since + t }) } else g)
    results := mall s.results (fun _ r => if mineG r.g then { r with turn := r.turn + t } else r)
    blocks := mall s.blocks (fun _ b => if b.owner = o then
      { b with saggars := b.saggars.map (fun y => { y with records := y.records.map (fun r => { r with since := r.since + t }) }) } else b)
    runs := mall s.runs (fun _ x => if x.owner = o then { x with tilEnd := x.tilEnd + gap } else x)
    claims := mall s.claims (fun key t => if key % 32 = o ∧ !memoryTable (key / 32 % 10) ∧ from_ < t then t + gap else t) }
where
  /-- tables of the positions that accesses are served in -/
  memoryTable (t : Nat) : Bool := t == 4 || 7 ≤ t

/-- The same of its accesses under way, which a drain lets go on (R52): by the time since they were held back. -/
def shiftWork (s : State) (o gap : Nat) : State :=
  let from_ := s.clock - gap
  { s with
    accs := mall s.accs (fun _ a => if a.owner = o then { a with avail := a.avail + gap } else a)
    messages := mall s.messages (fun _ m => if m.owner = o then { m with arrives := m.arrives + gap } else m)
    channels := mall s.channels (fun _ c => if c.owner = o then { c with entered := c.entered.map (· + gap) } else c)
    claims := mall s.claims (fun key t => if key % 32 = o ∧ shiftIssue.memoryTable (key / 32 % 10) ∧ from_ < t then t + gap else t)
    owners := mmod s.owners o (fun w => { w with busy := mall w.busy (fun _ t => if from_ < t then t + gap else t) }) }

/-- The owner's cycles count again from now: what waited is due when its cycles have passed. As a drain ends, its accesses have
gone on already. -/
def resumeOwner (s : State) (o : Nat) (drained : Bool) : State :=
  let w := owner s o
  let s := shiftIssue s o (s.clock - w.since)
  let s := if drained then s else shiftWork s o (s.clock - w.stopped)
  releaseHeld (modOwner s o (fun w => { w with since := s.clock })) o (fun _ => true)

/-! Queues (R352, R353). -/

def queueKey (o q : Nat) : Nat := 64 * o + q
def queue (s : State) (o q : Nat) : Queue := mget s.queues (queueKey o q)
def modQueue (s : State) (o q : Nat) (f : Queue → Queue) : State := { s with queues := mmod s.queues (queueKey o q) f }
/-- Offset of a queue's register (R352): 0 QBASE, 8 QCTL, 16 QHEAD, 24 QERR. -/
def queueReg (q w : Nat) : Nat := 0x1000 + 32 * q + w
/-- Entries of its command array. -/
def queueSize (s : State) (o q : Nat) : Nat := 2 ^ ext (vfGet s o (queueReg q 0)) 0 5

/-- The next command may start (R353, R343). -/
def startable (s : State) (o q : Nat) : Bool :=
  let w := owner s o
  let x := queue s o q
  w.running && !w.saving && !w.saved && !w.discarding && !w.halting && (vfGet s o (queueReg q 8)).getLsbD 0 && !x.halted &&
  x.cmd.isNone && !x.reading && x.head != x.tail

/-- The next command's read is due in this owner cycle. -/
def pumpQueue (s : State) (o q : Nat) : State :=
  if startable s o q then postOwner (modQueue s o q (fun x => { x with reading := true })) o 0 (.commandRead o q) else s

/-- The same for every queue of an owner. -/
def pumpQueues (s : State) (o : Nat) : State := (List.range 64).foldl (fun s q => pumpQueue s o q) s

/-- One of a queue's own commands has ended: the FENCEs of other queues that wait for it count it. (DEDUCED, log entry 63) -/
def countFences (s : State) (o q : Nat) : State :=
  (List.range 64).foldl (fun s p =>
    match (queue s o p).fence with
    | none => s
    | some l =>
      if l.any (fun e => e.1 == q) then
        let l := (l.map (fun e => if e.1 = q then (e.1, e.2 - 1) else e)).filter (fun e => e.2 != 0)
        let s := modQueue s o p (fun x => { x with fence := some l })
        if l.isEmpty then postOwner s o 0 (.fenceCommand o p) else s
      else s) s

/-- The queue's progress is forgotten; it stands idle. -/
def idleQueue (x : Queue) : Queue :=
  { x with reading := false, cmd := none, replay := none, launch := none, rootWait := none, fence := none, watcher := none
           inval := none, acc := none }

/-- A queue halts with an error latched (R352), which a queue-error record reports (R356). (DEDUCED, log entry 62) -/
def queueError (s : State) (o q kind cause reason : Nat) : State :=
  let x := queue s o q
  let v := BitVec.ofNat 64 (2 ^ 63 + reason % 256 * 2 ^ 40 + cause % 256 * 2 ^ 32 + kind % 256 * 2 ^ 24 + x.index % 2 ^ 16)
  let s := { s with watchers := s.watchers.filter (fun w => w.2.queue != some (queueKey o q))
                    accs := s.accs.filter (fun e => some e.1 != x.acc) }
  let s := modQueue (vfSet s o (queueReg q 24) v) o q (fun x => { idleQueue x with halted := true })
  countFences (eventRecord s o 3 q (bytesOf 8 v.toNat ++ bytesOf 8 0)) o q

/-- A fault on a queue command's own address (R339, R353): fatal to the owner's work, caused by no block. (DEDUCED, log entry 60; DEDUCED, log entry 67) -/
def queueFault (s : State) (o q : Nat) (t : Trap) : State :=
  if (owner s o).halting then queueError s o q 5 t.cause.code 0
  else raiseFault s o (reportBytes s o t 0 0 0xFFFFFFFF 0xFF 0 0 0xFF 0 0) (some (q, 5, BitVec.ofNat 8 t.cause.code)) none

/-! Context control (R346). -/

/-- The context operation in progress ends with a status. (DEDUCED, log entry 68) -/
def endContext (s : State) (status : Nat) : State :=
  pfSet (pfSet s 0x90 (putBits (pfGet s 0x90) 5 1 0)) 0x98 (BitVec.ofNat 64 (0x80 + status))

/-- The context operation in progress concerns the owner. (DEDUCED, log entry 68; DEDUCED, log entry 90) -/
def contextOf (s : State) (o : Nat) : Bool := (pfGet s 0x90).getLsbD 5 && ext (pfGet s 0x90) 0 5 == o

/-! The discard (R338). -/

/-- A latch the launch's end releases (R117): held, holder and scope read 0. (DEDUCED, log entry 66) -/
def releaseLatch (s : State) (o pa : Nat) : State :=
  let l := latchAt s o pa
  let xs := bytesOf 8 (latchWord 0 false l.bound 0).toNat
  match l2Find s o (homeOf pa) (lineNo pa) false with
  | some y =>
    let mask := byteMask ((pa + 24) % 128) 8
    l2Put s { y with
      data := mergeLine y.data (BitVec.ofNat 1024 (numOf xs * 2 ^ (8 * ((pa + 24) % 128)))) mask
      valid := y.valid ||| mask, dirty := y.dirty ||| mask }
  | none => stackWrite s o (match mfind s.sealedUnits (pa / 64) with | some (p, _) => p == o | none => false) (pa + 24) xs

/-- What is not a launch's outlives the discard: the queue path's accesses and requests from outside, with the walks, misses and
messages that serve them. (DEDUCED, log entry 119) -/
def keepsAcc (s : State) (id : Nat) : Bool := match mfind s.accs id with | some a => (match a.kind with | .queue _ => true | _ => false) | none => false
/-- DEDUCED, log entry 119. -/
def keepsWalk (s : State) (w : Nat) : Bool := s.misses.any (fun m => m.2.direct && m.2.walk == some w)
/-- DEDUCED, log entry 119. -/
def keepsReq (s : State) (r : Req) : Bool := match r.agent with | .acc i => keepsAcc s i | .walk w => keepsWalk s w | .inbound _ => true
/-- DEDUCED, log entry 119. -/
def keepsMessage (s : State) (m : Message) : Bool :=
  match m.payload with
  | .request r | .reply r | .ack r => (match mfind s.reqs r with | some q => keepsReq s q | none => false)
  | _ => false
def keepsEvent (s : State) : Instr → Bool
  | .coreTlbLookup a | .lspAccess a => keepsAcc s a
  | .dieTlbLookup m => (mget s.misses m).direct
  | .walkStep w | .walkReadReturn w | .walkInstall w => keepsWalk s w
  | .l2Access r | .loadDataArrival r => (match mfind s.reqs r with | some q => keepsReq s q | none => false)
  | .circuitMessageArrival m => (match mfind s.messages m with | some x => keepsMessage s x | none => false)
  | _ => false

/-- Line writes of a launch already presented to a slice or a circuit are performed, in the order in which they were. -/
def performPresented (s : State) (o : Nat) : State :=
  s.reqs.foldl (fun s e =>
    let r := e.2
    let put (mask : BitVec 128) (data : BitVec 1024) : State :=
      performWrite s o (r.line * 128) (r.gpa / 128 * 128) r.policy r.hc r.prot mask data
    if r.owner ≠ o ∨ r.served ∨ keepsReq s r then s
    else match r.kind with
    | .write mask data => put mask data
    | .bits mask data => put (bytesTouched mask) (mergeMask (BitVec.ofNat 1024 (numOf (homeBytes s o (r.line * 128) 128))) data mask)
    | .away lanes => (match r.agent with | .acc i => if (mget s.accs i).unperformed = 0 then s else leaveSlice s e.1 i r lanes | _ => s)
    | _ => s) s

/-- Events of the owner that its discard does not drop. (DEDUCED, log entry 119) -/
def outlives : Instr → Bool
  | .commandRead _ _ | .launch _ _ | .launchStart _ _ | .signal _ _ | .wait _ _ | .inval _ _ | .replay _ _ | .fenceCommand _ _
  | .queueRestart _ _ | .vfWriteTakeIn _ | .eventRingDoorbell _ _ | .dirtyLogEpoch _ | .memoryWipeComplete _ | .drainStep _
  | .eventRecordSlot _ | .blockEndTimeEnd _ | .invalRemoval _ _ | .invalComplete _ | .channelAccess _ _ _ | .l2FillArrival _ => true
  | _ => false

/-- Everything of the owner's launches goes: what it has queued, its groups, its latches, its blocks and its launches. -/
def dropWork (s : State) (o : Nat) : State :=
  let s := performPresented s o
  let mine := s.groups.filter (fun e => e.2.owner == o)
  let s := mine.foldl (fun s e => e.2.latches.foldl (fun s pa => releaseLatch s o pa) s) s
  let dead (e : Nat × Instr) : Bool := eventOwner s e.2 == some o && !outlives e.2 && !keepsEvent s e.2
  let ended := (s.blocks.filter (fun e => e.2.owner == o && !e.2.ended)).map (·.1)
  let s := { s with
    agenda := s.agenda.filter (fun e => !dead e)
    owners := mmod s.owners o (fun w => { w with held := w.held.filter (fun e => outlives e.2 || keepsEvent s e.2) })
    groups := s.groups.filter (fun e => e.2.owner != o)
    results := s.results.filter (fun e => groupOwner s e.2.g != some o)
    accs := s.accs.filter (fun e => e.2.owner != o || keepsAcc s e.1)
    reqs := s.reqs.filter (fun e => e.2.owner != o || keepsReq s e.2)
    walks := s.walks.filter (fun e => e.2.owner != o || keepsWalk s e.1)
    misses := s.misses.filter (fun e => e.2.owner != o || e.2.direct)
    ops := s.ops.filter (fun e => e.2.owner != o)
    runs := s.runs.filter (fun e => e.2.owner != o)
    messages := s.messages.filter (fun e => e.2.owner != o || keepsMessage s e.2)
    migs := s.migs.filter (fun e => e.2.owner != o)
    landings := s.landings.filter (fun e => e.1 % 32 != o)
    waiters := s.waiters.filter (fun x => x.owner != o)
    watchers := s.watchers.filter (fun e => e.2.owner != o || e.2.queue.isSome)
    exts := s.exts.filter (fun e => e.2.owner != o || (match e.2.who with | .acc i _ => keepsAcc s i | _ => false))
    launches := s.launches.filter (fun e => e.2.owner != o)
    l2 := s.l2.filter (fun l => !(l.owner == o && l.replica)), l1 := s.l1.filter (fun l => !(l.owner == o && l.replica))
    blocks := mall (s.blocks.filter (fun e => !(e.2.owner == o && e.2.released))) (fun _ b => if b.owner = o then
      { b with ended := true, ending := true, handles := [], coils := [], saggars := [], wants := [], freeing := [], queues := [] } else b) }
  ended.foldl (fun s b => postOwner s o 1024 (.blockEndTimeEnd b)) s

/-- Queues with a launch in flight halt: the faulting one with its cause, the others as discarded. -/
def latchQueues (s : State) (o : Nat) (fault : Option (Nat × Nat × BitVec 8)) : State :=
  (List.range 64).foldl (fun s q =>
    match fault with
    | some (p, kind, cause) =>
      if p = q then queueError s o q kind cause.toNat 0
      else if (queue s o q).launch.isSome then queueError s o q 2 0 0 else s
    | none => if (queue s o q).launch.isSome then queueError s o q 2 0 0 else s) s

/-- A saved context is discarded: its image, and the regions it holds (R345, R350). -/
def dropSaved (s : State) (o : Nat) : State :=
  modOwner s o (fun w => { w with saved := false, halted := false, saving := false, restoring := false, image := none, regions := false })

/-- The queues of an owner that leaves RUN stand idle, and their accesses go; what they have presented is performed. -/
def idleQueues (s : State) (o : Nat) : State :=
  let mine (a : Nat) : Bool := keepsAcc s a && (mget s.accs a).owner == o
  let served (r : Req) : Bool := match r.agent with | .acc i => mine i | .walk w => r.owner == o && keepsWalk s w | .inbound _ => false
  let message (m : Message) : Bool := match m.payload with
    | .request r | .reply r | .ack r => (match mfind s.reqs r with | some q => served q | none => false)
    | _ => false
  let gone (e : Nat × Instr) : Bool := eventOwner s e.2 == some o &&
    (match e.2 with
     | .commandRead _ _ | .launch _ _ | .launchStart _ _ | .signal _ _ | .wait _ _ | .inval _ _ | .replay _ _ | .fenceCommand _ _
     | .blockEndTimeEnd _ => true
     | .invalRemoval v _ | .invalComplete v => !(mget s.invals v).stage2
     | .coreTlbLookup a | .lspAccess a => mine a
     | .dieTlbLookup m => (mget s.misses m).direct
     | .walkStep w | .walkReadReturn w | .walkInstall w => keepsWalk s w
     | .l2Access r | .loadDataArrival r => (match mfind s.reqs r with | some q => served q | none => false)
     | .circuitMessageArrival m => (match mfind s.messages m with | some x => message x | none => false)
     | _ => false)
  let s' := s.reqs.foldl (fun s e => match e.2.kind with
    | .write mask data => if served e.2 && !e.2.served then
        performWrite s o (e.2.line * 128) (e.2.gpa / 128 * 128) e.2.policy e.2.hc e.2.prot mask data else s
    | .away [8] => (match e.2.agent with | .acc i => if served e.2 then leaveSlice s e.1 i e.2 [8] else s | _ => s)
    | _ => s) s
  { s' with
    agenda := s'.agenda.filter (fun e => !gone e)
    owners := mmod s'.owners o (fun w => { w with held := w.held.filter (fun e => !gone e) })
    queues := mall s'.queues (fun k x => if k / 64 = o then idleQueue x else x)
    watchers := s'.watchers.filter (fun e => e.2.owner != o)
    invals := s'.invals.filter (fun e => e.2.owner != o || e.2.stage2)
    accs := s'.accs.filter (fun e => !mine e.1), reqs := s'.reqs.filter (fun e => !served e.2)
    walks := s'.walks.filter (fun e => !(e.2.owner == o && keepsWalk s e.1)), misses := s'.misses.filter (fun e => !(e.2.owner == o && e.2.direct))
    messages := s'.messages.filter (fun e => !message e.2)
    exts := s'.exts.filter (fun e => match e.2.who with | .acc i _ => !mine i | _ => true)
    blocks := s'.blocks.filter (fun e => e.2.owner != o) }

/-- Clocks of the wipe (R362): one table entry per owner WLK position, then one unit per MC position of each channel,
then a block-end time. (DEDUCED, log entry 69) -/
def wipeClocks (s : State) (o entries units : Nat) : Nat :=
  let per (t n : Nat) : Nat := n * 16 * posLen t / max 1 (popcount ((rota s o t).setWidth 32))
  per 8 entries + per 9 ((units + 95) / 96) + 1024

/-- Space-0 pages that an owner's stage-2 tables map writable: base and size; and the entries read to find them. -/
def writablePages (s : State) (o : Nat) : List (Nat × Nat) × Nat :=
  let root := entry s o 0x00
  let table (base : Nat) : List (BitVec 64) := (List.range 8192).map (fun i => BitVec.ofNat 64 (numOf (homeBytes s o (base + 8 * i) 8)))
  let good (level : Nat) (e : BitVec 64) : Bool := (pteReason level e).isNone
  let add (m : List (Nat × Nat) × Nat) (ps : List (Nat × Nat)) (n : Nat) : List (Nat × Nat) × Nat := (m.1 ++ ps, m.2 + n)
  let page (e : BitVec 64) (size : Nat) : List (Nat × Nat) :=
    let pa := pteAddr e / size * size
    if e.getLsbD 2 && (paReason s o pa).isNone && spaceOf pa == 0 then [(pa, size)] else []
  let level3 (m : List (Nat × Nat) × Nat) (base : Nat) : List (Nat × Nat) × Nat :=
    add m ((table base).flatMap (fun e => if good 3 e then page e 65536 else [])) 8192
  let level2 (m : List (Nat × Nat) × Nat) (base : Nat) : List (Nat × Nat) × Nat :=
    (table base).foldl (fun m e =>
      if !good 2 e then m else if e.getLsbD 1 then add m (page e (2 ^ 29)) 0 else level3 m (pteAddr e)) (add m [] 8192)
  if root.getLsbD 0 then
    (table (pteAddr root)).foldl (fun m e => if good 1 e then level2 m (pteAddr e) else m) ([], 8192)
  else ([], 0)

/-- The wipe starts (R362). It runs in the owner's residencies; an owner with none is wiped at once. (DEDUCED, log entry 69) -/
def startWipe (s : State) (o : Nat) : State :=
  let (pages, entries) := writablePages s o
  let units := (pages.map (fun p => p.2 / 64)).sum
  let s := modOwner s o (fun w => { w with wiping := true })
  if seated s o then postOwner s o (wipeClocks s o entries units) (.memoryWipeComplete o)
  else post s (s.clock + 1) (.memoryWipeComplete o)

/-- Latches that the groups of a saved context hold are given up when it is discarded (R117). (DEDUCED, log entry 117) -/
def releaseSaved (s : State) (o : Nat) : State :=
  let w := owner s o
  let image := match w.image with
    | some x => some x
    | none => (mfind s.images w.buffer).filter (fun x => x.owner == o && x.counter == w.saveCount)
  if !w.saved then s
  else match image with
    | some x => x.groups.foldl (fun s e => e.2.latches.foldl (fun s pa => releaseLatch s o pa) s) s
    | none => s

/-- The discard of an owner's work, and what follows it (R338, R350, R362). (DEDUCED, log entry 68) -/
def finishDiscard (s : State) (o : Nat) : State :=
  let w := owner s o
  let s := latchQueues (dropWork (releaseSaved s o) o) o w.faultQueue
  let s := if (owner s o).saving && !(owner s o).saved then dropSaved s o else s
  let s := modOwner s o (fun w => { w with
    halting := false, haltOver := false, report := [], faultQueue := none, faultBlock := none, discarding := false, after := 0, saving := false, halted := false })
  let s := if contextOf s o then endContext (dropSaved s o) 3 else s
  match w.after with
  | 0 => pumpQueues s o
  | n =>
    let s := idleQueues (dropSaved s o) o
    let s := modOwner s o (fun w => { w with running := false, entering := false })
    if n = 1 then setOwState s o 0 else startWipe s o

/-- A discard is asked for: groups stop, and two turns later the work goes; an owner that runs no work, or is absent, has
none to halt. (DEDUCED, log entry 69) -/
def beginDiscard (s : State) (o after : Nat) : State :=
  let w := owner s o
  let s := modOwner s o (fun w => { w with discarding := true, after := max w.after after })
  if w.saved ∨ !w.running ∨ (!w.resident ∧ !w.halting ∧ !w.discarding) then finishDiscard s o
  else if w.halting ∨ w.discarding then s
  else postOwner s o ((turnOf s.clock + 3) * 8 - s.clock) (.haltComplete o)

/-- Frozen state was written, or a restore's tag did not match: the interface goes to ERROR (R362, R363). -/
def toError (s : State) (o : Nat) : State :=
  if owState s o = 1 ∨ owState s o = 2 then beginDiscard (setOwState (modOwner s o (fun w => { w with wipeTo := 3 })) o 3) o 2 else s

/-! HALT_COMPLETE. -/

/-- One halt record (R339). -/
def haltRecord (s : State) (k : Nat) : List (BitVec 8) :=
  let g := group s k
  let f := match g.running with
    | some r => frag g r
    | none => g.frags.head?.getD default
  bytesOf 1 (slotOf k) ++ bytesOf 1 g.skid ++ bytesOf 1 (f.name % 32) ++ bytesOf 1 (partOf k) ++ bytesOf 4 f.mask.toNat ++ bytesOf 8 (standsAt g f).toNat

/-- The records of the faulting block's groups, in ascending partition and slot. -/
def haltRecords (s : State) (b : Option Nat) : List (List (BitVec 8)) :=
  match b with
  | none => []
  | some b => ((sortBy (fun (x y : Nat) => x ≤ y) (blockSlots (block s b))).filter (fun k => isOf (group s k) b)).map (haltRecord s)

/-- Stores of instructions that the owner's groups have started are still to be presented (R337). (DEDUCED, log entry 125) -/
def storesOpen (s : State) (o : Nat) : Bool :=
  s.accs.any (fun e => e.2.owner == o && e.2.window.isNone && (match e.2.kind with | .store _ | .sstore _ => true | _ => false) &&
    e.2.reqs.any (laneQueued e.2))

/-- R338, R339: every group has halted: the report is written, then the work is discarded. A group has halted when its
speculation is resolved and the stores that it has started are presented (R337, R183). (DEDUCED, log entry 125) -/
def execHaltComplete (o : Nat) (s : State) : Answer :=
  .next (
    let w := owner s o
    if !w.halting ∧ !w.discarding then s
    else if w.halting ∧ (storesOpen s o ∨ s.groups.any (fun e => e.2.owner == o && e.2.live && inWindowPhase e.2)) then
      postOwner (modOwner s o (fun w => { w with haltOver := true })) o ((turnOf s.clock + 1) * 8 - s.clock) (.haltComplete o)
    else
      let rs := haltRecords s w.faultBlock
      let queue := match w.faultQueue with | some (q, _) => q | none => 0xFF
      let s := if w.halting then eventRecord s o 2 queue (w.report ++ bytesOf 8 rs.length ++ rs.flatten) else s
      finishDiscard s o)

/-- R362: the wipe ends: pages, ways, scratchpads, tiles and shadow regions hold zeros, and the interface stands where the
wipe leads; a STOP that waits for it is answered. A function-level reset's registers take their reset values (R390). -/
def execMemoryWipeComplete (o : Nat) (s : State) : Answer :=
  .next (
    let w := owner s o
    if !w.wiping then s
    else
      let pages := (writablePages s o).1
      let inPage (a : Nat) : Bool := pages.any (fun p => p.1 ≤ a && a < p.1 + p.2)
      let s := { s with
        mem := s.mem.filter (fun c => !inPage c.1)
        sealedUnits := s.sealedUnits.filter (fun e => !inPage (64 * e.1))
        poison := s.poison.filter (fun u => !inPage (64 * u))
        errors := s.errors.filter (fun e => !inPage (64 * e.1))
        channels := s.channels.filter (fun e => e.2.owner != o), l2 := s.l2.filter (fun l => l.owner != o), l1 := s.l1.filter (fun l => l.owner != o), l0 := s.l0.filter (fun l => l.owner != o) }
      let s := if w.flr then { s with vf := s.vf.filter (fun e => e.1 / 65536 != o), queues := s.queues.filter (fun e => e.1 / 64 != o) } else s
      let s := if w.stopping then { s with mailbox := [0x07] } else s
      let s := modOwner s o (fun w => { w with
        wiping := false, flr := false, stopping := false, key := if w.wipeTo = 3 then w.key else none
        producer := if w.flr then 0 else w.producer, consumer := if w.flr then 0 else w.consumer
        overflow := if w.flr then 0 else w.overflow, stored := if w.flr then [] else w.stored, logged := if w.flr then [] else w.logged, arose := none })
      setOwState s o w.wipeTo.toNat)

end Sys2Proof.Machine
end

