-- ==== Sys2Proof/Machine/Queue.lean ====
section
/-! DEFINITION. The queue path (R352 to R354, R409): VF writes taken in, commands read and checked, and SIGNAL, WAIT, INVAL,
REPLAY and FENCE from their read to their completion. -/

namespace Sys2Proof.Machine

/-! Accesses of the queue path, from the lowest die of the owner's die mask. -/

def queueDie (s : State) (o : Nat) : Nat := lowestDie (owDies s o)

/-- An access of a queue's command: its requests, what it holds to write, and whether they go out as soon as they are
translated. (DEDUCED, log entry 59) -/
def queueAccess (s : State) (o q : Nat) (reqs : List LaneReq) (go : Bool) : Access :=
  let a : Access := { (default : Access) with owner := o, die := queueDie s o, kind := .queue (queueKey o q), reqs := reqs, avail := s.clock }
  let a := lineOpen s a false
  if go then a else { a with passes := [] }

/-- The command waits for the access, which begins. (DEDUCED, log entry 59) -/
def queueOpen (s : State) (o q : Nat) (a : Access) : State :=
  let id := s.nextId
  openLine (modQueue s o q (fun x => { x with acc := some id })) a

/-- Reads of `n` bytes at an address, by one lane for each of the lines that they lie in. -/
def queueReqs (va : BitVec 64) (n : Nat) : List LaneReq :=
  let first := va.toNat % 128
  let n0 := min n (128 - first)
  readReq 0 va first n0 :: (if n0 < n then [readReq 1 (va + BitVec.ofNat 64 n0) 0 (n - n0)] else [])

/-- The access of a queue's command as it stands. -/
def queueAcc (s : State) (o q : Nat) : Option Access := (queue s o q).acc.bind (mfind s.accs)

/-- The command needs its access no longer. -/
def queueClose (s : State) (o q : Nat) : State :=
  let id := (queue s o q).acc
  modQueue { s with accs := s.accs.filter (fun e => some e.1 != id) } o q (fun x => { x with acc := none })

/-- The bytes that its lanes have read. -/
def queueBytes (a : Access) : Nat :=
  numOf (a.reqs.flatMap (fun r => lineBytes (a.piece r.lane) r.data.toNat r.cmp.toNat))

/-- What a read of the queue path finds: its bytes as a number, nothing yet, or a fault. -/
inductive QueueRead where
  | got (x : Nat)
  | later
  | bad (t : Trap)
deriving DecidableEq, Repr, Inhabited

/-- How the read stands that a command waits for. -/
def queueState (s : State) (o q : Nat) : Option QueueRead :=
  (queueAcc s o q).map (fun a => match lineTrap a with
    | some t => if a.checked then .bad t else .later
    | none => if a.reqs.all (fun r => a.has r.lane) then .got (queueBytes a) else .later)

/-- A read of up to 64 bytes: it begins, or is taken when it has come (R409). (DEDUCED, log entry 97) -/
def queueRead (s : State) (o q : Nat) (va : BitVec 64) (n : Nat) : QueueRead × State :=
  match queueState s o q with
  | none => (.later, queueOpen s o q (queueAccess s o q (queueReqs va n) true))
  | some .later => (.later, s)
  | some r => (r, queueClose s o q)

/-! Commands. -/

/-- The bytes from `off` on are 0. -/
def zeroFrom (c : BitVec 512) (off : Nat) : Bool := c.toNat / 2 ^ (8 * off) == 0

/-- A command halts its queue with kind 3 (R353, R354). (DEDUCED, log entry 61) -/
def malformed (c : BitVec 512) (inGraph : Bool) : Bool :=
  let va := cmdField c 0x08 8
  1 < cmdField c 1 1 || cmdField c 2 6 != 0 ||
  (match cmdField c 0 1 with
   | 1 => !zeroFrom c 0x10
   | 2 => va % 8 != 0 || 9 < cmdField c 0x18 1 || !zeroFrom c 0x19
   | 3 => va % 8 != 0 || 3 < cmdField c 0x18 1 || !zeroFrom c 0x19
   | 4 => va % 65536 != 0 || cmdField c 0x10 8 % 65536 != 0 || (cmdField c 0x10 8 == 0 && va != 0) || !zeroFrom c 0x18
   | 5 => inGraph || va % 64 != 0 || !zeroFrom c 0x18
   | 6 => !zeroFrom c 0x08
   | _ => true)

/-- The event of a command that has been read. -/
def dispatchCommand (s : State) (o q : Nat) (c : BitVec 512) : State :=
  match commandEvent o q (cmdField c 0 1) with
  | some e => postOwner s o 0 e
  | none => s

/-- A completion record (R356). (DEDUCED, log entry 62) -/
def completionRecord (s : State) (o q : Nat) (c : BitVec 512) (cones : List (BitVec 64)) : State :=
  if cmdField c 1 1 = 1 then
    eventRecord s o 1 q (bytesOf 8 (ocyc s o) ++ bytesOf 4 (queue s o q).index ++ bytesOf 4 0 ++
      (if cones.isEmpty then List.replicate 64 0 else cones.flatMap (fun x => bytesOf 8 x.toNat)))
  else s

/-- A queue's own command completes: the next one may start. -/
def completeOwn (s : State) (o q : Nat) (c : BitVec 512) (cones : List (BitVec 64)) : State :=
  pumpQueue (countFences (modQueue (completionRecord s o q c cones) o q (fun x => { idleQueue x with halted := x.halted })) o q) o q

/-- The owner's queues whose REPLAY waits for a graph look again (R354). -/
def wakeReplays (s : State) (o : Nat) : State :=
  (List.range 64).foldl (fun s q =>
    let x := queue s o q
    if x.replay.isNone ∧ (x.cmd.map (fun c => cmdField c 0 1)) = some 5 then postOwner s o 0 (.replay o q) else s) s

/-- A replay's next command starts when the one before it has completed; with none left, the REPLAY completes. None starts
while the owner is being saved; after a restore the graph is read again first (R343). (DEDUCED, log entry 62) -/
def nextReplayed (s : State) (o q : Nat) : State :=
  match (queue s o q).replay with
  | none => s
  | some r =>
    if !r.ready then postOwner s o 0 (.replay o q) else
    match r.cmds[r.next]? with
    | some c =>
      if (owner s o).saving || (owner s o).saved then s
      else dispatchCommand (modQueue s o q (fun x => { x with cmd := some c, replay := some { r with next := r.next + 1 } })) o q c
    | none => wakeReplays (completeOwn s o q r.own []) o

/-- A command completes. -/
def endCommand (s : State) (o q : Nat) (cones : List (BitVec 64)) : State :=
  let x := queue s o q
  let c := x.cmd.getD 0
  match x.replay with
  | none => completeOwn s o q c cones
  | some r =>
    let s := completionRecord s o q c cones
    nextReplayed (modQueue s o q (fun x => { idleQueue x with replay := some r, halted := x.halted })) o q

/-- A command starts: QHEAD moves past it, and its first phase begins as its read returns (R352, R409). -/
def startCommand (s : State) (o q : Nat) (c : BitVec 512) : State :=
  let x := queue s o q
  let head := (x.head + 1) % queueSize s o q
  let s := vfSet s o (queueReg q 16) (BitVec.ofNat 64 head)
  let s := modQueue s o q (fun x => { x with head := head, index := x.head, order := 64 * ocyc s o + q, cmd := some c, reading := false })
  if malformed c false then queueError s o q 3 0 0 else dispatchCommand s o q c

/-- Guest-physical address of the next command. -/
def commandGpa (s : State) (o q : Nat) : Nat := ext (vfGet s o (queueReg q 0)) 12 40 * 4096 + 64 * ((queue s o q).head % queueSize s o q)

/-- A fault on the read of a command. (DEDUCED, log entry 60) -/
def commandFault (s : State) (o q : Nat) (t : Trap) : State :=
  queueFault (modQueue s o q (fun x => { x with reading := false, index := x.head, head := (x.head + 1) % queueSize s o q })) o q t

/-- The read of a command enters its home slice's stream in this owner cycle, or its circuit (R409); one in host memory is
asked for (R352). (DEDUCED, log entry 97) -/
def readCommand (s : State) (o q : Nat) (y : Xlat) : State :=
  let gpa := commandGpa s o q
  let pa := y.pa + (gpa - y.va)
  let id := s.nextId
  let r := readReq 0 (BitVec.ofNat 64 gpa) (pa % 128) 64
  let a : Access := { queueAccess s o q [r] true with checked := true, faults := [], todo := [], passes := [], xlats := [y] }
  let s := modQueue (tick { s with accs := mset s.accs id a }) o q (fun x => { x with acc := some id })
  if spaceOf pa = 1 ∧ y.hc then
    let n := s.nextId
    enterStream (tick { modAcc s id (fun a => { a with waiting := 1 }) with reqs := mset s.reqs n (awayReq s id y pa [0]) }) n
  else if spaceOf pa ≠ 0 then askSpace s id a pa 0 64 none
  else
    let q : Req := { (default : Req) with
      owner := o, die := a.die, home := homeOf pa, line := lineNo pa, agent := .acc id, kind := .read [0], hc := y.hc, prot := y.prot, noL1 := true }
    let s := modAcc s id (fun a => { a with waiting := 1 })
    let n := s.nextId
    let s := tick { s with reqs := mset s.reqs n q }
    if q.home = q.die then enterStream s n else presentFrom s q.rank o q.die q.home 2 s.clock (.request n)

/-- R409: the queue path reads the next command, translated by stage 2 alone (R352). -/
def execCommandRead (o q : Nat) (s : State) : Answer :=
  .next (
    let w := owner s o
    if !(queue s o q).reading then s
    else if w.saving ∨ w.saved ∨ w.discarding ∨ w.halting ∨ !w.running then modQueue (queueClose s o q) o q (fun x => { x with reading := false })
    else match queueState s o q with
      | some (.got x) => startCommand (queueClose s o q) o q (BitVec.ofNat 512 x)
      | some (.bad t) => commandFault (queueClose s o q) o q t
      | some .later => s
      | none =>
        let gpa := commandGpa s o q
        let out (f : WalkFault) : Trap := faultTrap false 0 0 (BitVec.ofNat 64 gpa) f
        match stage2Now s o (some (queueDie s o)) gpa with
        | (none, s) => commandFault s o q ⟨.uncorrectable, 0, 0, 0⟩
        | (some (.error f), s) => commandFault s o q (out f)
        | (some (.ok y), s) =>
          let pa := y.pa + (gpa - y.va)
          match paReason s o pa with
          | some r => commandFault s o q (out (wf r (leafLevel y) 1 0))
          | none =>
            if spaceOf pa ≠ 0 ∧ spaceOf pa ≠ 1 then commandFault s o q (out (wf 5 (leafLevel y) 1 0))
            else match accessCircuit s o (queueDie s o) pa with
              | some m => commandFault s o q (out ⟨0, 0, 0, 0, some m⟩)
              | none => readCommand s o q y)

/-- Writes of the queue path for the owner that a release of it at a scope waits for (R107, R409). -/
def queueOwes (s : State) (o sc : Nat) : Bool :=
  s.accs.any (fun e => e.2.owner == o && (match e.2.kind with | .queue _ => true | _ => false) &&
    e.2.reqs.any (fun r => r.lane == 8 && laneOwed s e.1 e.2 sc (queueDie s o) r))

/-- R353: the 8-byte release write, once the queue path's own writes before it are performed; the command completes when it
is. -/
def execSignal (o q : Nat) (s : State) : Answer :=
  .next (match (queue s o q).cmd with
  | none => s
  | some c =>
    match (queue s o q).acc with
    | none =>
      if queueOwes s o (cmdField c 0x18 1) then postOwner s o 1 (.signal o q)
      else
        let va := BitVec.ofNat 64 (cmdField c 0x08 8)
        let first := va.toNat % 128
        let data : BitVec 1024 := BitVec.ofNat 1024 (cmdField c 0x10 8 * 2 ^ (8 * first))
        queueOpen s o q { queueAccess s o q [⟨8, va, 0, 0⟩] true with got := [(8, data), (9, bitMask (byteMask first 8))], unperformed := 1 }
    | some id => match mfind s.accs id with
      | none => endCommand s o q []
      | some a => match lineTrap a with
        | some t => if a.checked then queueFault s o q t else s
        | none => if a.unperformed = 0 then endCommand s o q [] else s)

/-- The compare of a WAIT. -/
def waitHolds (code x y : Nat) : Bool := match code with | 0 => x == y | 1 => x != y | 2 => y ≤ x | _ => x < y

/-- A WAIT's location is translated: its line is armed, and then read (R129, R409). -/
def armWait (s : State) (o q id : Nat) (a : Access) : State :=
  let va := (reqOf a 0).va
  let pa := lanePa a (reqOf a 0)
  let s := modAcc s id (fun a => { a with passes := [[0]] })
  if spaceOf pa ≠ 0 then post s s.clock (.lspAccess id)
  else
    let w := s.nextId
    let s := tick { s with watchers := mset s.watchers w ⟨o, 0, some (queueKey o q), homeOf pa, lineNo pa, false, false⟩ }
    let s := modQueue s o q (fun x => { x with watcher := some w })
    let r : Req := { (default : Req) with
      owner := o, die := a.die, home := homeOf pa, line := lineNo pa, agent := .acc id, kind := .arm w
      gpa := gpaOf ((xlatOf a.xlats va.toNat).getD default) va.toNat }
    post (sendReq s r 2 s.clock) s.clock (.lspAccess id)

/-- A WAIT has read its location: it completes, or waits for its monitor; where that has fired meanwhile, or another space has
none, it reads again (R133). -/
def judgeWait (s : State) (o q : Nat) (c : BitVec 512) (x : Nat) : State :=
  if waitHolds (cmdField c 0x18 1) x (cmdField c 0x10 8) then
    endCommand { s with watchers := s.watchers.filter (fun w => w.2.queue != some (queueKey o q)) } o q []
  else if (queue s o q).watcher.isSome then s
  else postOwner s o 1 (.wait o q)

/-- R353, R133: the monitor is armed, then the location is read; a wake reads it again. None is begun while the owner is being
saved. (DEDUCED, log entry 64) -/
def execWait (o q : Nat) (s : State) : Answer :=
  .next (match (queue s o q).cmd with
  | none => s
  | some c =>
    match queueAcc s o q, queueState s o q with
    | some a, some .later =>
      if a.checked ∧ a.passes.isEmpty ∧ a.waiting = 0 ∧ a.got.isEmpty then armWait s o q ((queue s o q).acc.getD 0) a else s
    | _, some (.bad t) => queueFault s o q t
    | _, some (.got x) => judgeWait (queueClose s o q) o q c x
    | _, none | none, some .later =>
      if (queue s o q).watcher.isSome ∨ (owner s o).saving ∨ (owner s o).saved then s
      else queueOpen s o q (queueAccess s o q (queueReqs (BitVec.ofNat 64 (cmdField c 0x08 8)) 8) false))

/-! Invalidations (R138, R139). -/

/-- An invalidation starts on every live die, in the owner's first WLK position there. (DEDUCED, log entry 64; DEDUCED, log entry 65) -/
def startInval (s : State) (v : Inval) : State :=
  let id := s.nextId
  let dies := List.range s.fuses.dies
  let s := tick { s with invals := mset s.invals id { v with dies := dies } }
  let wait := if counts (owner s v.owner) then nextPos s v.owner 8 s.clock - s.clock else 0
  dies.foldl (fun s d => postOwner s v.owner wait (.invalRemoval id d)) s

/-- R353, R7: the range's address is translated, and a fault on it halts the queue; the removal begins at once (R139).
(DEDUCED, log entry 120) -/
def execInval (o q : Nat) (s : State) : Answer :=
  .next (match (queue s o q).cmd with
  | none => s
  | some c =>
    let va := BitVec.ofNat 64 (cmdField c 0x08 8)
    let len := cmdField c 0x10 8
    match queueAcc s o q with
    | some a => match lineTrap a with
      | some t => if a.checked then queueFault s o q t else s
      | none => if a.checked then queueClose s o q else s
    | none =>
      if (queue s o q).inval.isSome then s
      else
        let id := s.nextId
        let s := if len = 0 then s else queueOpen s o q (queueAccess s o q [readReq 7 va 0 1] false)
        let s' := modQueue s o q (fun x => { x with inval := some s.nextId })
        startInval s' ⟨o, some q, false, va.toNat, len, [], if len = 0 then [] else [id], []⟩)

/-- A range of an invalidation meets another. -/
def Inval.meets (v : Inval) (base size : Nat) : Bool := v.len == 0 || (base < v.base + v.len && v.base < base + size)

/-- An entry goes: a combined translation of the range, or one made through a stage-2 page of the range. -/
def Inval.drops (v : Inval) (t : TlbEntry) : Bool :=
  t.owner == v.owner &&
  (if v.stage2 then v.meets (if t.stage2 then t.x.va else t.x.gpa) t.x.size else !t.stage2 && v.meets t.x.va t.x.size)

/-- A translation is of the range. -/
def Inval.hits (v : Inval) (y : Xlat) : Bool := if v.stage2 then v.meets y.gpa y.size else v.meets y.va y.size

/-- The range's replicas on some dies are dropped (R48, R138). (DEDUCED, log entry 65) -/
def dropReplicas (s : State) (v : Inval) (p : Nat → Bool) : State :=
  { s with l2 := s.l2.filter (fun l => !(l.owner == v.owner && p l.die && l.replica && v.hits l.page))
           l1 := s.l1.filter (fun l => !(l.owner == v.owner && p (l.at_ / 32) && l.replica && v.hits l.page)) }

/-- R24, R139: a die's entries and replicas go, its walks restart, those that may end in a page of the range note it, and the accesses that used them are noted. (DEDUCED, log entry 65) -/
def execInvalRemoval (v d : Nat) (s : State) : Answer :=
  .next (match mfind s.invals v with
  | none => s
  | some x =>
    let uses := (s.accs.filter (fun e => e.2.owner == x.owner && e.2.die == d && e.2.xlats.any x.hits &&
      !s.waiters.any (fun w => w.acc == e.1))).map (·.1)
    let s := dropReplicas { s with
      coreTlb := s.coreTlb.filter (fun t => !(t.at_ / 32 == d && x.drops t))
      dieTlb := s.dieTlb.filter (fun t => !(t.at_ == d && x.drops t)) } x (· == d)
    let mine (w : Walk) : Bool := w.owner == x.owner && w.die == d
    let s := restartWalks s (fun _ w => mine w && (x.stage2 || x.meets w.va 65536))
    let near (w : Walk) : Bool := mine w && !(x.stage2 || x.meets w.va 65536) && x.meets (w.va / 2 ^ 29 * 2 ^ 29) (2 ^ 29)
    let noted := (s.walks.filter (fun w => near w.2)).map (·.1)
    let s := { s with walks := mall s.walks (fun _ w => if near w then { w with avoid := (x.base, x.len) :: w.avoid } else w) }
    let x := { x with dies := x.dies.erase d, accs := x.accs ++ uses, walks := x.walks ++ noted }
    let s := { s with invals := mset s.invals v x }
    if x.dies.isEmpty then postOwner s x.owner 8 (.invalComplete v) else s)

/-- R139: every die has finished and the accesses under the old translations are performed; until then it waits. (DEDUCED, log entry 65) -/
def execInvalComplete (v : Nat) (s : State) : Answer :=
  .next (match mfind s.invals v with
  | none => s
  | some x =>
    if x.accs.any (fun a => (mfind s.accs a).isSome) || x.walks.any (fun w => (mfind s.walks w).isSome) then postOwner s x.owner 8 (.invalComplete v)
    else
      let s := dropReplicas { s with invals := mdel s.invals v } x (fun _ => true)
      match x.queue with
      | some q => if (queue s x.owner q).inval = some v then endCommand s x.owner q [] else s
      | none => pfSet s (entryOff x.owner 0x10) (putBits (entry s x.owner 0x10) 0 1 0))

/-! REPLAY (R354). -/

/-- Another queue's replay uses the graph. -/
def graphBusy (s : State) (o q : Nat) (graph : BitVec 64) : Bool :=
  (List.range 64).any (fun p => p != q && (match (queue s o p).replay with | some r => r.graph == graph | none => false))

/-- A patch entry applied to the copy of the commands; none where it is malformed. (DEDUCED, log entry 61) -/
def applyPatch (cmds : List (BitVec 512)) (e : Nat) : Option (List (BitVec 512)) :=
  let i := e % 2 ^ 32
  let off := e / 2 ^ 32 % 2 ^ 16
  if e / 2 ^ 48 % 2 ^ 16 ≠ 0 ∨ off % 8 ≠ 0 ∨ off < 8 ∨ 0x38 < off ∨ cmds.length ≤ i then none
  else some (cmds.set i (putBits (cmds.getD i 0) (8 * off) 64 (e / 2 ^ 64)))

/-- Address and length of the next piece that a replay reads; none when all is read. -/
def replayPiece (r : Replay) : Option (BitVec 64 × Nat) :=
  match r.count with
  | none => some (r.graph, 64)
  | some n =>
    if r.cmds.length < n then some (r.graph + 64 + BitVec.ofNat 64 (64 * r.cmds.length), 64)
    else if r.patch = 0 then none
    else match r.patches with
      | none => some (r.patch, 16)
      | some m => if r.applied < m then some (r.patch + 16 + BitVec.ofNat 64 (16 * r.applied), 16) else none

/-- The piece read; none where it is malformed. (DEDUCED, log entry 61) -/
def replayTake (r : Replay) (x : Nat) : Option Replay :=
  match r.count with
  | none => if x / 2 ^ 32 ≠ 0 ∨ x = 0 ∨ 4096 < x then none else some { r with count := some x }
  | some n =>
    if r.cmds.length < n then some { r with cmds := r.cmds ++ [BitVec.ofNat 512 x] }
    else match r.patches with
      | none => if x / 2 ^ 32 ≠ 0 then none else some { r with patches := some x }
      | some _ => (applyPatch r.cmds x).map (fun cs => { r with cmds := cs, applied := r.applied + 1 })

/-- R354: one piece of the graph or patch is read; with all of it read, its commands run. -/
def execReplay (o q : Nat) (s : State) : Answer :=
  .next (
    let x := queue s o q
    match x.cmd, x.replay with
    | some c, none =>
      let graph := BitVec.ofNat 64 (cmdField c 0x08 8)
      if graphBusy s o q graph then s
      else
        let r : Replay := ⟨c, graph, BitVec.ofNat 64 (cmdField c 0x10 8), none, none, [], 0, false, 0⟩
        postOwner (modQueue s o q (fun x => { x with replay := some r })) o 0 (.replay o q)
    | _, some r =>
      if r.ready then s
      else if (owner s o).saving || (owner s o).saved then s
      else match replayPiece r with
        | none =>
          if r.cmds.any (fun c => malformed c true) then wakeReplays (queueError s o q 3 0 0) o
          else nextReplayed (modQueue s o q (fun x => { x with cmd := none, replay := some { r with ready := true } })) o q
        | some (va, n) =>
          match queueRead s o q va n with
          | (.bad t, s) => queueFault s o q t
          | (.later, s) => s
          | (.got v, s) =>
            match replayTake r v with
            | none => wakeReplays (queueError s o q 3 0 0) o
            | some r => postOwner (modQueue s o q (fun x => { x with replay := some r })) o 0 (.replay o q)
    | none, none => s)

/-- R353: a FENCE waits for every command of the owner's other queues whose notify was taken in before it started. (DEDUCED, log entry 63) -/
def execFenceCommand (o q : Nat) (s : State) : Answer :=
  .next (
    let x := queue s o q
    let done (l : List (Nat × Nat)) : State := if l.isEmpty then endCommand s o q [] else modQueue s o q (fun x => { x with fence := some l })
    if x.cmd.isNone then s
    else match x.fence with
      | some l => if l.isEmpty then endCommand s o q [] else s
      | none => done (((List.range 64).filter (· != q)).filterMap (fun p =>
          let y := queue s o p
          let n := (y.tail + queueSize s o p - y.head) % queueSize s o p + (if y.cmd.isSome ∨ y.replay.isSome then 1 else 0)
          if n = 0 then none else some (p, n))))

/-! VF writes (R170, R351, R352). -/

/-- The interface is locked: its set of R363 is frozen. -/
def locked (s : State) (o : Nat) : Bool := owTdisp s o && (owState s o == 1 || owState s o == 2)

/-- A write of a queue's register. (DEDUCED, log entry 70) -/
def queueWrite (s : State) (o q w : Nat) (v : BitVec 64) : State :=
  match w with
  | 0 =>
    let new := BitVec.ofNat 64 (ext v 12 40 * 4096 + ext v 0 5)
    if new = vfGet s o (queueReg q 0) then s
    else if locked s o then toError s o
    else if ext v 0 5 < 4 ∨ 16 < ext v 0 5 then s
    else vfSet s o (queueReg q 0) new
  | 8 =>
    let s := vfSet s o (queueReg q 8) (BitVec.ofNat 64 (ext v 0 1))
    if v.getLsbD 1 then post s s.clock (.queueRestart o q) else pumpQueue s o q
  | 24 => if v.getLsbD 63 then vfSet s o (queueReg q 24) (putBits (vfGet s o (queueReg q 24)) 63 1 0) else s
  | _ => s

/-- R14: the root changes, and the owner's cached translations go. (DEDUCED, log entry 95) -/
def changeRoot (s : State) (o : Nat) (root : BitVec 64) : State :=
  if (owner s o).root = root then s
  else modOwner { s with coreTlb := s.coreTlb.filter (fun t => t.owner != o), dieTlb := s.dieTlb.filter (fun t => t.owner != o) } o
    (fun w => { w with root := root })

/-- One write of an owner's register acts. A TRBASE written waits for the launch that samples it (R14). (DEDUCED, log entry 95) -/
def takeVfWrite (s : State) (o off : Nat) (v : BitVec 64) : State :=
  if off < 0x200 ∧ off % 8 = 0 then
    let q := off / 8
    let s := vfSet s o off v
    pumpQueue (modQueue s o q (fun x => { x with tail := ext v 0 16 % queueSize s o q })) o q
  else if 0x1000 ≤ off ∧ off < 0x1800 then queueWrite s o ((off - 0x1000) / 32) (off % 32) v
  else match off with
    | 0x400 =>
      vfSet s o 0x400 (BitVec.ofNat 64 (ext v 16 36 * 65536 + ext v 0 1))
    | 0x800 => if ext v 0 5 < 8 ∨ 20 < ext v 0 5 then s else vfSet s o 0x800 (BitVec.ofNat 64 (ext v 12 40 * 4096 + ext v 0 5))
    | 0x808 => vfSet s o 0x808 (BitVec.ofNat 64 (ext v 0 1))
    | 0x810 => post s s.clock (.eventRingDoorbell o v)
    | 0xA00 => if ext v 0 5 < 9 ∨ 20 < ext v 0 5 then s else vfSet s o 0xA00 (BitVec.ofNat 64 (ext v 12 40 * 4096 + ext v 0 5))
    | 0xA08 =>
      let s := vfSet s o 0xA08 (BitVec.ofNat 64 (ext v 0 1))
      if v.getLsbD 1 then post s s.clock (.dirtyLogEpoch o) else s
    | 0xA18 => vfSet s o 0xA18 (BitVec.ofNat 64 (ext v 0 32))
    | 0xA20 => if v.getLsbD 0 then vfSet s o 0xA20 0 else s
    | _ => s

/-- A stored write may act now: no notify does from the save request until the restore (R343). (DEDUCED, log entry 81) -/
def mayTake (w : Owner) (e : Nat × BitVec 64) : Bool := !((w.saving || w.saved) && e.1 < 0x200)

/-- R170: the oldest stored write is taken in. -/
def execVfWriteTakeIn (o : Nat) (s : State) : Answer :=
  .next (
    let w := owner s o
    if !counts w then s
    else match w.stored.find? (mayTake w) with
      | none => s
      | some e => takeVfWrite (modOwner s o (fun w => { w with stored := w.stored.erase e })) o e.1 e.2)

/-- R352: a halted queue whose error is cleared resumes at QHEAD. -/
def execQueueRestart (o q : Nat) (s : State) : Answer :=
  .next (
    if (queue s o q).halted && !(vfGet s o (queueReg q 24)).getLsbD 63 then pumpQueue (modQueue s o q (fun x => { x with halted := false })) o q
    else s)

/-- A VF write arrives: it is stored, and taken in at once when the owner's cycles count (R170). An owner out of RUN has
no residency to wait for, and the write acts at once. (DEDUCED, log entry 70; DEDUCED, log entry 95) -/
def storeVfWrite (s : State) (o off : Nat) (v : BitVec 64) : State :=
  if !(owner s o).running ∧ !(owner s o).entering then takeVfWrite s o off v else
  let s := modOwner s o (fun w => { w with stored := w.stored ++ [(off, v)] })
  if counts (owner s o) then post s s.clock (.vfWriteTakeIn o) else s

end Sys2Proof.Machine
end

