-- ==== Sys2Proof/Machine/Launch.lean ====
section
/-! DEFINITION. Launches (R14, R141, R143 to R146, R353, R358, R409): the root, the descriptor, placement, the blocks' start
and end times, and completion. -/

namespace Sys2Proof.Machine

/-! The stage-1 root (R14). -/

/-- A launch of another queue has passed its sampling and has not completed. -/
def inFlight (s : State) (o q : Nat) : Bool := (List.range 64).any (fun p => p != q && (queue s o p).launch.isSome)

/-- A launch that started earlier waits for a root change. -/
def rootAhead (s : State) (o q : Nat) : Bool :=
  (List.range 64).any (fun p => p != q && (queue s o p).rootWait.isSome && (queue s o p).order < (queue s o q).order)

/-- A launch that has sampled `root` goes on to its descriptor, or waits. -/
def sampleRoot (s : State) (o q : Nat) (root : BitVec 64) : State :=
  if rootAhead s o q ∨ ((owner s o).root ≠ root ∧ inFlight s o q) then modQueue s o q (fun x => { x with rootWait := some root })
  else
    let s := modQueue (changeRoot s o root) o q (fun x => { x with rootWait := none, launch := some 0 })
    postOwner s o 0 (.launchStart o q)

/-- R353, R14: TRBASE is sampled. -/
def execLaunch (o q : Nat) (s : State) : Answer :=
  .next (if (queue s o q).cmd.isNone then s else sampleRoot s o q (vfGet s o 0x400))

/-- Launches that wait for a root go on in the order in which they started. -/
def wakeRoots (s : State) (o : Nat) : State :=
  let waiting := (List.range 64).filter (fun q => (queue s o q).rootWait.isSome)
  (sortBy (fun p q => (queue s o p).order ≤ (queue s o q).order) waiting).foldl (fun s q =>
    match (queue s o q).rootWait with
    | some root => sampleRoot s o q root
    | none => s) s

/-! The descriptor (R144, R145). -/

def threadsOf (d : BitVec 512) : List Nat := (List.range 4).map (fun i => cmdField d (0x28 + 2 * i) 2)
def budgetsOf (d : BitVec 512) : List Nat := (List.range 4).map (fun i => cmdField d (0x30 + i) 1)
def blocksIn (d : BitVec 512) : Nat := cmdField d 0x18 4 * cmdField d 0x1C 4 * cmdField d 0x20 4

/-- A code address a descriptor may name. -/
def codeVa (x : Nat) : Bool := canonical (BitVec.ofNat 64 x) && x % 2 == 0

/-- Launch groups of a block homed in a partition. -/
def groupsIn (threads part : Nat) : Nat := ((List.range (threads / 32)).filter (fun i => i % 4 == part)).length

/-- Slots of a partition that an owner's blocks may use (R49): number of the first, and how many. -/
def blockRange (storage : BitVec 64) (part : Nat) : Nat × Nat :=
  let base := ext storage 40 5
  let n := ext storage 0 5
  if part < 2 then (base + 1, n - 1) else (base, n)

/-- What one block needs: slots of each partition, scratchpad KiB, tiles of each partition it has groups in. -/
structure Need where
  slots : List Nat
  spad : Nat
  tiles : Nat
deriving DecidableEq, Repr, Inhabited

def needOf (threads spad tiles : Nat) : Need := ⟨(List.range 4).map (groupsIn threads), spad, tiles⟩

/-- The need never exceeds the quota on a core (R51). -/
def needFits (storage : BitVec 64) (n : Need) : Bool :=
  (List.range 4).all (fun p => n.slots.getD p 0 ≤ (blockRange storage p).2) && 1 ≤ ext storage 32 6 && n.spad ≤ ext storage 16 9 &&
  n.tiles ≤ ext storage 8 5

/-- The lowest launch reason of a descriptor that fails a check (R145), from the second on. -/
def descriptorReason (s : State) (o : Nat) (storage : BitVec 64) (d : BitVec 512) : Option Nat :=
  let f := cmdField d
  let m := f 0x24 4
  let total := (threadsOf d).sum
  let mask := f 0x3A 2
  if !codeVa (f 0 8) ∨ (f 8 8 ≠ 0 ∧ !codeVa (f 8 8)) then some 2
  else if f 0x18 4 = 0 ∨ f 0x1C 4 = 0 ∨ f 0x20 4 = 0 ∨ 2 ^ 32 < blocksIn d then some 3
  else if m = 0 ∨ 8 < m ∨ blocksIn d % m ≠ 0 then some 4
  else if (threadsOf d).any (fun t => t % 32 != 0) ∨ total < 32 ∨ 1024 < total then some 5
  else if ((threadsOf d).zip (budgetsOf d)).any (fun e =>
      if e.1 = 0 then e.2 != 0 else e.2 < 8 || 64 < e.2 || e.2 % 8 != 0) then some 6
  else if f 0x34 1 < 16 ∨ 160 < f 0x34 1 ∨ 16 < f 0x35 1 ∨ 256 < f 0x36 2 then some 7
  else if 16 ≤ f 0x38 2 ∨ f 0x3C 4 ≠ 0 then some 8
  else if mask = 0 ∨ (diesOf mask).any (fun i => !liveDie s i || !(owDies s o).testBit i) then some 9
  else if !needFits storage (needOf total (f 0x36 2) (f 0x35 1)) then some 10
  else none

/-! Placement (R143, R358). -/

/-- Slots of a partition of a core that blocks hold, whatever their owner: a block keeps what it holds while its owner's
words change (R51), and no slot is two owners' at a time (R30). -/
def slotsHeld (s : State) (core part : Nat) : List Nat :=
  s.blocks.flatMap (fun e => if 32 * e.2.die + e.2.core = core then
    (e.2.slots.filter (fun x => x.1 == part)).map (fun x => x.2.1) else [])

/-- Free block slots of a partition, ascending. -/
def slotsFree (s : State) (o core part : Nat) : List Nat :=
  let (base, n) := blockRange (owner s o).storage part
  ((List.range n).map (· + base)).filter (fun i => !(slotsHeld s core part).contains i && !(group s (24 * (4 * core + part) + i)).live)

/-- A core has the room that one block needs: within its owner's quotas, and beside what other owners' blocks still hold
(R30, R51). -/
def roomAt (s : State) (o core : Nat) (n : Need) : Bool :=
  let w := (owner s o).storage
  let here := s.blocks.filter (fun e => 32 * e.2.die + e.2.core == core && !e.2.released)
  let mine := here.filter (fun e => e.2.owner == o)
  let spad (bs : List (Nat × Block)) : Nat := (bs.map (fun e => e.2.spadSize / 1024)).sum
  here.length < 48 && spad here + n.spad ≤ 256 &&
  (List.range 4).all (fun p => n.slots.getD p 0 == 0 || (here.map (fun e => tilesTaken e.2 p)).sum + n.tiles ≤ 16) &&
  (List.range 4).all (fun p => n.slots.getD p 0 ≤ (slotsFree s o core p).length) && mine.length < ext w 32 6 &&
  spad mine + n.spad ≤ ext w 16 9 &&
  (List.range 4).all (fun p => n.slots.getD p 0 == 0 || tilesUsed s o core p + n.tiles ≤ ext w 8 5)

/-- The lowest die of the mask, and on it the lowest core, from which the cores of a cluster all have room. -/
def placeFor (s : State) (l : Launch) : Option (Nat × Nat) :=
  let n := needOf l.threads.sum l.spadKiB l.tiles
  (diesOf l.diemask.toNat).findSome? (fun d =>
    ((List.range 32).find? (fun k => (List.range l.clusterSize).all (fun i => roomAt s l.owner (32 * d + (k + i) % 32) n))).map (fun k => (d, k)))

/-- Stage of a thread of a block, and the first thread of that stage (R143). -/
def stageAt : List Nat → Nat → Nat → Nat × Nat
  | [], st, _ => (st, 0)
  | n :: r, st, t => if t < n then (st, 0) else let (a, b) := stageAt r (st + 1) (t - n); (a, b + n)

/-- The slots that the launch groups of a block take: the owner's block slots in ascending order, with their stage. -/
def slotsFor (s : State) (l : Launch) (core : Nat) : List (Nat × Nat × Nat) :=
  (List.range (l.threads.sum / 32)).map (fun i =>
    (i % 4, (slotsFree s l.owner core (i % 4)).getD (i / 4) 0, (stageAt l.threads 0 (32 * i)).1))

/-- A block takes its room on a core. -/
def placeBlock (s : State) (id cluster rank die core : Nat) : State :=
  let l := launch s id
  let slots := slotsFor s l (32 * die + core)
  let b : Block := { (default : Block) with
    owner := l.owner, launch := id, index := cluster * l.clusterSize + rank, cluster := cluster, rank := rank, die := die, core := core
    placed := s.nextId, slots := slots, spadSize := 1024 * l.spadKiB
    ntiles := ((List.range 4).filter (fun p => slots.any (fun x => x.1 == p))).map (fun p => (p, l.tiles)) }
  tick { s with blocks := mset s.blocks s.nextId b }

/-- Places the launch's next cluster, if a place has room. -/
def placeCluster (s : State) (id : Nat) : Option State :=
  let l := launch s id
  match placeFor s l with
  | none => none
  | some (d, k) =>
    let s := (List.range l.clusterSize).foldl (fun s i => placeBlock s id l.nextCluster i d ((k + i) % 32)) s
    some (modLaunch s id (fun l => { l with nextCluster := l.nextCluster + 1 }))

def clustersOf (l : Launch) : Nat := l.gx * l.gy * l.gz / max 1 l.clusterSize

/-- Launches of an owner with waiting clusters, in the order in which their commands started. -/
def waitingLaunches (s : State) (o : Nat) : List Nat :=
  (sortBy (fun x y => x.2.order ≤ y.2.order) (s.launches.filter (fun e => e.2.owner == o && e.2.nextCluster < clustersOf e.2))).map (·.1)

/-- Places clusters until one finds no room: those that were placed, by launch and cluster. -/
def placeWaiting (o : Nat) : Nat → State → List (Nat × Nat) × State
  | 0, s => ([], s)
  | n + 1, s =>
    match waitingLaunches s o with
    | [] => ([], s)
    | id :: _ =>
      match placeCluster s id with
      | none => ([], s)
      | some s' =>
        let (r, t) := placeWaiting o n s'
        ((id, (launch s id).nextCluster) :: r, t)

/-- A bound on the clusters that the owner's cores can hold. -/
def placeBound (s : State) : Nat := 32 * s.fuses.dies * 24 * 4

/-! LAUNCH: start (R141, R145, R409). -/

/-- The launch refuses to run: its queue halts (R145). (DEDUCED, log entry 71) -/
def refuseLaunch (s : State) (o q reason : Nat) : State := wakeRoots (queueError s o q 4 0 reason) o

/-- Stale copies go before the launch's threads read (R141). (DESIGN CHOICE, log entry 132) -/
def freshCaches (s : State) (o mask : Nat) : State :=
  let on (core : Nat) : Bool := mask.testBit (core / 32)
  let s := { s with
    l1 := s.l1.filter (fun l => !(l.owner == o && on l.at_)), l0 := s.l0.filter (fun l => !(l.owner == o && on (l.at_ / 4)))
    reqs := mall s.reqs (fun _ r => if r.owner = o ∧ mask.testBit r.die then (match r.kind with | .read _ => { r with policy := 3 } | _ => r) else r) }
  { s with groups := mall s.groups (fun k g => if g.owner = o ∧ on (coreKey k) then { g with loop := g.loop.map (fun p => { p with body := [] }) } else g) }

/-- The launch of a descriptor that passes. -/
def launchOf (o q : Nat) (x : Queue) (d : BitVec 512) : Launch :=
  { (default : Launch) with
    owner := o, queue := q, cmd := x.index, order := x.order
    entry := BitVec.ofNat 64 (cmdField d 0 8), handler := BitVec.ofNat 64 (cmdField d 8 8), arg := BitVec.ofNat 64 (cmdField d 0x10 8)
    gx := cmdField d 0x18 4, gy := cmdField d 0x1C 4, gz := cmdField d 0x20 4, clusterSize := cmdField d 0x24 4
    threads := threadsOf d, budgets := budgetsOf d, scount := cmdField d 0x34 1, tiles := cmdField d 0x35 1, spadKiB := cmdField d 0x36 2
    flags := BitVec.ofNat 16 (cmdField d 0x38 2), diemask := BitVec.ofNat 16 (cmdField d 0x3A 2), blocksLeft := blocksIn d }

/-- R145, R358: the descriptor read returns: its checks, the storage word (R51), placement, and the launch-start time. (DEDUCED, log entry 71; DEDUCED, log entry 113) -/
def execLaunchStart (o q : Nat) (s : State) : Answer :=
  .next (match (queue s o q).cmd with
  | none => s
  | some c =>
    let va := BitVec.ofNat 64 (cmdField c 8 8)
    if va.toNat % 64 ≠ 0 then refuseLaunch s o q 1
    else match queueRead s o q va 64 with
      | (.bad _, s) => refuseLaunch s o q 1
      | (.later, s) => s
      | (.got d, s) =>
        let d := BitVec.ofNat 512 d
        let s := modOwner s o (fun w => { w with storage := entry s o 0x20 })
        match descriptorReason s o (owner s o).storage d with
        | some r => refuseLaunch s o q r
        | none =>
          let id := s.nextId
          let s := tick { s with launches := mset s.launches id (launchOf o q (queue s o q) d) }
          let s := modQueue (modOwner s o (fun w => { w with starts := w.starts + 1 })) o q (fun x => { x with launch := some id })
          let s := freshCaches s o (cmdField d 0x3A 2)
          let (placed, s) := placeWaiting o (placeBound s) s
          let s := (placed.filter (fun p => p.1 != id)).foldl (fun s p => postOwner s o 2048 (.laterPlacementEnd p.1 p.2)) s
          postOwner s o 4096 (.launchStartEnd id))

/-! Blocks begin and end. -/

/-- Launch group `i` of a block forms in its slot (R146). (DESIGN CHOICE, log entry 131) -/
def formLaunchGroup (s : State) (b i : Nat) : State :=
  let x := block s b
  let l := launch s x.launch
  let (part, slot, stage) := x.slots.getD i (0, 0, 0)
  let first := (stageAt l.threads 0 (32 * i)).2
  let k := gkey x.die x.core part slot
  let count := mget s.formations k + 1
  let turn := (s.clock + 7) / 8
  let g : Group := { (default : Group) with
    owner := x.owner, launch := x.launch, block := b, blkIndex := x.index, rank := x.rank, stage := stage
    blkx := x.index % max 1 l.gx, blky := x.index / max 1 l.gx % max 1 l.gy, blkz := x.index / max 1 (l.gx * l.gy)
    budget := l.budgets.getD stage 0, scount := l.scount, live := true, holder := holderId k count
    tid := (List.range 32).map (fun t => (t, 32 * i + t))
    v := (List.range 32).map (fun t => (t, BitVec.ofNat 32 (32 * i + t))) ++
      (List.range 32).map (fun t => (32 + t, BitVec.ofNat 32 (32 * i + t - first)))
    s := [(0, l.arg), (1, BitVec.ofNat 64 x.index), (2, BitVec.ofNat 64 (l.gx * l.gy * l.gz)), (3, BitVec.ofNat 64 x.rank)]
    frags := [{ (default : Frag) with mask := BitVec.allOnes 32, pc := l.entry, notBefore := turn, since := turn }], nextTurn := turn }
  noteWrites { s with groups := mset s.groups k g, formations := mset s.formations k count } x.launch
    (g.v.map (fun e => .v 0 0 e.2) ++ g.s.map (fun e => .s 0 e.2))

/-- A block's groups form and start. -/
def beginBlock (s : State) (b : Nat) : State :=
  let s := modBlock s b (fun x => { x with begun := true })
  (List.range (block s b).slots.length).foldl (fun s i => formLaunchGroup s b i) s

/-- A later placement of the cluster is still in its time. -/
def placedLater (s : State) (o l c : Nat) : Bool :=
  s.agenda.any (fun e => e.2 == .laterPlacementEnd l c) || (owner s o).held.any (fun e => e.2 == .laterPlacementEnd l c)

/-- R409: the launch-start time ends: the blocks placed at the start begin together. (DEDUCED, log entry 113) -/
def execLaunchStartEnd (l : Nat) (s : State) : Answer :=
  .next (
    let mine := s.blocks.filter (fun e => e.2.launch == l && !e.2.begun && !e.2.ended && !placedLater s e.2.owner l e.2.cluster)
    mine.foldl (fun s e => beginBlock s e.1) s)

/-- R409: a later placement's time ends: its cluster's blocks begin. -/
def execLaterPlacementEnd (l c : Nat) (s : State) : Answer :=
  .next ((s.blocks.filter (fun e => e.2.launch == l && e.2.cluster == c && !e.2.begun && !e.2.ended)).foldl (fun s e => beginBlock s e.1) s)

/-- Another block of the owner ends its time in this owner cycle: room is released together (R358). -/
def moreBlockEnds (s : State) (o : Nat) : Bool :=
  s.agenda.any (fun e => e.1 ≤ s.clock && (match e.2 with | .blockEndTimeEnd b => blockOwner s b == some o | _ => false))

/-- The block's slots in which a group still drains (R151, R225): they stay held. (DEDUCED, log entry 114) -/
def slotsDraining (s : State) (b : Nat) (x : Block) : List (Nat × Nat × Nat) :=
  x.slots.filter (fun y => isOf (group s (gkey x.die x.core y.1 y.2.1)) b)

/-- A block whose room is free, but for the slots that still drain; what they still run goes on with its storage, which
nothing else reaches. (DEDUCED, log entry 114) -/
def releasedBlock (x : Block) (slots : List (Nat × Nat × Nat)) : Block :=
  { x with released := true, slots := slots, ntiles := [], wants := [], freeing := [] }

/-- A block's room is free: `talloc`s are granted (R156) and waiting clusters are placed (R358). (DEDUCED, log entry 114) -/
def roomFreed (s : State) (x : Block) : State :=
  let s := (List.range 4).foldl (fun s p => serveTallocs s x.owner (32 * x.die + x.core) p) s
  if moreBlockEnds s x.owner then s
  else
    let (placed, s) := placeWaiting x.owner (placeBound s) s
    placed.foldl (fun s p => postOwner s x.owner 2048 (.laterPlacementEnd p.1 p.2)) s

/-- R409, R55: a block's room is wiped and free; a slot that still drains stays held until it empties (R225). (DEDUCED, log entry 30) -/
def execBlockEndTimeEnd (b : Nat) (s : State) : Answer :=
  .next (match mfind s.blocks b with
  | none => s
  | some x =>
    if !x.ended then s
    else
      let kept := slotsDraining s b x
      let gone := (blockSlots x).filter (fun k => !(blockSlots { x with slots := kept }).contains k)
      roomFreed { s with
        blocks := if kept.isEmpty then mdel s.blocks b else mset s.blocks b (releasedBlock x kept)
        groups := s.groups.filter (fun e => !(gone.contains e.1 && e.2.block == b && !e.2.migrated))
        badRegs := s.badRegs.filter (fun e => !(gone.contains e.1 && e.2 < 2 ^ 20) && !(e.1 == b && 2 ^ 20 ≤ e.2)) } x)

/-! Completion (R141, R409). -/

/-- R141: everything of the launch has been performed: the completion time begins. -/
def execLaunchCompletion (l : Nat) (s : State) : Answer :=
  .next (match mfind s.launches l with
  | none => s
  | some x => if x.completing then postOwner s x.owner 1024 (.launchCompletionEnd l) else s)

/-- The sums of a launch's cones over its cores (R328). -/
def coneSums (l : Launch) : List (BitVec 64) :=
  (List.range 8).map (fun n => (l.cones.filter (fun e => e.1 % 8 == n)).foldl (fun a e => a + e.2) 0)

/-- R409: the LAUNCH completes: its replicas go (R141), its record is written (R356), and a waiting root may change (R14). -/
def execLaunchCompletionEnd (l : Nat) (s : State) : Answer :=
  .next (match mfind s.launches l with
  | none => s
  | some x =>
    let s := { s with launches := mdel s.launches l, l2 := s.l2.filter (fun y => !(y.owner == x.owner && y.replica && y.launch == l))
                      l1 := s.l1.filter (fun y => !(y.owner == x.owner && y.replica && y.launch == l)) }
    wakeRoots (endCommand s x.owner x.queue (coneSums x)) x.owner)

end Sys2Proof.Machine
end

