-- ==== Sys2Proof/Machine/Preempt.lean ====
section
/-! DEFINITION. Pre-emption and context images (R341 to R348, R404 to R407): the request taken in, the halt, the image
taken at the quantum boundary, and the image brought back at a residency start. -/

namespace Sys2Proof.Machine

/-! The halt (R341). -/

/-- A migration whose grant has not reached its group is withdrawn: the group stands at its `mig` again (R85). -/
def withdrawMig (s : State) (m : Nat) (x : Mig) : State :=
  let here (p : Payload) : Bool := p == .landRequest m || p == .landGrant m
  let op := mget s.ops x.op
  let s := { s with
    migs := mdel s.migs m, ops := mdel s.ops x.op
    landings := mall s.landings (fun _ l => l.filter (· != m))
    messages := s.messages.filter (fun e => !here e.2.payload)
    agenda := s.agenda.filter (fun e => match e.2 with
      | .landingRequestArrival n | .landingGrantArrival n => n != m
      | _ => true) }
  modGroup s x.g (fun g => { finishOp g 1 x.op with
    frags := g.frags.map (fun f => if f.status = .migrate then { f with status := .run, pc := op.pc } else f) })

/-- All such migrations of an owner. -/
def withdrawMigs (s : State) (o : Nat) : State :=
  (s.migs.filter (fun e => e.2.owner == o && e.2.cargo.isNone)).foldl (fun s e => withdrawMig s e.1 e.2) s

/-- R341: an accepted save request is taken in: groups start nothing more, and queues no command (R343, R404). (DEDUCED, log entry 103) -/
def execSaveRequestTakeIn (o : Nat) (s : State) : Answer :=
  .next (
    let s := withdrawMigs (modOwner s o (fun w => { w with saving := true, savingFrom := s.clock })) o
    postOwner s o (8 - s.clock % 8) (.preemptionHaltDone o))

/-- Operations that a save leaves suspended: a `bcpy` with no line in flight (R291), a Refire run at a step boundary (R324), and
a coil drain that waits for such a `bcpy`. (DEDUCED, log entry 103) -/
def suspended (op : EngOp) : Bool :=
  match op.kind with
  | .drain _ => true
  | .rfire => op.pend.isEmpty && !op.started
  | .bcpy => op.nextRead == op.nextWrite && op.half == 0
  | _ => false

/-- A queue's command whose work ends before the image is taken: SIGNAL and INVAL (R343). -/
def mustEnd (x : Queue) : Bool :=
  x.inval.isSome || (match x.cmd with | some c => cmdField c 0 1 == 2 && !(x.replay.any (fun r => !r.ready)) | none => false)

/-- Everything of the owner's that must end or suspend has (R341, step 2). -/
def quiescent (s : State) (o : Nat) : Bool :=
  !s.groups.any (fun e => e.2.owner == o && e.2.live &&
    (e.2.window.isSome || e.2.frags.any (fun f => match f.status with | .joining _ | .branch | .migrate => true | _ => false))) &&
  !s.results.any (fun e => groupOwner s e.2.g == some o) &&
  s.accs.all (fun e => e.2.owner != o || s.waiters.any (fun w => w.acc == e.1)) &&
  !s.reqs.any (fun e => e.2.owner == o) && !s.misses.any (fun e => e.2.owner == o) && !s.walks.any (fun e => e.2.owner == o) &&
  !s.channels.any (fun e => e.2.owner == o) && !s.messages.any (fun e => e.2.owner == o) && !s.migs.any (fun e => e.2.owner == o) &&
  s.ops.all (fun e => e.2.owner != o || suspended e.2) &&
  !s.agenda.any (fun e => match e.2 with | .refireStep r => (mget s.runs r).owner == o | _ => false) &&
  !s.exts.any (fun e => e.2.owner == o && (match e.2.who with | .acc _ _ => true | _ => false)) &&
  !(List.range 64).any (fun q => mustEnd (queue s o q))

/-- R341: once issued operations have completed or suspended, the owner waits for its quantum boundary. -/
def execPreemptionHaltDone (o : Nat) (s : State) : Answer :=
  .next (
    if !(owner s o).saving ∨ (owner s o).halted then s
    else
      let s := withdrawMigs s o
      if quiescent s o then modOwner s o (fun w => { w with halted := true })
      else postOwner s o 8 (.preemptionHaltDone o))

/-! The image (R342, R345, R347, R405). -/

/-- Bytes of an owner's image: the header, and a body for each die of its mask with its tag. -/
def imageLength (s : State) (o : Nat) : Nat :=
  let w := entry s o 0x20
  64 + (diesOf (owDies s o)).length * (32 * (37888 * ext w 0 5 + 1024 * ext w 16 9 + 20480 * ext w 8 5 + 1024 * ext w 32 6 + 4096) +
    (if owTdisp s o then 16 else 0))

/-- A group as an image holds it: vector registers of its budget and v63, no loop buffer, no reuse latch. -/
def savedGroup (g : Group) : Group :=
  { g with
    v := g.v.filter (fun e => e.1 / 32 < g.budget || e.1 / 32 == 63)
    reuse := none, loop := g.loop.map (fun p => { p with body := [] }) }

/-- The owner whose share of the predictor a partition's key names. -/
def predOwner (key : Nat) : Nat := key / 1536

/-- The preserved state of an owner (R342). (DEDUCED, log entry 80) -/
def imageOf (s : State) (o : Nat) : Image where
  owner := o
  prot := owTdisp s o
  diemask := BitVec.ofNat 16 (owDies s o)
  counter := (owner s o).saveCount + 1
  length := imageLength s o
  ocyc := (owner s o).ocyc
  groups := (s.groups.filter (fun e => e.2.owner == o)).map (fun e => (e.1, savedGroup e.2))
  blocks := s.blocks.filter (fun e => e.2.owner == o)
  launches := s.launches.filter (fun e => e.2.owner == o)
  ops := s.ops.filter (fun e => e.2.owner == o)
  runs := s.runs.filter (fun e => e.2.owner == o)
  waiters := s.waiters.filter (fun w => w.owner == o)
  watchers := s.watchers.filter (fun e => e.2.owner == o)
  preds := s.preds.filter (fun e => predOwner (e.1 / 64) == o)
  hits := s.mphit.filter (fun e => predOwner e.1 == o)
  misses := s.mpmiss.filter (fun e => predOwner e.1 == o)
  accs := s.accs.filter (fun e => e.2.owner == o)

/-- The preserved state leaves the owner's storage. -/
def clearContext (s : State) (o : Nat) : State :=
  { s with
    groups := s.groups.filter (fun e => e.2.owner != o), blocks := s.blocks.filter (fun e => e.2.owner != o)
    launches := s.launches.filter (fun e => e.2.owner != o), ops := s.ops.filter (fun e => e.2.owner != o)
    runs := s.runs.filter (fun e => e.2.owner != o), waiters := s.waiters.filter (fun w => w.owner != o)
    watchers := s.watchers.filter (fun e => e.2.owner != o), preds := s.preds.filter (fun e => predOwner (e.1 / 64) != o)
    mphit := s.mphit.filter (fun e => predOwner e.1 != o), mpmiss := s.mpmiss.filter (fun e => predOwner e.1 != o)
    accs := s.accs.filter (fun e => e.2.owner != o) }

/-- The world switch that ends a pre-emption: the image goes to the owner's shadow regions (R345), with the next save
counter (R348). The owner's cycles have been summed. -/
def takeImage (s : State) (o : Nat) : State :=
  let img := imageOf s o
  modOwner (clearContext s o) o (fun w => { w with
    saved := true, saving := false, halted := false, saveCount := w.saveCount + 1, image := some img })

/-! The restore (R348, R343, R131). -/

/-- Entries of a table enter another. -/
def merge {α : Type} (m new : Map α) : Map α := new.foldl (fun m e => mset m e.1 e.2) m

/-- A queue's command in progress goes on after a restore: a WAIT reads its location again (R133), a REPLAY its graph and
patch (R343). -/
def reviveQueue (s : State) (o q : Nat) : State :=
  let x := queue s o q
  let s := match x.cmd with
    | some c =>
      if cmdField c 0 1 = 3 then
        postOwner (modQueue { s with watchers := s.watchers.filter (fun w => w.2.queue != some (queueKey o q)) } o q (fun x => { x with watcher := none }))
          o 0 (.wait o q)
      else s
    | none => s
  match x.replay with
  | some r =>
    let r' := { r with count := none, patches := none, cmds := [], applied := 0, ready := false }
    let s := modQueue s o q (fun x => { x with replay := some r' })
    if (x.cmd.isNone ∨ !r.ready) ∧ x.acc.isNone then postOwner s o 0 (.replay o q) else s
  | none => s

/-- Groups parked in `mon.wait` over a world switch or a save wake with code 2 (R131). -/
def wakeParked (s : State) (o : Nat) : State :=
  (s.groups.filter (fun e => e.2.owner == o && monParked e.2)).foldl (fun s e => wakeMon s e.1 2) s

/-- Work that a save suspended goes on (R291, R324). -/
def reviveWork (s : State) (o : Nat) : State :=
  let copies := ((s.ops.filter (fun e => e.2.owner == o && e.2.kind == .bcpy)).map (fun e => 32 * e.2.die + e.2.core)).eraseDups
  let s := copies.foldl (fun s c => watchCopy s o c) s
  let runs := (s.runs.filter (fun e => e.2.owner == o && e.2.state == 2)).map (·.1)
  let s := runs.foldl (fun s r => resumeStep s r) s
  (List.range 64).foldl (fun s q => reviveQueue s o q) s

/-- The image enters the owner's storage; its cycle count is that of the image (R169, R348). -/
def putImage (s : State) (o : Nat) (img : Image) : State :=
  let s := { s with
    groups := merge s.groups img.groups, blocks := merge s.blocks img.blocks, launches := merge s.launches img.launches
    ops := merge s.ops img.ops, runs := merge s.runs img.runs, waiters := s.waiters ++ img.waiters, watchers := merge s.watchers img.watchers
    preds := merge s.preds img.preds, mphit := merge s.mphit img.hits, mpmiss := merge s.mpmiss img.misses, accs := merge s.accs img.accs }
  modOwner s o (fun w => { w with saved := false, restoring := false, image := none, regions := false, ocyc := img.ocyc })

/-- A shadow region is free on every die of an owner's mask: a die has four (R345). (DEDUCED, log entry 79) -/
def regionFree (s : State) (o : Nat) : Bool :=
  (diesOf (owDies s o)).all (fun d =>
    ((List.range 32).filter (fun p => p != o && (owner s p).regions && (diesOf (owDies s p)).contains d)).length < 4)

/-- Host bus address of CTXBUF. -/
def contextBuffer (s : State) : Nat := ext (pfGet s 0xA0) 12 36 * 4096

/-- R345: the switch ends; the image of a pre-emption is drained to the buffer. -/
def execWorldSwitchEnd (seat : Nat) (s : State) : Answer :=
  .next (
    match (List.range 32).find? (fun o => contextOf s o && (owner s o).saved && (owner s o).image.isSome && seated s o && seatOf s o == seat) with
    | none => s
    | some o => post s s.clock (.imageDrained o))

/-- An image's header (R347). (DEDUCED, log entry 80) -/
def imageHeader (x : Image) : List (BitVec 8) :=
  bytesOf 1 x.owner ++ bytesOf 1 (b2n x.prot) ++ bytesOf 2 x.diemask.toNat ++ bytesOf 4 0 ++ bytesOf 8 x.counter.toNat ++ bytesOf 8 x.length ++
  List.replicate 40 0

/-- R346: the image stands in host memory; its regions are free, and the operation has ended. (DEDUCED, log entry 80) -/
def execImageDrained (o : Nat) (s : State) : Answer :=
  .next (match (owner s o).image with
  | none => s
  | some img =>
    if !(owner s o).saved then s
    else
      let s := hostWrite { s with images := mset s.images (owner s o).buffer img } o (owner s o).buffer (imageHeader img)
      endContext (modOwner s o (fun w => { w with image := none, regions := false })) 0)

end Sys2Proof.Machine
end

