-- ==== Sys2Proof/Machine/Shelf.lean ====
section
/-! DEFINITION. What reaches an owner from outside the package: replies to its requests (R10, R90, R108), requests of the
host and of peers (R68, R69, R91, R109), peer links (R410), and errors that strike stored words (R53, R54, R66). -/

namespace Sys2Proof.Machine

/-! Replies. -/

/-- A failed request is recorded as TRANSLATION with reason 0x5 (R108, R410). -/
def away5 : WalkFault := wf 5 0 0 0

/-- A reply to a line of an engine, or to an access of the queue path: the bytes read stand at their place in the line; a write's
last reply ends the access. (DEDUCED, log entry 84) -/
def replyLine (s : State) (id : Nat) (a : Access) (lane : Nat) (r : ExtReq) (ok : Bool) (data : BitVec 1024) : State :=
  if !ok then
    let engine := match a.kind with | .line _ _ => true | _ => false
    let t := faultTrap engine 0 (b2n r.write.isSome) (reqOf a lane).va away5
    failLine s id (lane, t.cause, t.detail)
  else
    let s := modAcc s id (fun a => { a with waiting := a.waiting - 1 })
    if r.write.isSome then (if (mget s.accs id).waiting = 0 then endLine s id else s)
    else
      let s := lineGot s id lane (BitVec.ofNat 1024 (data.toNat % 2 ^ (8 * r.bytes) * 2 ^ (8 * (r.addr % 128))))
      if (mget s.accs id).passes.isEmpty then s else post s s.clock (.lspAccess id)

/-- A reply to a lane of an access. A line write to a peer is performed with the acknowledgement of its last lane. (DEDUCED, log entry 84) -/
def replyAccess (s : State) (id lane : Nat) (r : ExtReq) (ok : Bool) (data : BitVec 1024) : State :=
  match mfind s.accs id with
  | none => s
  | some a =>
    if a.kind.apart then replyLine s id a lane r ok data
    else if ok then
      let more := s.exts.any (fun e => e.2.addr / 128 == r.addr / 128 && (match e.2.who with | .acc i _ => i == id | _ => false))
      let s := match a.kind with
        | .store _ | .sstore _ => s
        | _ => modAcc s id (fun a => gather a lane (bytesOf r.bytes data.toNat))
      let s := if a.kind.writes && !more then modAcc s id (fun a => { a with unperformed := a.unperformed - 1 }) else s
      proceed (modAcc s id (fun a => { a with waiting := a.waiting - 1, avail := max a.avail s.clock })) id
    else
      accFault s a (faultTrap false lane a.kind.code (reqOf a lane).va away5)

/-- A reply is taken in. (DEDUCED, log entry 84) -/
def takeReply (s : State) (id : Nat) (ok : Bool) (data : BitVec 1024) : State :=
  match mfind s.exts id with
  | none => s
  | some r =>
    let s := { s with exts := mdel s.exts id }
    match r.who with
    | .nobody => s
    | .acc i lane => replyAccess s i lane r ok data
    | .fetch part line =>
      if ok then l0Put s r.owner part line data
      else
        let mine := s.groups.filter (fun e => partKey e.1 == part && e.2.owner == r.owner && e.2.live)
        mine.foldl (fun s e => e.2.frags.foldl (fun s f =>
          match nextInstr s e.1 f.id with
          | (.error (.away _ pa, va), _) =>
            if lineNo pa = line then modGroup s e.1 (fun g => modFrag g f.id (fun x => { x with fetchFault := some (standsAt g x, va, away5) })) else s
          | _ => s) s) s

/-- R90, R108: a reply or acknowledgement arrives: taken in now, or at its owner's next residency start (R170). (DEDUCED, log entry 84; DEDUCED, log entry 112) -/
def execExternalReply (id : Nat) (ok : Bool) (data : BitVec 1024) (s : State) : Answer :=
  .next (match mfind s.exts id with
  | none => s
  | some r => if counts (owner s r.owner) then takeReply s id ok data else { s with arrived := s.arrived ++ [(id, ok, data)] })

/-- Replies that have waited for the owner are taken in, in arrival order. -/
def takeArrived (s : State) (o : Nat) : State :=
  let mine (e : Nat × Bool × BitVec 1024) : Bool := (mget s.exts e.1).owner == o
  let l := s.arrived.filter mine
  let s := { s with arrived := s.arrived.filter (fun e => !mine e) }
  l.foldl (fun s e => takeReply s e.1 e.2.1 e.2.2) s

/-! Inbound requests. -/

/-- Physical address and translation of an inbound request that is accepted (R91, R365). (DEDUCED, log entry 83) -/
def inboundPlace (s : State) (x : Inbound) : Option (Nat × Xlat) × State :=
  let gpa := x.gpa.toNat
  match (if gpa / 2 ^ 52 = 0 then stage2Now s x.owner none gpa else (none, s)) with
  | (some (.ok t), s) =>
    let pa := paOf t gpa
    (if (paReason s x.owner pa).isSome ∨ spaceOf pa ≠ 0 then none
    else if x.write && !t.w then none
    else if t.prot && !(x.port == 0 && x.ide) then none
    else if x.port ≠ 0 ∧ circuitWidth s x.owner (11 + x.port) (homeOf pa) = 0 then none
    else some (pa, t), s)
  | (_, s) => (none, s)

/-- An inbound request is taken in (R68): it enters its home slice's stream, or comes over the peer's circuit (R91). (DEDUCED, log entry 83) -/
def takeInbound (s : State) (id : Nat) : State :=
  match mfind s.inbound id with
  | none => s
  | some x =>
    match inboundPlace s x with
    | (none, s) =>
      let s := answerInbound s id 0 true
      if x.port = 0 then s else eventRecord s x.owner 7 0xFF (bytesOf 8 x.gpa.toNat ++ bytesOf 4 (x.port - 1) ++ bytesOf 4 0)
    | (some (pa, t), s) =>
      let off := pa % 128
      let n := min x.bytes (128 - off)
      let r : Req := { (default : Req) with
        owner := x.owner, die := if x.port = 0 then homeOf pa else 11 + x.port, home := homeOf pa, line := lineNo pa
        gpa := gpaOf t x.gpa.toNat, agent := .inbound id, hc := t.hc, prot := t.prot
        kind := if x.write then .write (byteMask off n) (BitVec.ofNat 1024 (x.data.toNat % 2 ^ (8 * n) * 2 ^ (8 * off))) else .read [] }
      let s := { s with inbound := mset s.inbound id { x with taken := true } }
      if x.port = 0 then enterStream (tick { s with reqs := mset s.reqs s.nextId r }) s.nextId
      else sendReq s r (if x.write then 4 + (n + 7) / 8 else 2) s.clock

/-- The owner can serve requests: its cycles count, and it holds ways and positions of the slices. (DEDUCED, log entry 81; DEDUCED, log entry 83) -/
def servesInbound (s : State) (o : Nat) : Bool := counts (owner s o) && (owner s o).l2ways != 0 && rota s o 7 != 0

/-- Inbound requests that wait are taken in, in arrival order. (DEDUCED, log entry 82) -/
def takeInbounds (s : State) (o : Nat) : State :=
  if servesInbound s o then (s.inbound.filter (fun e => e.2.owner == o && !e.2.taken)).foldl (fun s e => takeInbound s e.1) s else s

/-- The device is ready (R388, R391). (DESIGN CHOICE, log entry 2; DEDUCED, log entry 89) -/
def deviceReady (s : State) : Bool := (pfGet s 0x48).getLsbD 1

/-- A request arrives. (DEDUCED, log entry 82) -/
def inboundArrives (s : State) (x : Inbound) : State :=
  if !deviceReady s then s
  else
    let id := s.nextId
    let s := tick { s with inbound := mset s.inbound id x }
    if servesInbound s x.owner then takeInbound s id else s

/-- R68: a host request through a VF's aperture. (DEDUCED, log entry 112) -/
def execHostMemoryRequest (o : Nat) (write : Bool) (gpa : BitVec 64) (bytes : Nat) (data : BitVec 512) (relaxed ide : Bool) (s : State) : Answer :=
  .next (inboundArrives s ⟨o % 32, 0, gpa, write, min bytes 64, data, relaxed, ide, false⟩)

/-- PEERST reports the port up (R410). -/
def portUp (s : State) (port : Nat) : Bool := (pfGet s (0x480 + 8 * port)).getLsbD 16

/-- R91: a peer's request, charged to the owner of its lane. (DESIGN CHOICE, log entry 127) -/
def execPeerRequest (port lane : Nat) (write : Bool) (gpa : BitVec 64) (bytes : Nat) (data : BitVec 512) (s : State) : Answer :=
  .next (
    if !portUp s (port % 4) then s
    else match (List.range 32).find? (fun o => (owner s o).lanes.contains (16 * (port % 4) + lane % 16)) with
      | none => { s with returned := s.returned ++ [(s.nextId, 0, true)], nextId := s.nextId + 1 }
      | some o => inboundArrives s ⟨o, port % 4 + 1, gpa, write, min bytes 64, data, false, false, false⟩)

/-! Peer links (R410). -/

/-- The live-die masks of the ports that are up. -/
def peersNow (s : State) : List (Nat × BitVec 16) :=
  ((List.range 4).filter (portUp s)).map (fun p => (p, (pfGet s (0x480 + 8 * p)).setWidth 16))

/-- Owners whose cycles count see PEERST as it stands; the others do at their next residency start. -/
def spreadPeers (s : State) : State :=
  (List.range 32).foldl (fun s o => if counts (owner s o) then modOwner s o (fun w => { w with peers := peersNow s }) else s) s

/-- R410: a link trains. -/
def execPeerLinkUp (port : Nat) (dies : Half) (s : State) : Answer :=
  .next (if deviceReady s then spreadPeers (pfSet s (0x480 + 8 * (port % 4)) (BitVec.ofNat 64 (65536 + dies.toNat))) else s)

/-- R410: a link goes down: requests that wait on it fail, and inbound requests not yet taken in are dropped. -/
def execPeerLinkDown (port : Nat) (s : State) : Answer :=
  .next (
    let s := spreadPeers (pfSet s (0x480 + 8 * (port % 4)) 0)
    let s := { s with inbound := s.inbound.filter (fun e => e.2.port != port % 4 + 1 || e.2.taken) }
    let lost := s.exts.filter (fun e => e.2.space == port % 4 + 2 && !e.2.posted)
    lost.foldl (fun s e =>
      if counts (owner s e.2.owner) then takeReply s e.1 false 0 else { s with arrived := s.arrived ++ [(e.1, false, 0)] }) s)

/-! Errors (R53, R54, R66). -/

/-- An error beyond correction strikes an L2 line: a dirty one, or one of a host-coherent page, is poisoned; a clean copy
is refetched at its next use. (DEDUCED, log entry 93) -/
def strikeL2 (s : State) (die line : Nat) : State :=
  { s with l2 := s.l2.map (fun l =>
      if l.die = die ∧ l.line = line then
        (if l.dirty != 0 || (l.hc && !l.replica) then { l with poisoned := true } else { l with bad := true })
      else l) }

/-- The last access to the storage that an error strikes, by its recency or by the clocks at which its groups last started an
instruction; none where no storage stands there. (DEDUCED, log entry 93) -/
def lastAccess (s : State) (place key index : Nat) : Option Nat :=
  let line (ls : List CoreLine) : Option Nat := (ls.find? (fun l => l.at_ == key && l.line == index)).map (·.used)
  let tlb (ts : List TlbEntry) : Option Nat := (ts.find? (fun t => t.at_ == key && t.x.va ≤ index && index < t.x.va + t.x.size)).map (·.used)
  match place with
  | 0 | 10 => (mfind s.groups key).map (·.lastStart)
  | 1 | 2 | 3 => (mfind s.blocks key).map (fun _ => ((s.groups.filter (fun e => e.2.block == key)).map (·.2.lastStart)).sum)
  | 4 => (s.l2.find? (fun l => l.die == key && l.line == index)).map (·.used)
  | 5 => line s.l1
  | 6 => line s.l0
  | 7 => tlb s.coreTlb
  | 8 => tlb s.dieTlb
  | _ => none

/-- An uncorrectable error of an SRAM word (R54). (DEDUCED, log entry 93) -/
def strike (s : State) (place key index : Nat) : State :=
  match place with
  | 0 => if (mfind s.groups key).isSome then { s with badRegs := (key, index) :: s.badRegs } else s
  | 1 => if (qItems (block s key) (index % 8)).length ≤ index / 8 then s
    else { s with badRegs := (key, badQueue (index % 8) (index / 8)) :: s.badRegs }
  | 2 => if index < (block s key).spadSize then modBlock s key (fun b => { b with spadBad := index :: b.spadBad }) else s
  | 3 => if (mfind (block s key).tiles index).isSome then
      modBlock s key (fun b => { b with tiles := mmod b.tiles index (fun t => { t with poisoned := true }) }) else s
  | 4 => strikeL2 s key index
  | 5 => { s with l1 := s.l1.map (fun l => if l.at_ = key ∧ l.line = index then { l with bad := true } else l) }
  | 6 => { s with l0 := s.l0.map (fun l => if l.at_ = key ∧ l.line = index then { l with bad := true } else l) }
  | 7 => { s with coreTlb := s.coreTlb.map (fun t => if t.at_ = key ∧ t.x.va ≤ index ∧ index < t.x.va + t.x.size then { t with bad := true } else t) }
  | 8 => { s with dieTlb := s.dieTlb.map (fun t => if t.at_ = key ∧ t.x.va ≤ index ∧ index < t.x.va + t.x.size then { t with bad := true } else t) }
  | 10 => if (group s key).window.isSome then { s with badRegs := (key, index) :: s.badRegs } else s
  | _ => s

/-- R53, R54, R66: an error strikes `symbols` symbols of a stack unit, or bits of an SRAM word. A single bit of an SRAM
word is corrected in its next access; a second one before that is an error that is not. Storage: 0 register of a slot, 1 queue of
a block, 2 scratchpad byte of a block, 3 tile of a block, 4 L2 line of a die, 5 L1 line of a core, 6 L0 line of a partition, 7 core
TLB, 8 die TLB (their entries over a virtual address), 9 stack unit, 10 the shadow of a slot's register. (DEDUCED, log entry 93) -/
def execSoftError (place key index symbols : Nat) (s : State) : Answer :=
  .next (
    if place = 9 then { s with errors := mmod s.errors key (fun n => n + symbols) }
    else match lastAccess s place key index with
      | none => s
      | some t =>
        let rest := s.weak.filter (fun w => !(w.1 == place && w.2.1 == key && w.2.2.1 == index))
        if symbols = 0 then s
        else if 2 ≤ symbols ∨ s.weak.contains (place, key, index, t) then strike { s with weak := rest } place key index
        else { s with weak := (place, key, index, t) :: rest })

end Sys2Proof.Machine
end

