-- ==== Sys2Proof/Machine/Wheel.lean ====
section
/-! DEFINITION. The wheel (R158 to R171, R413): seats and their rotation, positions that change hands (R164), what takes
effect at a quantum boundary or a residency start (R18, R51, R80, R90), and the drain of lost ways (R52). -/

namespace Sys2Proof.Machine

/-- The device's record of a seat. -/
def seat (s : State) (k : Nat) : Seat := mget s.seats k
def modSeat (s : State) (k : Nat) (f : Seat → Seat) : State := { s with seats := mmod s.seats k f }

/-! Positions (R164). -/

/-- The seat holds or loses a position: its owners' masks change. -/
def touchSeat (s : State) (k : Nat) : State := (seatOwners s k).foldl (fun s o => modOwner s o (fun w => { w with rotaChanged := true })) s

/-- A rota-change record of an owner whose masks have changed since its last residency start (R164, R356). (DEDUCED, log entry 94) -/
def rotaRecord (s : State) (o : Nat) : State :=
  let w := owner s o
  let s := if w.rotaChanged && w.running then eventRecord s o 4 0xFF (bytesOf 8 (ocyc s o) ++ bytesOf 8 0) else s
  modOwner s o (fun w => { w with rotaChanged := false })

/-- The VF's copy of its owner's configuration (R168). -/
def copyRota (s : State) (o : Nat) : State :=
  let m (t : Nat) : Nat := (rota s o t).toNat
  let shared := (seatOwners s (seatOf s o)).any (fun p => p != o)
  let s := vfSet s o 0x600 (BitVec.ofNat 64 (m 0 + 2 ^ 16 * m 1 + 2 ^ 32 * m 2 + 2 ^ 48 * m 3))
  let s := vfSet s o 0x608 (BitVec.ofNat 64 (m 4 + 2 ^ 16 * m 5 + 2 ^ 32 * m 6 + 2 ^ 48 * m 7))
  let s := vfSet s o 0x610 (BitVec.ofNat 64 (m 8 + 2 ^ 16 * m 9 + 2 ^ 32 * ((owner s o).quantum % 2 ^ 32)))
  vfSet s o 0x618 (BitVec.ofNat 64 (seatOf s o + 16 * b2n shared + 256 * turnWord s o))

/-! What waits for a position when the owner's positions change (R164, R166). -/

/-- An owner's mask of a table up to the change that takes effect now: that of its copy (R168). -/
def maskBefore (s : State) (o t : Nat) : BitVec 16 := (vfGet s o (0x600 + 8 * (t / 4))).extractLsb' (16 * (t % 4)) 16

/-- Table and structure of the position that an event of an owner waits for: that at whose end it stands; of a copy engine's line
and of a channel, that at whose start. -/
def waitsFor (s : State) (o : Nat) (i : Instr) : Option (Nat × Nat) :=
  let mine (p : Nat) (t inst : Nat) : Option (Nat × Nat) := if p = o then some (t, inst) else none
  match i with
  | .coreTlbLookup id => (mfind s.accs id).bind (fun a => if a.kind.apart then none else mine a.owner 4 (a.coreKey * 2 + a.port))
  | .lspAccess id => (mfind s.accs id).bind (fun a =>
      match a.passes with
      | p :: _ => if a.transit ∨ a.kind.apart then none else let x := passPlace s a p; mine a.owner 4 (x.1 * 2 + x.2.1)
      | [] => none)
  | .mmaPosition id | .tileTransferStart id => (mfind s.ops id).bind (fun x => mine x.owner 5 x.partKey)
  | .tfreeWipe b part => (mfind s.blocks b).bind (fun x => mine x.owner 5 ((32 * x.die + x.core) * 4 + part))
  | .refireStep id => (mfind s.runs id).bind (fun x => match x.phase with | .leave _ _ => none | _ => mine x.owner 5 x.partKey)
  | .cpyLineRead id | .bcpyLineRead id => (mfind s.ops id).bind (fun x => mine x.owner 6 (32 * x.die + x.core))
  | .l2Access id => (mfind s.reqs id).bind (fun r => if r.entered.isNone then none else mine r.owner 7 (sliceKey r.home r.line))
  | .dieTlbLookup m => (mfind s.misses m).bind (fun x => mine x.owner 8 x.die)
  | .walkStep w | .walkInstall w => (mfind s.walks w).bind (fun x => mine x.owner 8 x.die)
  | .channelAccess die slice p => mine p 9 (die * 48 + slice)
  | _ => none

/-- The position has not begun: one that has passes, or has passed, under the masks up to now. -/
def stillToCome (s : State) (old : BitVec 16) (e : Nat × Instr) : Bool :=
  match e.2 with
  | .cpyLineRead _ | .bcpyLineRead _ | .channelAccess _ _ _ | .tileTransferStart _ | .refireStep _ => decide (s.clock ≤ e.1)
  | _ => old == 0 || decide (s.clock < e.1)

/-- TIL positions that an event still has to pass, under the mask up to now. -/
def arrayDemand (s : State) (old : BitVec 16) (e : Nat × Instr) : Nat :=
  match e.2 with
  | .tileTransferStart id => transferPositions (mget s.ops id)
  | .refireStep id => let x := mget s.runs id; if old = 0 then x.tilLeft else positionsIn old 5 x.tilEnd x.tilLeft s.clock
  | _ => 1

/-- End of the first TIL position that an event waits for, of a run's step that of its last. -/
def arrayEnd (s : State) (e : Nat × Instr) : Nat :=
  match e.2 with
  | .tileTransferStart _ => e.1 + 16
  | .refireStep id => (mget s.runs id).tilEnd
  | _ => e.1

/-- A step of a run takes the ISS positions that it still has to pass anew. (DEDUCED, log entry 121) -/
def retakeIssue (s : State) (old : Nat → BitVec 16) (id due : Nat) : State :=
  let x := mget s.runs id
  let key := pathKey x.owner x.g 2
  let m := old x.part
  let left := if m = 0 then x.issTaken
    else if x.issLeft ≠ 0 then x.issLeft + b2n (decide (s.clock < due))
    else positionsIn m x.part (mget s.claims key) x.issTaken s.clock
  let s := { s with claims := mset s.claims key (min s.clock (mget s.claims key)) }
  if due ≤ s.clock ∧ m ≠ 0 ∧ (left = x.issLeft ∧ (left ≠ 0 ∨ x.tilLeft = 0)) then post (modRun s id (fun y => { y with issTaken := left })) due (.refireStep id)
  else takeIssue s id left (s.clock - 1)

/-- An event that waits for a position takes its next one. (DEDUCED, log entry 121) -/
def retakeOne (s : State) (o : Nat) (old : Nat → BitVec 16) (e : Nat × Instr) (t inst demand : Nat) : State :=
  match e.2 with
  | .lspAccess id => postLsp s o (inst / 2) (inst % 2) (max s.clock (mget s.accs id).avail) e.2
  | .coreTlbLookup _ => postLsp s o (inst / 2) (inst % 2) s.clock e.2
  | .cpyLineRead _ | .bcpyLineRead _ => post s (claimAt s o t inst s.clock) e.2
  | .dieTlbLookup _ | .walkStep _ | .walkInstall _ => postWalk s o inst s.clock e.2
  | .channelAccess die slice _ => watchChannel s o die slice s.clock
  | .tileTransferStart _ =>
    let start := claimAt s o t inst s.clock
    post ((List.range demand).foldl (fun s _ => claim s o t inst s.clock) s) start e.2
  | .refireStep id => retakeIssue (takeArray s id demand (s.clock - 1)) old id e.1
  | i => postClaim s o t inst s.clock i

/-- An owner's positions have changed: what waits for one it has lost, or may have a nearer one now, takes its next one, in the
order in which it waited. The array's port goes first to what is left of a transfer that has started. (DEDUCED, log entry 121) -/
def retakePositions (s : State) (o : Nat) : State :=
  let old (t : Nat) : BitVec 16 := maskBefore s o t
  let wait (e : Nat × Instr) : Option (Nat × Nat) := (waitsFor s o e.2).bind (fun p => if stillToCome s (old p.1) e then some p else none)
  let pend := sortBy (fun a b => a.2.2 ≤ b.2.2) ((s.agenda.filterMap (fun e => (wait e).map (fun p => (e, p,
    if p.1 = 5 then arrayEnd s e else e.1)))))
  let demand (e : Nat × Instr) (t : Nat) : Nat := if t = 5 then arrayDemand s (old 5) e else 0
  let rests := (s.claims.filter (fun c => c.1 % 32 == o && c.1 / 32 % 10 == 5 && s.clock < c.2)).map (fun c =>
    let inst := c.1 / 320
    (inst, positionsIn (old 5) 5 c.2 ((c.2 - s.clock) / 16 + 1) s.clock -
      (pend.map (fun e => if e.2.1 = (5, inst) then demand e.1 5 else 0)).sum))
  let work := pend.map (fun e => (e.1, e.2.1.1, e.2.1.2, demand e.1 e.2.1.1))
  let s := { s with
    agenda := s.agenda.filter (fun e => (wait e).isNone)
    claims := mall s.claims (fun key t => if key % 32 = o ∧ 4 ≤ key / 32 % 10 then min s.clock t else t) }
  let s := rests.foldl (fun s r => (List.range r.2).foldl (fun s _ => claim s o 5 r.1 s.clock) s) s
  work.foldl (fun s e => retakeOne s o old e.1 e.2.1 e.2.2.1 e.2.2.2) s

/-- A position joins its new seat. Where the seat's boundary of this clock has passed already, its resident owner sees
the change now. (DEDUCED, log entry 11) -/
def joinSeat (s : State) (key k : Nat) : State :=
  let s := touchSeat { s with positions := mset s.positions key k, moves := mdel s.moves key } k
  match (seat s k).resident with
  | some o => if (seat s k).at_ = s.clock ∧ (owner s o).resident then copyRota (rotaRecord (retakePositions s o) o) o else s
  | none => s

/-- A position leaves its old seat. It joins the new one at once where that seat's boundary fell at this same clock. (DEDUCED, log entry 11) -/
def leaveSeat (s : State) (key : Nat) (m : Move) : State :=
  let s := { s with positions := mdel s.positions key }
  match m.target with
  | none => { s with moves := mdel s.moves key }
  | some k =>
    if (seat s k).at_ = s.clock then joinSeat s key k
    else { s with moves := mset s.moves key { m with left := true } }

/-- A seat's boundary: the losses and the gains that fall on it (R164). -/
def movePositions (s : State) (k : Nat) : State :=
  let losses := s.moves.filter (fun e => !e.2.left && mfind s.positions e.1 == some k)
  let s := if losses.isEmpty then s else touchSeat s k
  let s := losses.foldl (fun s e => leaveSeat s e.1 e.2) s
  let gains := s.moves.filter (fun e => e.2.left && e.2.target == some k)
  gains.foldl (fun s e => joinSeat s e.1 k) s

/-! Ways and banks (R18, R51, R52). -/

/-- Fields of the way and bank words as written. -/
def l2Word (s : State) (o : Nat) : BitVec 32 := (entry s o 0x28).extractLsb' 32 32
def l1Word (s : State) (o : Nat) : BitVec 20 := (entry s o 0x28).extractLsb' 0 20
def dtlbWord (s : State) (o : Nat) : BitVec 32 := (entry s o 0x30).extractLsb' 32 32
def ctlbWord (s : State) (o : Nat) : BitVec 32 := (entry s o 0x30).extractLsb' 0 32

/-- What the other owners hold of a mask. (DEDUCED, log entry 73) -/
def heldByOthers {n : Nat} (s : State) (o : Nat) (f : Owner → BitVec n) : BitVec n :=
  ((List.range 32).filter (· != o)).foldl (fun m p => m ||| f (owner s p)) 0

/-- Ways in effect that the owner's word no longer gives it, a running drain's apart. (DEDUCED, log entry 73) -/
def lostL2 (s : State) (o : Nat) : BitVec 32 :=
  (owner s o).l2ways &&& ~~~(l2Word s o) &&& ~~~(match (owner s o).drain with | some d => d.l2 | none => 0)
/-- DEDUCED, log entry 73. -/
def lostL1 (s : State) (o : Nat) : BitVec 20 :=
  (owner s o).l1ways &&& ~~~(l1Word s o) &&& ~~~(match (owner s o).drain with | some d => d.l1 | none => 0)

/-- Positions of a table that the owner holds. -/
def heldCount (s : State) (o t : Nat) : Nat := max 1 (popcount ((rota s o t).setWidth 32))

/-- Lines that a step visits in each slice, and sets that it wipes on each port of an L1, under the present masks (R52). (DEDUCED, log entry 75) -/
def drainRate (s : State) (o : Nat) : Nat × Nat := (min (heldCount s o 9) (12 * heldCount s o 7), 24 * heldCount s o 4)

/-- Lines to visit in each slice, and sets to wipe on each port, in all. -/
def drainWhole (d : Drain) : Nat × Nat := (512 * popcount d.l2, if d.l1 = 0 then 0 else 64)

/-- Steps that are still to be made, the running one among them (R49, R52). A drain of L1 ways alone takes the steps in which its
wipe ends. (DEDUCED, log entry 75) -/
def drainLeft (s : State) (o : Nat) (d : Drain) : Nat :=
  let (k, z) := drainRate s o
  let up (n k : Nat) : Nat := (n + k - 1) / k
  max (up ((drainWhole d).1 - d.lines - d.stepLines) k) (up ((drainWhole d).2 - d.sets - d.stepSets) z) + b2n (d.stepLines + d.stepSets != 0)

/-- The drain status word (R49). -/
def drainStatus (s : State) (o : Nat) : State :=
  let pending := lostL2 s o != 0 || lostL1 s o != 0
  let (active, left) := match (owner s o).drain with | some d => (true, drainLeft s o d) | none => (false, 0)
  pfSet s (entryOff o 0x40) (BitVec.ofNat 64 (b2n pending + 2 * b2n active + 2 ^ 32 * left))

/-- Walk contexts, banks, ways gained and peer lanes take effect (R18, R51, R90). A bank that is lost is wiped.
(DEDUCED, log entry 73) (DEDUCED, log entry 73; DEDUCED, log entry 74) -/
def takeConfig (s : State) (o : Nat) : State :=
  let dtlb := dtlbWord s o &&& ~~~(heldByOthers s o (·.dtlb))
  let ctlb := ctlbWord s o &&& ~~~(heldByOthers s o (·.ctlb))
  let s := { s with
    dieTlb := s.dieTlb.filter (fun t => t.owner != o || dtlb.getLsbD t.bank)
    coreTlb := s.coreTlb.filter (fun t => t.owner != o || ctlb.getLsbD t.bank) }
  let lane (l : Nat) : Nat := ext (pfGet s (0x400 + 16 * (l / 16) + 8 * (l % 16 / 8))) (8 * (l % 8)) 8
  let l2 := l2Word s o &&& ~~~(heldByOthers s o (·.l2ways))
  let l1 := l1Word s o &&& ~~~(heldByOthers s o (·.l1ways))
  modOwner s o (fun w => { w with
    dtlb := dtlb, ctlb := ctlb, walks := ext (entry s o 0x38) 0 7, l2ways := w.l2ways ||| l2, l1ways := w.l1ways ||| l1
    lanes := (List.range 64).filter (fun l => lane l / 128 == 1 && lane l % 32 == o) })

/-- At the quantum boundary after a reduction a drain is due (R52, step 1). (DEDUCED, log entry 75) -/
def startDrain (s : State) (o : Nat) : State :=
  let l2 := lostL2 s o
  let l1 := lostL1 s o
  if (owner s o).drain.isSome ∨ (l2 = 0 ∧ l1 = 0) then s
  else drainStatus (modOwner s o (fun w => { w with drain := some ⟨l2, l1, 0, 0, 0, 0⟩ })) o

/-- A line's place in the drain's order: by set, then by lost way. -/
def drainPlace (d : Drain) (l : L2Line) : Nat :=
  popcount d.l2 * setOf (l.line * 128) + popcount (d.l2 &&& BitVec.ofNat 32 (2 ^ l.way - 1))

/-- Some of an owner's lines leave; the dirty ones go to their channels in its memory-channel positions (R52, step 5). -/
def drainLines (s : State) (o : Nat) (p : L2Line → Bool) : State :=
  (s.l2.filter (fun l => l.owner == o && p l)).foldl evict s

/-- A step of 384 clocks begins, with the lines and the sets that the present masks give it (R52). -/
def beginStep (s : State) (o : Nat) : State :=
  match (owner s o).drain with
  | none => s
  | some d =>
    let (k, z) := drainRate s o
    let n := min k ((drainWhole d).1 - d.lines)
    let s := drainLines s o (fun l => d.l2.getLsbD l.way && d.lines ≤ drainPlace d l && drainPlace d l < d.lines + n)
    let s := modOwner s o (fun w => { w with drain := some { d with stepLines := n, stepSets := min z ((drainWhole d).2 - d.sets) } })
    post (drainStatus s o) (s.clock + 384) (.drainStep o)

/-! Circuits (R77, R80). -/

/-- Configuration of a connection-table entry, and its state. -/
def connWord (s : State) (e : Nat) : BitVec 64 := pfGet s (0x20000 + 16 * e)
def connState (s : State) (e : Nat) : Nat := ext (pfGet s (0x20008 + 16 * e)) 0 2
def setConn (s : State) (e st : Nat) : State := pfSet s (0x20008 + 16 * e) (BitVec.ofNat 64 st)
/-- DEDUCED, log entry 78. -/
def connOwner (w : BitVec 64) : Nat := ext w 28 5
def connSrc (w : BitVec 64) : Nat := ext w 24 4
def connDst (w : BitVec 64) : Nat := ext w 20 4

/-- A circuit-change record (R80, R356). -/
def circuitRecord (s : State) (o e : Nat) : State :=
  if (owner s o).running then eventRecord s o 5 0xFF (bytesOf 8 (ocyc s o) ++ bytesOf 4 e ++ bytesOf 4 0) else s

/-- The wavelengths of a draining entry leave its owner's circuit. The entry is free when the last message sent on the
circuit has arrived; of an owner that was absent, whose messages have all arrived (R74), at once. (DEDUCED, log entry 78) -/
def dropCircuit (s : State) (o e : Nat) (absent : Bool) : State :=
  let w := connWord s e
  let now := s.clock
  let last := (s.messages.filter (fun m => m.2.owner == o && m.2.src == connSrc w && m.2.dst == connDst w)).foldl (fun n m => max n m.2.arrives) now
  let s := if (owner s o).circuits.contains e then circuitRecord (modOwner s o (fun x => { x with circuits := x.circuits.filter (· != e) })) o e else s
  if absent ∨ last ≤ now then setConn s e 0 else post s last (.circuitSetupElapsed e)

/-- Entries that drain leave the owner's circuits. -/
def dropCircuits (s : State) (o : Nat) (absent : Bool) : State :=
  let gone := (List.range 1536).filter (fun e => connState s e == 3 && connOwner (connWord s e) == o &&
    ((owner s o).circuits.contains e || !s.agenda.any (fun x => x.2 == .circuitSetupElapsed e)))
  gone.foldl (fun s e => dropCircuit s o e absent) s

/-- Active entries that the owner does not use yet join its circuits. -/
def takeCircuits (s : State) (o : Nat) : State :=
  let new := (List.range 1536).filter (fun e => connState s e == 2 && connOwner (connWord s e) == o && !(owner s o).circuits.contains e)
  new.foldl (fun s e => circuitRecord (modOwner s o (fun w => { w with circuits := w.circuits ++ [e] })) o e) s

/-- R80: a set-up time has elapsed; or the last message of a draining circuit has arrived. -/
def execCircuitSetupElapsed (e : Nat) (s : State) : Answer :=
  .next (match connState s e with
  | 1 => setConn s e 2
  | 3 => setConn s e 0
  | _ => s)

/-- Something outstanding of an owner that needs a circuit it no longer has: its age, the missing direction, and what the record
says of it: an access with its lane and kind, or a migration (R76, R77). -/
structure Strand where
  age : Nat
  missing : Nat × Nat
  id : Nat
  lane : Nat
  kind : Nat
  /-- a walker's read for it -/
  walker : Bool
deriving Inhabited

/-- An access's age is that of its instruction, or of the operation whose line it is. -/
def accAge (s : State) (i : Nat) : Nat := match (mget s.accs i).kind with | .line op _ => op | _ => i

/-- A direction without a circuit. -/
def noWay (s : State) (o src dst : Nat) : Option (Nat × Nat) := if src = dst ∨ circuitWidth s o src dst ≠ 0 then none else some (src, dst)

/-- Lane and kind that a record gives of an access's lane. -/
def strandOf (s : State) (i lane : Nat) (m : Nat × Nat) : Strand :=
  let a := mget s.accs i
  ⟨accAge s i, m, i, lane, if a.kind.apart then lineCode (reqOf a lane) else a.kind.code, false⟩

/-- A request under way whose answer is still to be presented; a replica's read that has still to go to its home (R48). -/
def strandedReq (s : State) (id : Nat) (r : Req) : Option Strand :=
  let answered := s.messages.any (fun m => match m.2.payload with | .reply i | .ack i => i == id | _ => false)
  let missing := if answered then none
    else if r.rep && r.home == r.die then circuitMissing s r.owner r.die (homeOf (r.line * 128))
    else noWay s r.owner r.home r.die
  missing.bind (fun m =>
    match r.agent with
    | .acc i => some (strandOf s i (match r.kind with | .read (l :: _) | .operate (l :: _) => l | _ => ((mget s.accs i).reqs.head?.map (·.lane)).getD 0) m)
    | .walk w => ((s.misses.find? (fun x => x.2.walk == some w)).bind (fun x => x.2.accs.head?)).map (fun i =>
        ⟨accAge s i, m, i, ((mget s.accs i).reqs.head?.map (·.lane)).getD 0, 0, true⟩)
    | _ => none)

/-- The lanes of a translated access that have still to be presented, and those whose grant or reply from outside is to come. -/
def strandedAcc (s : State) (i : Nat) (a : Access) : List Strand :=
  if !a.checked || !a.faults.isEmpty || a.kind == .fetch then []
  else a.reqs.filterMap (fun r =>
    let pa := lanePa a r
    let waits := s.exts.any (fun e => e.2.who == .acc i r.lane && !e.2.posted)
    let latched := a.kind.latch && 0 < a.waiting && !s.reqs.any (fun q => q.2.agent == .acc i) &&
      !s.messages.any (fun m => m.2.payload == .latchGrant i)
    if inWindow r.va then none
    else if laneQueued a r then (accessCircuit s a.owner a.die pa).map (strandOf s i r.lane)
    else if waits then ((farEnd pa).bind (fun d => noWay s a.owner d a.die)).map (strandOf s i r.lane)
    else if latched then (noWay s a.owner (homeOf pa) a.die).map (strandOf s i r.lane)
    else none)

/-- A migration that has a message still to send or to be sent (R85). -/
def strandedMig (s : State) (i : Nat) (m : Mig) : Option Strand :=
  let missing := match m.slot, m.cargo with
    | none, _ => circuitMissing s m.owner m.src m.dst
    | some _, none => noWay s m.owner m.src m.dst
    | some _, some _ => none
  missing.map (fun x => ⟨i, x, i, 0, 2, false⟩)

/-- The oldest of all. (DEDUCED, log entry 122) -/
def stranded (s : State) (o : Nat) : Option Strand :=
  let all := (s.reqs.filter (fun e => e.2.owner == o)).filterMap (fun e => strandedReq s e.1 e.2) ++
    (s.accs.filter (fun e => e.2.owner == o)).flatMap (fun e => strandedAcc s e.1 e.2) ++
    (s.migs.filter (fun e => e.2.owner == o)).filterMap (fun e => strandedMig s e.1 e.2)
  (sortBy (fun x y => x.age * 32 + x.lane ≤ y.age * 32 + y.lane) all).head?

/-- R77: the oldest such operation faults its launch. -/
def checkStranded (s : State) (o : Nat) : State :=
  match stranded s o with
  | none => s
  | some x =>
    let f : WalkFault := ⟨0, 0, 0, 0, some x.missing⟩
    match mfind s.accs x.id, mfind s.migs x.id with
    | some a, _ =>
      let va := (reqOf a x.lane).va
      if a.kind.apart then
        let engine := match a.kind with | .line _ _ => !x.walker | _ => false
        failLine s x.id (x.lane, .circuitAbsent, (faultTrap engine 0 x.kind va f).detail)
      else accFault s a (faultTrap false (faultLane a (reqOf a x.lane)) x.kind va f)
    | none, some m =>
      groupFault s m.g m.frag ⟨.circuitAbsent, 0, BitVec.ofNat 32 (x.missing.2 + 16 * x.missing.1 + 256 * 2), 0⟩ (mget s.ops m.op).pc 0 false
    | none, none => s

/-! Residencies (R159, R169, R413). -/

/-- The seated owner of least turn above another, wrapping round; after an empty interval, of the least turn (R413). An owner
still resident in another seat waits. (DEDUCED, log entry 72) -/
def nextResident (s : State) (k : Nat) (out : Option Nat) : Option Nat :=
  let free := (seatOwners s k).filter (fun o => !s.seats.any (fun e => e.1 != k && (e.2.resident == some o || e.2.switching == some o)))
  let os := sortBy (fun x y => turnWord s x ≤ turnWord s y) free
  match out with
  | none => os.head?
  | some t => match os.find? (fun o => t < turnWord s o) with
    | some o => some o
    | none => os.head?

/-- The owner enters RUN (R169, R179, R180, R356). (DEDUCED, log entry 94) -/
def enterRun (s : State) (o : Nat) : State :=
  if (owner s o).entering then
    modOwner { s with
      preds := s.preds.filter (fun e => e.1 / 98304 != o)
      mphit := s.mphit.filter (fun e => e.1 / 1536 != o), mpmiss := s.mpmiss.filter (fun e => e.1 / 1536 != o) } o (fun w => { w with
      entering := false, running := true, ocyc := 0, seq := 0, recent := [], delayed := [], arose := none })
  else s

/-- An image that waits is installed, and the restore has ended (R348). (DEDUCED, log entry 79) -/
def enterImage (s : State) (o : Nat) : State :=
  match (owner s o).restoring, (owner s o).image with
  | true, some img => endContext (putImage s o img) 0
  | _, _ => s

/-- A drain begins or goes on (R52, steps 2 and 8). (DEDUCED, log entry 75) -/
def resumeDrain (s : State) (o : Nat) : State :=
  let s := shiftWork s o (s.clock - (owner s o).stopped)
  let s := releaseHeld s o (fun i => ofAccess i || i == .drainStep o)
  let s := if (owner s o).rotaChanged then retakePositions s o else s
  if s.agenda.any (fun e => e.2 == .drainStep o) then s else beginStep s o

/-- What waits for an owner's residency is taken in (R68, R80, R164, R170, R410). (DEDUCED, log entry 81) -/
def takeInputs (s : State) (o : Nat) : State :=
  let s := modOwner s o (fun w => { w with peers := peersNow s })
  let s := takeCircuits (copyRota (rotaRecord s o) o) o
  let s := checkStranded s o
  let n := ((owner s o).stored.filter (mayTake (owner s o))).length
  let s := (List.range n).foldl (fun s _ => post s s.clock (.vfWriteTakeIn o)) s
  takeInbounds (takeArrived s o) o

/-- The owner's cycles go on: what its residency brings is taken in. -/
def goOn (s : State) (o : Nat) (drained : Bool) : State :=
  let back := (owner s o).back
  let s := resumeOwner (modOwner s o (fun w => { w with back := 0 })) o drained
  let s := if (owner s o).rotaChanged then retakePositions s o else s
  let s := if back = 0 then s else wakeParked s o
  let s := if back = 2 then reviveWork s o else s
  pumpQueues (takeInputs s o) o

/-- Nothing of the owner's configuration is in effect yet: it has had no quantum boundary since it was given one. -/
def bare (w : Owner) : Bool := w.walks == 0 && w.dtlb == 0 && w.ctlb == 0 && w.l2ways == 0 && w.l1ways == 0

/-- A residency begins. That of a saved owner goes unused (R341). -/
def startResidency (s : State) (k o : Nat) : State :=
  let absent := (seat s k).resident != some o
  let s := modSeat s k (fun x => { x with resident := some o, switching := none, turn := turnWord s o })
  let s := post s (s.clock + quantumOf s o) (.quantumBoundary k)
  let w := owner s o
  if w.saved && !w.restoring then s
  else
    let s := modOwner s o (fun w => { w with
      resident := true, quantum := quantumOf s o, back := if w.restoring then 2 else if absent then max 1 w.back else w.back })
    let s := if absent then dropCircuits s o true else s
    let s := if bare w then takeConfig s o else s
    let s := enterImage (enterRun s o) o
    if w.drain.isSome then resumeDrain s o else goOn s o false

/-- The drain has ended: its ways are no longer the owner's, and its groups go on. -/
def endDrain (s : State) (o : Nat) (d : Drain) : State :=
  let s := drainLines s o (fun l => d.l2.getLsbD l.way)
  let s := { s with l1 := s.l1.filter (fun l => !(l.owner == o && d.l1.getLsbD l.way)) }
  let s := modOwner s o (fun w => { w with drain := none, l2ways := w.l2ways &&& ~~~d.l2, l1ways := w.l1ways &&& ~~~d.l1 })
  goOn (drainStatus s o) o true

/-- The owner's seat reaches a boundary at this clock. -/
def boundaryNow (s : State) (o : Nat) : Bool := s.agenda.any (fun e => e.1 ≤ s.clock && e.2 == .quantumBoundary (seatOf s o))

/-- R52: a step of 384 clocks ends. The next one begins at once, or with the owner's next quantum. -/
def execDrainStep (o : Nat) (s : State) : Answer :=
  .next (match (owner s o).drain with
  | none => s
  | some d =>
    let d := { d with lines := d.lines + d.stepLines, sets := d.sets + d.stepSets, stepLines := 0, stepSets := 0 }
    let s := drainStatus (modOwner s o (fun w => { w with drain := some d })) o
    if (drainWhole d).1 ≤ d.lines ∧ (drainWhole d).2 ≤ d.sets then endDrain s o d
    else if boundaryNow s o then s
    else beginStep s o)

/-- A seat decides who is resident next. (DEDUCED, log entry 72) -/
def decideNext (s : State) (k : Nat) (out : Option Nat) (outgoing : Option Nat) : State :=
  match nextResident s k out with
  | none =>
    let s := modSeat s k (fun x => { x with resident := none, switching := none })
    post s (boundary s.clock) (.seatBoundary k)
  | some o =>
    if outgoing = some o ∨ outgoing = none then startResidency s k o
    else
      let s := modSeat s k (fun x => { x with resident := none, switching := some o })
      post (post s (s.clock + 16920) (.worldSwitchEnd k)) (s.clock + 17664) (.residencyStart k)

/-- R413: an empty seat reaches a multiple of 768 clocks. (DEDUCED, log entry 72) -/
def execSeatBoundary (k : Nat) (s : State) : Answer :=
  .next (
    let x := seat s k
    if x.resident.isSome ∨ x.switching.isSome then s
    else decideNext (movePositions (modSeat s k (fun x => { x with at_ := s.clock })) k) k none none)

/-- An owner's residency ends: its cycles stop, and what its quantum boundary brings takes effect (R18, R51, R52, R80, R341). -/
def endResidency (s : State) (k o : Nat) : State :=
  let w := owner s o
  let s := if w.resident then pauseOwner s o (fun _ => true) else s
  let s := modOwner s o (fun w => { w with resident := false })
  let s := startDrain (takeConfig (dropCircuits s o false) o) o
  if w.halted then post (takeImage s o) (s.clock + 16920) (.worldSwitchEnd k) else s

/-- R159, R413: a quantum boundary. A step of a drain that ends with it comes first. -/
def execQuantumBoundary (k : Nat) (s : State) : Answer :=
  .next (
    let x := seat s k
    match x.resident with
    | none => s
    | some o =>
      if s.agenda.any (fun e => e.1 ≤ s.clock && e.2 == .drainStep o) then post s s.clock (.quantumBoundary k)
      else
        let s := modSeat s k (fun x => { x with at_ := s.clock })
        decideNext (movePositions (endResidency s k o) k) k (some x.turn) (some o))

/-- R413: the switch period ends. -/
def execResidencyStart (k : Nat) (s : State) : Answer :=
  .next (match (seat s k).switching with
  | none => s
  | some o => startResidency s k o)

end Sys2Proof.Machine
end

