-- ==== Sys2Proof/Machine/Pf.lean ====
section
/-! DEFINITION. The host's writes to the functions' registers: the partition table with its checks (R49, R50, R158, R350),
the slot tables (R162, R163), the connection table (R78, R79), context control (R346 to R348, R407), the other words of
the physical function's BAR0 (R67, R90, R349, R391, R393) and those of the VFs (R351, R352). -/

namespace Sys2Proof.Machine

/-- What the host does to a device that is ready (R388: until then the PF answers nothing). (DEDUCED, log entry 89) -/
def whenReady (s : State) (f : State → State) : State := if deviceReady s then f s else s

/-! Refusals. -/

/-- The first of some numbered cases that holds; they stand in ascending number. -/
def lowestReason : List (Nat × Bool) → Option Nat
  | [] => none
  | (n, b) :: t => if b then some n else lowestReason t

/-- CFGERR records a refused write unless one is recorded (R50). -/
def refuse (s : State) (o word reason : Nat) : State :=
  if (pfGet s 0x80).getLsbD 31 then s else pfSet s 0x80 (BitVec.ofNat 64 (2 ^ 31 + reason * 2 ^ 16 + word * 256 + o))

/-- XCERR does the same for the connection table (R79). -/
def refuseConn (s : State) (e reason : Nat) : State :=
  if (pfGet s 0x88).getLsbD 31 then s else pfSet s 0x88 (BitVec.ofNat 64 (2 ^ 31 + reason * 2 ^ 24 + e))

/-- Some owners' frozen state was written (R363). -/
def toErrors (s : State) (os : List Nat) : State := os.foldl toError s

/-! The slot tables (R162, R163). -/

/-- A position's byte as written. (DEDUCED, log entry 76) -/
def slotByte (s : State) (t i : Nat) : Nat := ext (pfGet s (0x30000 + 16 * t + 8 * (i / 8))) (8 * (i % 8)) 8
/-- The seat that a byte names. -/
def byteSeat (b : Nat) : Option Nat := if 128 ≤ b then some (b % 16) else none

/-- A seat has a position in each of some tables, as they are written. -/
def hasPositions (s : State) (k : Nat) (ts : List Nat) : Bool :=
  ts.all (fun t => (List.range 16).any (fun i => byteSeat (slotByte s t i) == some k))

/-- Tables in which an owner in RUN, and one that holds ways, needs a position (R158, R163). -/
def runTables : List Nat := [0, 1, 2, 3, 4, 7, 8, 9]
def wayTables : List Nat := [4, 7, 9]

/-- The owner holds L1 or L2 ways: by its word, or still in effect. (DEDUCED, log entry 76) -/
def holdsWays (s : State) (o : Nat) : Bool :=
  l2Word s o != 0 || l1Word s o != 0 || (owner s o).l2ways != 0 || (owner s o).l1ways != 0

/-- The owner may hold ways: it is seated where its drains can run. (DEDUCED, log entry 76) -/
def mayHoldWays (s : State) (o : Nat) : Bool := seated s o && hasPositions s (seatOf s o) wayTables

/-- A seat would be left without a position that an owner of it needs. -/
def seatStarved (s : State) (k : Nat) : Bool :=
  (seatOwners s k).any (fun o => (owState s o == 2 && !hasPositions s k runTables) || (holdsWays s o && !hasPositions s k wayTables))

/-- A position's pending change after an accepted write (R164). A boundary of the new seat at this same clock counts. (DEDUCED, log entry 11) -/
def retarget (s : State) (t i : Nat) : State :=
  let key := 16 * t + i
  let target := byteSeat (slotByte s t i)
  let now := mfind s.positions key
  match mfind s.moves key with
  | none =>
    if now = target then s
    else if now.isNone then leaveSeat s key ⟨target, true⟩
    else { s with moves := mset s.moves key ⟨target, false⟩ }
  | some m =>
    if m.left then (if target.isNone then { s with moves := mdel s.moves key } else { s with moves := mset s.moves key ⟨target, true⟩ })
    else if now = target then { s with moves := mdel s.moves key }
    else { s with moves := mset s.moves key ⟨target, false⟩ }

/-- A write of a slot-table word. (DEDUCED, log entry 76) -/
def writeSlots (s : State) (t half : Nat) (v : BitVec 64) : State :=
  let off := 0x30000 + 16 * t + 8 * half
  let v := if t = 9 ∧ half = 1 then putBits v 56 8 0 else v
  let old := pfGet s off
  let places := (List.range 8).map (fun i => 8 * half + i)
  let changed := (List.range 8).filter (fun i => ext v (8 * i) 8 != ext old (8 * i) 8)
  let touched := (changed.flatMap (fun i => [byteSeat (ext v (8 * i) 8), byteSeat (ext old (8 * i) 8)])).filterMap id
  let frozen := (List.range 32).filter (fun o => locked s o && seated s o && touched.contains (seatOf s o))
  if !frozen.isEmpty then toErrors s frozen
  else
    let word := 0xC0 + 2 * t + half
    match (List.range 8).find? (fun i => ext v (8 * i + 4) 3 != 0) with
    | some i => refuse s (ext v (8 * i) 4) word 3
    | none =>
      let s' := pfSet s off v
      match (List.range 16).find? (seatStarved s') with
      | some k => refuse s k word 4
      | none => places.foldl (fun s i => retarget s t i) s'

/-- R163. -/
def execSlotTableWrite (t half : Nat) (v : BitVec 64) (s : State) : Answer :=
  .next (whenReady s (fun s => writeSlots s (t % 10) (half % 2) v))

/-! The partition table (R49, R50, R158). -/

/-- The bits of an entry's word that a write stores. -/
def entryMask (w : Nat) (v : BitVec 64) : BitVec 64 :=
  match w with
  | 0x00 => BitVec.ofNat 64 (ext v 16 36 * 2 ^ 16 + ext v 0 1)
  | 0x10 => BitVec.ofNat 64 (ext v 16 36 * 2 ^ 16)
  | 0x18 => BitVec.ofNat 64 (ext v 0 32)
  | 0x20 => BitVec.ofNat 64 (ext v 40 5 * 2 ^ 40 + ext v 32 6 * 2 ^ 32 + ext v 16 9 * 2 ^ 16 + ext v 8 5 * 2 ^ 8 + ext v 0 5)
  | 0x28 => BitVec.ofNat 64 (ext v 32 32 * 2 ^ 32 + ext v 0 20)
  | 0x30 => v
  | 0x38 => BitVec.ofNat 64 (ext v 0 7)
  | 0x48 => BitVec.ofNat 64 (ext v 32 32 * 2 ^ 32 + ext v 8 5 * 2 ^ 8 + ext v 0 5)
  | _ => 0

/-- Two slot ranges meet: first slot and count. -/
def slotsMeet (a b : BitVec 64) : Bool :=
  ext a 0 5 != 0 && ext b 0 5 != 0 && ext a 40 5 < ext b 40 5 + ext b 0 5 && ext b 40 5 < ext a 40 5 + ext a 0 5

/-- A field's sum over the owners. -/
def quotaSum (s : State) (w lo len : Nat) : Nat := ((List.range 32).map (fun o => ext (entry s o w) lo len)).sum

/-- Reason 1 of R50, on the state with the write applied. -/
def overlaps (s : State) (o w : Nat) : Bool :=
  let a := entry s o w
  ((List.range 32).filter (· != o)).any (fun p =>
    let b := entry s p w
    match w with
    | 0x20 => slotsMeet a b
    | 0x28 => (a &&& b &&& entryMask 0x28 (BitVec.allOnes 64)) != 0
    | 0x30 => (a &&& b) != 0
    | _ => false)

/-- Reason 2. -/
def oversubscribed (s : State) : Bool :=
  48 < quotaSum s 0x20 32 6 || 256 < quotaSum s 0x20 16 9 || 16 < quotaSum s 0x20 8 5 || 64 < quotaSum s 0x38 0 7

/-- Reason 3. -/
def outOfRange (s : State) (o : Nat) : Bool :=
  let a := entry s o 0x20
  48 < ext a 32 6 || 256 < ext a 16 9 || 16 < ext a 8 5 || 24 < ext a 0 5 || 23 < ext a 40 5 || 24 < ext a 40 5 + ext a 0 5 ||
  64 < ext (entry s o 0x38) 0 7

/-- Each field that an owner in RUN needs is nonzero (R158). -/
def runFields (s : State) (o : Nat) : Bool :=
  let a := entry s o 0x20
  ext a 0 5 != 0 && ext a 32 6 != 0 && ext (entry s o 0x38) 0 7 != 0 && l1Word s o != 0 && l2Word s o != 0 && dtlbWord s o != 0 && ctlbWord s o != 0

/-- Reason 7 (R344). -/
def imageTooLong (s : State) (o : Nat) : Bool :=
  let a := entry s o 0x20
  8388608 < 32 * (37888 * ext a 0 5 + 1024 * ext a 16 9 + 20480 * ext a 8 5 + 1024 * ext a 32 6 + 4096)

/-- A write of a storage word. A change of ways may leave a reduction pending (R49, R52). -/
def writeStorage (s : State) (o w : Nat) (v : BitVec 64) : State :=
  let new := entryMask w v
  if locked s o then (if new = entry s o w then s else toError s o)
  else
    let s' := pfSet s (entryOff o w) new
    match lowestReason [(1, overlaps s' o w), (2, oversubscribed s'), (3, outOfRange s' o),
        (4, (owState s o == 2 && !runFields s' o) || (w == 0x28 && new != 0 && !mayHoldWays s' o)), (7, imageTooLong s' o)] with
    | some r => refuse s o w r
    | none => if w = 0x28 then drainStatus s' o else s'

/-- R50. -/
def execPartitionEntryWrite (o off : Nat) (v : BitVec 64) (s : State) : Answer :=
  .next (whenReady s (fun s =>
    if off = 0x20 ∨ off = 0x28 ∨ off = 0x30 ∨ off = 0x38 then writeStorage s (o % 32) off v else s))

/-- A write of a seat word (R158). -/
def writeSeat (s : State) (o : Nat) (v : BitVec 64) : State :=
  let new := entryMask 0x48 v
  let old := entry s o 0x48
  if locked s o then (if new = old then s else toError s o)
  else
    let s' := pfSet s (entryOff o 0x48) new
    let q := ext new 32 32
    match lowestReason [(3, q != 0 && q < 7680), (4, holdsWays s o && !mayHoldWays s' o),
        (5, seated s' o && ((seatOwners s' (seatOf s' o)).any (fun p => p != o && turnWord s' p == turnWord s' o))),
        (6, owState s o == 2 && ext new 0 32 != ext old 0 32)] with
    | some r => refuse s o 0x48 r
    | none => s'

/-- R158. -/
def execSeatWordWrite (o : Nat) (v : BitVec 64) (s : State) : Answer := .next (whenReady s (fun s => writeSeat s (o % 32) v))

/-! OWNCTL (R350). -/

/-- The owner meets every condition of R158 for RUN. -/
def mayRun (s : State) (o : Nat) : Bool := seated s o && hasPositions s (seatOf s o) runTables && runFields s o

/-- The owner is to enter RUN at a later residency start (R169, R413). (DEDUCED, log entry 94) -/
def toRun (s : State) (o : Nat) : State :=
  modOwner (setOwState s o 2) o (fun w => { w with entering := true, rotaChanged := false })

/-- A write of OWNCTL. (DEDUCED, log entry 77) -/
def writeOwnctl (s : State) (o : Nat) (v : BitVec 64) : State :=
  let dies := ext v 16 16
  let tdisp := v.getLsbD 8
  let want := ext v 0 2
  let st := owState s o
  let change := dies != owDies s o || tdisp != owTdisp s o
  let stored := pfSet s (entryOff o 0x08) (BitVec.ofNat 64 (dies * 2 ^ 16 + b2n tdisp * 256 + st))
  if locked s o then (if change then toError s o else s)
  else if change && st != 0 then refuse s o 0x08 6
  else if owTdisp s o || tdisp then stored
  else if want = 1 ∨ want = 3 ∨ (st = 2 ∧ ((owner s o).discarding ∨ (owner s o).wiping)) then refuse s o 0x08 9
  else if st = 0 ∧ want = 2 then (if mayRun s o then toRun stored o else refuse s o 0x08 9)
  else if st = 2 ∧ want = 0 then beginDiscard s o 1
  else stored

/-- R350: a write of state that brings the owner to RUN. (DEDUCED, log entry 77) -/
def execOwnctlRun (o : Nat) (s : State) : Answer :=
  .next (whenReady s (fun s => writeOwnctl s (o % 32) (putBits (entry s (o % 32) 0x08) 0 2 2)))

/-- R350: a write of state that takes the owner out of RUN. -/
def execOwnctlUnlock (o : Nat) (s : State) : Answer :=
  .next (whenReady s (fun s => writeOwnctl s (o % 32) (putBits (entry s (o % 32) 0x08) 0 2 0)))

/-! Stage-2 invalidations (R138, R139, R350). -/

/-- A write of S2INVLEN: it starts the invalidation unless one is in progress. -/
def writeS2Len (s : State) (o : Nat) (v : BitVec 64) : State :=
  let new := entryMask 0x18 v
  if locked s o then (if new = entry s o 0x18 then s else toError s o)
  else if (entry s o 0x10).getLsbD 0 then refuse s o 0x18 8
  else
    let s := pfSet (pfSet s (entryOff o 0x18) new) (entryOff o 0x10) (putBits (entry s o 0x10) 0 1 1)
    startInval s ⟨o, none, true, ext (entry s o 0x10) 16 36 * 65536, new.toNat * 65536, [], [], []⟩

/-- R350. (DEDUCED, log entry 77) -/
def execStage2Invalidation (o : Nat) (v : BitVec 64) (s : State) : Answer := .next (whenReady s (fun s => writeS2Len s (o % 32) v))

/-- A write of S2ROOT or of S2INVBASE. -/
def writeTableWord (s : State) (o w : Nat) (v : BitVec 64) : State :=
  let new := entryMask w v + BitVec.ofNat 64 (if w = 0x10 then ext (entry s o 0x10) 0 1 else 0)
  if locked s o then (if new = entry s o w then s else toError s o) else pfSet s (entryOff o w) new

/-! The connection table (R78 to R80). -/

/-- Clocks of the set-up time of 1.5 µs at the present package clock. (DEDUCED, log entry 78) -/
def setupClocks (s : State) : Nat := (3 * ext (pfGet s 0x50) 16 11 + 1) / 2

/-- Entries in use, another one's apart: their words. -/
def otherConns (s : State) (e : Nat) : List (BitVec 64) :=
  ((List.range 1536).filter (fun i => i != e && connState s i != 0)).map (connWord s)

/-- Two circuits use one wavelength of a port of one code. (DESIGN CHOICE, log entry 129) -/
def wavesMeet (code : BitVec 64 → Nat) (a b : BitVec 64) : Bool :=
  code a == code b && ext a 16 3 == ext b 16 3 && (a.setWidth 16 &&& b.setWidth 16) != 0

/-- A die code that names no live die. -/
def deadCode (s : State) (d : Nat) : Bool := d < 12 && !liveDie s d

def waves (w : BitVec 64) : Nat := popcount ((w.setWidth 16).setWidth 32)

/-- The reason for which a set-up is refused, the state of its entry apart (R79). -/
def setupReasons (s : State) (e : Nat) (w : BitVec 64) : List (Nat × Bool) :=
  let others := otherConns s e
  let mine := others.filter (fun x => connOwner x == connOwner w && connSrc x == connSrc w && connDst x == connDst w)
  [(1, others.any (wavesMeet connSrc w)), (2, others.any (wavesMeet connDst w)),
   (3, deadCode s (connSrc w) || deadCode s (connDst w) || connSrc w == connDst w || (12 ≤ connSrc w && 12 ≤ connDst w) || ext w 0 16 == 0),
   (4, 16 < (mine.map waves).sum + waves w)]

/-- A write of an entry's configuration word. (DEDUCED, log entry 78) -/
def writeConn (s : State) (e : Nat) (v : BitVec 64) : State :=
  let w := BitVec.ofNat 64 (ext v 20 14 * 2 ^ 20 + ext v 0 19)
  let old := connWord s e
  let st := connState s e
  let owners := connOwner w :: (if st = 0 then [] else [connOwner old])
  let frozen := (owners.eraseDups).filter (locked s)
  let valid := w.getLsbD 33
  let off := 0x20000 + 16 * e
  if !frozen.isEmpty then (if st ≠ 0 ∧ w = old then s else toErrors s frozen)
  else
    let tail := [(5, st == 1 || st == 3), (6, st == 2 && ext w 0 33 != ext old 0 33)]
    match lowestReason (if valid ∨ st ≠ 0 then setupReasons s e w ++ tail else tail) with
    | some r => refuseConn s e r
    | none =>
      if st = 2 then
        if valid then s
        else
          let s := setConn (pfSet s off w) e 3
          if seated s (connOwner w) then s else dropCircuit s (connOwner w) e true
      else if valid then post (setConn (pfSet s off w) e 1) (s.clock + setupClocks s) (.circuitSetupElapsed e)
      else pfSet s off w

/-- R79. -/
def execConnectionTableWrite (e : Nat) (v : BitVec 64) (s : State) : Answer :=
  .next (whenReady s (fun s => writeConn s (e % 1536) v))

/-! Peer lanes (R90). -/

/-- A write of a word of PEERLN. -/
def writeLanes (s : State) (off : Nat) (v : BitVec 64) : State :=
  let byte (x : BitVec 64) (k : Nat) : Nat := ext x (8 * k + 7) 1 * 128 + ext x (8 * k) 5
  let new := BitVec.ofNat 64 (((List.range 8).map (fun k => byte v k * 2 ^ (8 * k))).sum)
  let old := pfGet s off
  let owners (x : BitVec 64) (k : Nat) : List Nat := if 128 ≤ byte x k then [byte x k % 32] else []
  let changed := (List.range 8).filter (fun k => byte new k != byte old k)
  let frozen := ((changed.flatMap (fun k => owners new k ++ owners old k)).eraseDups).filter (locked s)
  if frozen.isEmpty then pfSet s off new else toErrors s frozen

/-! Context control (R346, R407). -/

/-- An operation starts: CTXCTL holds it, and CTXBUF is sampled (R407). -/
def beginContext (s : State) (o op : Nat) : State :=
  modOwner (pfSet s 0x90 (BitVec.ofNat 64 (op * 64 + 32 + o))) o (fun w => { w with buffer := contextBuffer s })

/-- A save is requested (R341). -/
def saveContext (s : State) (o : Nat) : State :=
  if (pfGet s 0x90).getLsbD 5 then s
  else
    let w := owner s o
    let s := beginContext s o 1
    if owState s o = 2 ∧ !w.saved ∧ !w.discarding ∧ !w.wiping ∧ regionFree s o then
      postOwner (modOwner s o (fun w => { w with regions := true })) o 0 (.saveRequestTakeIn o)
    else endContext s 3

/-- R341, R346. -/
def execContextSave (o : Nat) (s : State) : Answer := .next (whenReady s (fun s => saveContext s (o % 32)))

/-- The status with which a restore of an image is refused (R348). Of the image's bytes, `verdict` tells what the model
does not hold: 1, a header byte that R347 does not assign is nonzero; 2, a tag does not verify; 3, a field that names a
place is out of range. -/
def imageStatus (s : State) (o verdict : Nat) (img : Image) : Option Nat :=
  if verdict = 1 ∨ img.owner ≠ o ∨ img.diemask.toNat ≠ owDies s o ∨ img.prot ≠ owTdisp s o ∨ img.length ≠ imageLength s o then some 4
  else if img.counter ≠ (owner s o).saveCount then some 1
  else if verdict = 2 ∧ img.prot then some 2
  else if verdict = 3 then some 4
  else none

/-- A restore is requested. (DEDUCED, log entry 79) -/
def restoreContext (s : State) (o verdict : Nat) : State :=
  if (pfGet s 0x90).getLsbD 5 then s
  else
    let w := owner s o
    let s := beginContext s o 2
    if owState s o ≠ 2 ∨ !w.saved ∨ w.discarding ∨ !regionFree s o then endContext s 3
    else match mfind s.images (contextBuffer s) with
      | none => endContext s 4
      | some img =>
        match imageStatus s o verdict img with
        | some 2 => toError (endContext s 2) o
        | some n => endContext s n
        | none => modOwner s o (fun w => { w with restoring := true, regions := true, image := some img, saveCount := w.saveCount + 1 })

/-- R346, R348. (DEDUCED, log entry 92) -/
def execContextRestore (o verdict : Nat) (s : State) : Answer := .next (whenReady s (fun s => restoreContext s (o % 32) verdict))

/-- A write of CTXCTL. -/
def writeContext (s : State) (v : BitVec 64) : State :=
  let o := ext v 0 5
  let op := ext v 6 2
  if (pfGet s 0x90).getLsbD 5 then s
  else if !v.getLsbD 5 ∨ op = 0 then pfSet s 0x90 (BitVec.ofNat 64 (op * 64 + o))
  else match op with
    | 1 => saveContext s o
    | 2 => restoreContext s o 0
    | _ => endContext (beginContext s o 3) 4

/-! PWRLIM (R393). -/

/-- A write of the power limit. -/
def writePower (s : State) (v : BitVec 64) : State :=
  let w := ext v 0 16
  if w < 600 ∨ 2000 < w then s else pfSet s 0x50 (putBits (pfGet s 0x50) 0 16 w)

/-- R393. -/
def execPwrlimWrite (v : BitVec 64) (s : State) : Answer := .next (whenReady s (fun s => writePower s v))

/-! All registers. -/

/-- What a read of a register of the physical function returns: CTXCNT gives the save counter of the owner that CTXCTL
names (R346). -/
def pfRead (s : State) (off : Nat) : BitVec 64 :=
  if off = 0xA8 then (owner s (ext (pfGet s 0x90) 0 5)).saveCount else pfGet s off

/-- A write of a word of a partition-table entry. -/
def writeEntry (s : State) (o w : Nat) (v : BitVec 64) : State :=
  match w with
  | 0x00 | 0x10 => writeTableWord s o w v
  | 0x08 => writeOwnctl s o v
  | 0x18 => writeS2Len s o v
  | 0x20 | 0x28 | 0x30 | 0x38 => writeStorage s o w v
  | 0x48 => writeSeat s o v
  | _ => s

/-- A bit that is cleared by writing 1. -/
def clearBit (s : State) (off i : Nat) (v : BitVec 64) : State :=
  if v.getLsbD i then pfSet s off (putBits (pfGet s off) i 1 0) else s

/-- A write of a word of a stack error block (R67). -/
def writeStackError (s : State) (off : Nat) (v : BitVec 64) : State :=
  match off % 32 with
  | 0 | 0x10 => pfSet s off (putBits (pfGet s off) 0 32 (ext v 0 32))
  | 8 => clearBit s off 63 v
  | _ => s

/-- The lifecycle control written with no signed request waiting: go ends at once with fault 2 (R391, R392). (DEDUCED, log entry 91) -/
def writeLifecycle (s : State) (v : BitVec 64) : State :=
  if (pfGet s 0x40).getLsbD 2 then s
  else
    let s := pfSet s 0x40 (BitVec.ofNat 64 (ext v 0 2))
    if v.getLsbD 2 then pfSet s 0x48 (putBits (pfGet s 0x48) 8 4 2) else s

/-- A write of a register of the physical function (R349). Registers that are read-only, and offsets that are not listed,
ignore it. -/
def pfWrite (s : State) (off : Nat) (v : BitVec 64) : State :=
  if off % 8 ≠ 0 then s
  else if 0x10000 ≤ off ∧ off < 0x12000 then writeEntry s ((off - 0x10000) / 0x100) (off % 0x100) v
  else if 0x20000 ≤ off ∧ off < 0x26000 then (if off % 16 = 0 then writeConn s ((off - 0x20000) / 16) v else s)
  else if 0x30000 ≤ off ∧ off < 0x300A0 then writeSlots s ((off - 0x30000) / 16) (off / 8 % 2) v
  else if 0x400 ≤ off ∧ off < 0x440 then writeLanes s off v
  else if 0x200 ≤ off ∧ off < 0x200 + 32 * s.fuses.dies then writeStackError s off v
  else match off with
    | 0x40 => writeLifecycle s v
    | 0x50 => writePower s v
    | 0x80 | 0x88 => clearBit s off 31 v
    | 0x90 => writeContext s v
    | 0x98 => clearBit s 0x98 7 v
    | 0xA0 => pfSet s 0xA0 (BitVec.ofNat 64 (ext v 12 36 * 4096))
    | _ => s

/-- R2, R349, R351: a write of a register: function 0 is the physical function, function n the VF of owner n − 1. -/
def execRegisterWrite (fn off : Nat) (v : BitVec 64) (s : State) : Answer :=
  .next (whenReady s (fun s => if fn = 0 then pfWrite s off v else if fn ≤ 32 then storeVfWrite s (fn - 1) off v else s))

/-- R352: a write of a queue's notify register. -/
def execNotify (o q : Nat) (v : BitVec 64) (s : State) : Answer :=
  .next (whenReady s (fun s => storeVfWrite s (o % 32) (8 * (q % 64)) v))

end Sys2Proof.Machine
end

