-- ==== Sys2Proof/Machine/Trust.lean ====
section
/-! DEFINITION. TDISP and attestation (R362 to R365): the messages of the mailbox, the interface's states, and the report. -/

namespace Sys2Proof.Machine

/-! Responses. The mailbox holds the response's message code, and what it carries (log entry 44). -/

/-- PRESUMED, log entry 44. -/
def respond (s : State) (xs : List (BitVec 8)) : State := { s with mailbox := xs }

/-- TDISP_ERROR. (PRESUMED, log entry 44) -/
def tdispError (s : State) : State := respond s [0x7F]

/-- A TDISP message for an interface of an owner with tdisp = 1. -/
def tdispMessage (s : State) (o : Nat) (f : State → State) : State :=
  whenReady s (fun s => if owTdisp s o then f s else tdispError s)

/-- Bytes that other specifications define. (DESIGN CHOICE, log entry 7) -/
def externals (what n : Nat) : List (BitVec 8) := (List.range n).map (Config.external what)

/-- R362. -/
def execGetTdispVersion (o : Nat) (s : State) : Answer :=
  .next (tdispMessage s (o % 32) (fun s => respond s (0x01 :: externals 16 2)))

/-- R362. -/
def execGetTdispCapabilities (o : Nat) (s : State) : Answer :=
  .next (tdispMessage s (o % 32) (fun s => respond s (0x02 :: externals 17 16)))

/-- R362. -/
def execGetDeviceInterfaceState (o : Nat) (s : State) : Answer :=
  .next (tdispMessage s (o % 32) (fun s => respond s [0x05, BitVec.ofNat 8 (owState s (o % 32))]))

/-! The interface's states. -/

/-- R362, R365: the interface is locked: its set is frozen from now on, and its memory key exists under a new lock count. (DEDUCED, log entry 85) -/
def lockInterface (s : State) (o : Nat) : State :=
  let w := owner s o
  if owState s o ≠ 0 ∨ w.wiping ∨ w.discarding then tdispError s
  else
    let n := w.lockCount + 1
    respond (modOwner (setOwState s o 1) o (fun w => { w with lockCount := n, key := some n })) [0x03]

def execLockInterfaceRequest (o : Nat) (s : State) : Answer := .next (tdispMessage s (o % 32) (fun s => lockInterface s (o % 32)))

/-- R362, R158: a locked interface goes to RUN, or stays locked. (DEDUCED, log entry 85) -/
def startInterface (s : State) (o : Nat) : State :=
  if owState s o = 1 ∧ mayRun s o ∧ !(owner s o).wiping then respond (toRun s o) [0x06] else tdispError s

def execStartInterfaceRequest (o : Nat) (s : State) : Answer := .next (tdispMessage s (o % 32) (fun s => startInterface s (o % 32)))

/-- R362: the interface's work is discarded and its memory wiped; then it is unlocked, and the response is sent. (DEDUCED, log entry 85) -/
def stopInterface (s : State) (o : Nat) : State :=
  let s := modOwner s o (fun w => { w with wipeTo := 0, stopping := true })
  if (owner s o).wiping then s else beginDiscard s o 2

def execStopInterfaceRequest (o : Nat) (s : State) : Answer := .next (tdispMessage s (o % 32) (fun s => stopInterface s (o % 32)))

/-! The report (R364). -/

/-- Lanes of a port that are the owner's, as a mask. -/
def laneMask (s : State) (o port : Nat) : Nat :=
  ((List.range 16).map (fun l =>
    let b := ext (pfGet s (0x400 + 16 * port + 8 * (l / 8))) (8 * (l % 8)) 8
    if b / 128 = 1 ∧ b % 32 = o then 2 ^ l else 0)).sum

/-- Active connection-table entries of an owner, ascending. -/
def activeConns (s : State) (o : Nat) : List Nat :=
  (List.range 1536).filter (fun e => connState s e == 2 && connOwner (connWord s e) == o)

/-- The interface report. (DESIGN CHOICE, log entry 7; DEDUCED, log entry 86) -/
def interfaceReport (s : State) (o : Nat) : List (BitVec 8) :=
  let shared := (seatOwners s (seatOf s o)).any (fun p => p != o)
  let conns := activeConns s o
  let words (xs : List (BitVec 64)) : List (BitVec 8) := xs.flatMap (fun x => bytesOf 8 x.toNat)
  bytesOf 2 1 ++ bytesOf 2 (0x300 + 8 * conns.length) ++ bytesOf 1 o ++ bytesOf 1 (seatOf s o) ++ bytesOf 1 (turnWord s o) ++ bytesOf 1 (b2n shared) ++
  bytesOf 8 (quantumOf s o) ++ externals 0 16 ++ externals 1 64 ++ externals 2 64 ++ externals (32 + o) 16 ++
  (List.range 10).flatMap (fun t => bytesOf 2 (rota s o t).toNat) ++ bytesOf 4 0 ++
  words [entry s o 0x20, entry s o 0x28, entry s o 0x30, entry s o 0x38] ++ bytesOf 8 (owDies s o) ++
  words ((List.range 64).map (fun q => vfGet s o (queueReg q 0))) ++ (List.range 4).flatMap (fun p => bytesOf 2 (laneMask s o p)) ++
  bytesOf 4 conns.length ++ bytesOf 4 0 ++ words (conns.map (connWord s))

/-- R364. -/
def execGetDeviceInterfaceReport (o : Nat) (s : State) : Answer :=
  .next (tdispMessage s (o % 32) (fun s => respond s (0x04 :: interfaceReport s (o % 32))))

/-! Attestation (R365, R392). -/

/-- R365: an SPDM message is answered; once the device root is erased attestation fails (R392). (DESIGN CHOICE, log entry 7; PRESUMED, log entry 44) -/
def execSpdmMessage (code : Nat) (s : State) : Answer :=
  .next (whenReady s (fun s => respond s (if s.fuses.root then externals (64 + code) 64 else [0x7F])))

end Sys2Proof.Machine
end

