-- ==== Sys2Proof/Machine/Debug.lean ====
section
/-! DEFINITION. The debug port (R366 to R370): tokens, HOLD, RELEASE, STEP, breakpoints, READ, and the stopping of the package
clock. -/

namespace Sys2Proof.Machine

/-! Access to the port (R367). -/

/-- The lifecycle count (R391). (DESIGN CHOICE, log entry 2) -/
def lifecycleCount (s : State) : Nat := s.fuses.count.toNat

/-- The token presented, while it has not expired. (DEDUCED, log entry 87) -/
def validToken (s : State) : Option Token :=
  match s.tokens with
  | some t => if lifecycleCount s < t.expiry.toNat then some t else none
  | none => none

/-- The port accepts commands. -/
def portOpen (s : State) : Bool := s.fuses.lifecycle == 1 || (validToken s).isSome

/-- It accepts a command that names an owner: under a token, one of the token's mask whose interface is not locked. (DEDUCED, log entry 87) -/
def portAllows (s : State) (o : Nat) : Bool :=
  s.fuses.lifecycle == 1 || (match validToken s with | some t => t.owners.getLsbD o && !locked s o | none => false)

/-- A refused command changes nothing and reads as 0. -/
def refuseDebug (s : State) : State := { s with readout := [0] }

/-- R367: a token is presented: signed, and naming this device. (DEDUCED, log entry 87; DEDUCED, log entry 92) -/
def execDebugToken (signed : Bool) (serial : BitVec 64) (owners : Lanes) (expiry : BitVec 32) (s : State) : Answer :=
  .next (whenReady s (fun s =>
    if signed && serial == s.fuses.serial && lifecycleCount s < expiry.toNat then { s with tokens := some ⟨owners, expiry⟩ } else refuseDebug s))

/-! HOLD, RELEASE and STEP (R367, R369). -/

/-- The slot a command names holds a group of the owner. -/
def named (s : State) (o k : Nat) : Bool := portAllows s o && (group s k).live && (group s k).owner == o

/-- Key of slot 0 to 95 of a core: partition by partition. -/
def debugKey (die core slot : Nat) : Nat := gkey die core (slot / 24) (slot % 24)

/-- R367. (DEDUCED, log entry 15) -/
def execHold (o die core slot : Nat) (s : State) : Answer :=
  let k := debugKey die core slot
  .next (whenReady s (fun s =>
    if named s o k then modGroup { s with readout := [] } k (fun g => { g with held := true }) else refuseDebug s))

/-- R367. (DEDUCED, log entry 15) -/
def execRelease (o die core slot : Nat) (s : State) : Answer :=
  let k := debugKey die core slot
  .next (whenReady s (fun s =>
    if named s o k then modGroup { s with readout := [] } k (fun g => { g with held := false, stepFrag := none }) else refuseDebug s))

/-- R369: the fragment that holds a lane is to issue one instruction. A parked one moves nothing. (DEDUCED, log entry 15; DESIGN CHOICE, log entry 88) -/
def execStep (o die core slot lane : Nat) (s : State) : Answer :=
  let k := debugKey die core slot
  .next (whenReady s (fun s =>
    if named s o k then
      match (group s k).frags.find? (fun f => f.mask.getLsbD lane) with
      | none => refuseDebug s
      | some f =>
        if unparked s k f then
          modGroup { s with readout := [], stepping := some (k, f.mask) } k (fun g => { g with held := true, stepFrag := some f.id })
        else modGroup { s with readout := [], stepping := none } k (fun g => { g with held := true })
    else refuseDebug s))

def num (n : Nat) : BitVec 64 := BitVec.ofNat 64 n

/-- The step report: of each lane of the stepped fragment its number, PC and fragment ID (R366, R369). -/
def stepReport (s : State) : List (BitVec 64) :=
  match s.stepping with
  | none => []
  | some (k, lanes) =>
    (lanesOf lanes).flatMap (fun l =>
      match (group s k).frags.find? (fun f => f.mask.getLsbD l) with
      | some f => [BitVec.ofNat 64 l, standsAt (group s k) f, num f.name]
      | none => [])

/-- R368: a hardware breakpoint is written. (DESIGN CHOICE, log entry 88) -/
def execBpset (o core n : Nat) (addr : BitVec 64) (lanes : Lanes) (enable : Bool) (s : State) : Answer :=
  .next (whenReady s (fun s =>
    if portAllows s o && n < 4 then { s with readout := [], breakpoints := mset s.breakpoints (bpKey o core n) ⟨addr, lanes, enable⟩ }
    else refuseDebug s))

/-! READ (R367): the state R342 lists, of a group `k` or what belongs to it. -/

def words32 (xs : List (BitVec 32)) : List (BitVec 64) := xs.map (fun x => x.setWidth 64)

/-- The fragments: ID, parent, lanes and PC of each. -/
def fragWords (g : Group) : List (BitVec 64) := g.frags.flatMap (fun f => [num f.name, num f.parent, f.mask.setWidth 64, standsAt g f])

/-- The saggars of a block: partition, stage, PC, and each record's thread and registers. -/
def saggarWords (b : Block) : List (BitVec 64) :=
  b.saggars.flatMap (fun y => [num y.part, num y.stage, y.pc, num y.records.length] ++
    y.records.flatMap (fun r => num r.tid :: words32 r.regs))

/-- A `%name` register as the group's first fragment reads it. -/
def nameWord (s : State) (k n : Nat) : List (BitVec 64) :=
  let c := ctx { s with cur := ⟨k, ((group s k).frags.head?.map (·.id)).getD 0, 0, 0, 0, false⟩, pfx := none }
  match readSpecial s c n with
  | some x => [x]
  | none => [0]

/-- The structure's state, by code: 0 vector registers, 1 scalars, 2 predicates, 3 conditions, 4 fragments, 5 reconvergence
entries, 6 a `%name` register, 7 a scratchpad byte, 8 a tile with its shape, 9 a queue, 10 saggars, 11 the step report,
12 class counters and pending exits, 13 latches held, 14 handles, 15 coils, 16 engine progress, 17 Refire progress,
18 the predictor, 19 the loop, 20 the monitor. (DESIGN CHOICE, log entry 88) -/
def readStructure (s : State) (k code i : Nat) : List (BitVec 64) :=
  let g := group s k
  let b := block s g.block
  match code with
  | 0 => [(rv g (i / 32) (i % 32)).setWidth 64]
  | 1 => [rs g i]
  | 2 => [(mget g.p i).setWidth 64]
  | 3 => [g.k.setWidth 64]
  | 4 => fragWords g
  | 5 => g.stack.flatMap (fun e => [e.pc, e.mask.setWidth 64, num e.frag, num e.parent])
  | 6 => nameWord s k i
  | 7 => [(mget b.spad i).setWidth 64]
  | 8 =>
    let t := mget b.tiles (16 * partOf k + i % 16)
    (List.range 512).map (fun j => num (ext t.data (64 * j) 64)) ++ (List.range 128).map (fun j => num (ext t.side (64 * j) 64)) ++ [t.shape]
  | 9 => qItems b i
  | 10 => saggarWords b
  | 12 => [num (counter g 0), num (counter g 1), num (counter g 2), num (counter g 3)] ++ g.exits
  | 13 => g.latches.map num
  | 14 => b.handles.flatMap (fun h => [num h.1, num (b2n h.2.refire), h.2.va])
  | 15 => b.coils.flatMap (fun c => [num c.1, num ((c.2.die.map (· + 1)).getD 0)])
  | 16 => (s.ops.filter (fun e => e.2.g == k)).flatMap (fun e => [num e.2.nextRead, num e.2.nextWrite, num e.2.left, num e.2.bytes])
  | 17 => (s.runs.filter (fun e => e.2.g == k)).flatMap (fun e => [num e.2.state, num e.2.index, num e.2.rung, num e.2.it, num e.2.total, e.2.eta])
  | 18 => (List.range 64).flatMap (fun j => let e := mget s.preds (predKey g.owner (partKey k) j); [e.mask.setWidth 64, e.conf.setWidth 64])
  | 19 => (match g.loop with | some p => [p.start, p.stop, rs g p.ctr, p.lanes.setWidth 64] | none => [])
  | 20 => [num ((g.armed.map (· + 1)).getD 0), num ((g.fired.map (· + 1)).getD 0), g.monwhy]
  | _ => []

/-- R367: the index holds the group's key above bit 20 and the place within the structure below it. (DESIGN CHOICE, log entry 88) -/
def execRead (o structure_ index : Nat) (s : State) : Answer :=
  .next (
    let k := index / 2 ^ 20
    if structure_ = 11 then (if portAllows s o && (match s.stepping with | some (g, _) => (group s g).owner == o | none => true)
      then { s with readout := stepReport s } else refuseDebug s)
    else if named s o k then { s with readout := readStructure s k structure_ (index % 2 ^ 20) }
    else refuseDebug s)

/-! The package clock (R370). -/

/-- R370: the port stops the clock. -/
def execFreeze (s : State) : Answer := .next (if portOpen s then { s with frozen := true, readout := [] } else refuseDebug s)

/-- R370: the port lets the clock go on. -/
def execThaw (s : State) : Answer := .next (if portOpen s then { s with frozen := false, readout := [] } else refuseDebug s)

/-- R370: the pin is driven low; in DEPLOYED or RMA without a token that is ignored. -/
def execFrzNLow (s : State) : Answer :=
  .next (if s.fuses.lifecycle < 2 ∨ (validToken s).isSome then { s with pinLow := true } else s)

/-- R370: the pin is driven high. -/
def execFrzNHigh (s : State) : Answer := .next { s with pinLow := false }

end Sys2Proof.Machine
end

