-- ==== Sys2Proof/Machine/VectorInt.lean ====
section
/-! DEFINITION. The integer vector instructions (R240 to R249). -/

namespace Sys2Proof.Machine

/-- A per-thread instruction: each participating thread's writes and flags (R240), landing at turn n + `lat`. -/
def vector (i : Instr) (h : Hdr) (lat : Nat) (held : Bool) (f : Ctx → Nat → List RegWrite × BitVec 5) (s : State) : State :=
  plain i h s (fun c s =>
    let rs := (lanesOf c.lanes).map (fun l => (l, f c l))
    .ok (send s c (c.n + lat) (rs.flatMap (fun e => e.2.1)) ((rs.map (fun e => (e.1, e.2.2))).filter (fun e => e.2 != 0)) held))

/-- vA := f(vB, vC). -/
def vector3 (i : Instr) (h : Hdr) (q b a : BitVec 6) (lat : Nat) (f : BitVec 32 → BitVec 32 → BitVec 32) : State → State :=
  vector i h lat false (fun c l => (wv a.toNat l (f (rv c.g b.toNat l) (rv c.g q.toNat l)), 0))

/-- vA := f(vA, vB, vC). -/
def vectorAcc (i : Instr) (h : Hdr) (q b a : BitVec 6) (lat : Nat) (f : BitVec 32 → BitVec 32 → BitVec 32 → BitVec 32) :
    State → State :=
  vector i h lat false (fun c l => (wv a.toNat l (f (rv c.g a.toNat l) (rv c.g b.toNat l) (rv c.g q.toNat l)), 0))

/-- vA := f(vB). -/
def vector2 (i : Instr) (h : Hdr) (b a : BitVec 6) (f : Ctx → BitVec 32 → BitVec 32) : State → State :=
  vector i h 1 false (fun c l => (wv a.toNat l (f c (rv c.g b.toNat l)), 0))

def mulhSigned32 (x y : BitVec 32) : BitVec 32 := BitVec.ofInt 32 (x.toInt * y.toInt / 2 ^ 32)
def mulhUnsigned32 (x y : BitVec 32) : BitVec 32 := BitVec.ofNat 32 (x.toNat * y.toNat / 2 ^ 32)
def shl32 (x y : BitVec 32) : BitVec 32 := if y.toNat < 32 then x <<< y.toNat else 0
def shr32 (x y : BitVec 32) : BitVec 32 := if y.toNat < 32 then x >>> y.toNat else 0
def sra32 (x y : BitVec 32) : BitVec 32 := x.sshiftRight (min y.toNat 32)

/-- The dot products of R243: `n` signed elements of `k` bits. -/
def dot (k n : Nat) (x y : BitVec 32) : Int :=
  ((List.range n).map (fun j => asInt k (x.toNat / 2 ^ (k * j)) * asInt k (y.toNat / 2 ^ (k * j)))).sum

/-- `vunary` (R246). -/
def vectorUnary (f : Nat) (x : BitVec 32) : BitVec 32 :=
  match f with
  | 0 => BitVec.ofNat 32 (popcount x)
  | 1 => BitVec.ofNat 32 (leadingZeros x)
  | 2 => BitVec.ofNat 32 (trailingZeros x)
  | 3 => reverseBits x
  | 4 => reverseBytes x
  | 5 => signLow 8 x
  | 6 => signLow 16 x
  | 7 => zeroLow 8 x
  | 8 => zeroLow 16 x
  | 9 => 0 - x
  | 10 => ~~~x
  | _ => if x.toInt < 0 then 0 - x else x

/-! The three-register instructions (R241). -/

def execVadd (h : Hdr) (q b a : BitVec 6) (s : State) : Answer := .next (vector3 (.vadd h q b a) h q b a 1 (· + ·) s)
def execVsub (h : Hdr) (q b a : BitVec 6) (s : State) : Answer := .next (vector3 (.vsub h q b a) h q b a 1 (· - ·) s)
def execVmul (h : Hdr) (q b a : BitVec 6) (s : State) : Answer := .next (vector3 (.vmul h q b a) h q b a 1 (· * ·) s)
def execVmulhI (h : Hdr) (q b a : BitVec 6) (s : State) : Answer := .next (vector3 (.vmulhI h q b a) h q b a 2 mulhSigned32 s)
def execVmulhN (h : Hdr) (q b a : BitVec 6) (s : State) : Answer := .next (vector3 (.vmulhN h q b a) h q b a 2 mulhUnsigned32 s)
def execVand (h : Hdr) (q b a : BitVec 6) (s : State) : Answer := .next (vector3 (.vand h q b a) h q b a 1 (· &&& ·) s)
def execVor (h : Hdr) (q b a : BitVec 6) (s : State) : Answer := .next (vector3 (.vor h q b a) h q b a 1 (· ||| ·) s)
def execVxor (h : Hdr) (q b a : BitVec 6) (s : State) : Answer := .next (vector3 (.vxor h q b a) h q b a 1 (· ^^^ ·) s)
def execVshl (h : Hdr) (q b a : BitVec 6) (s : State) : Answer := .next (vector3 (.vshl h q b a) h q b a 1 shl32 s)
def execVshr (h : Hdr) (q b a : BitVec 6) (s : State) : Answer := .next (vector3 (.vshr h q b a) h q b a 1 shr32 s)
def execVsra (h : Hdr) (q b a : BitVec 6) (s : State) : Answer := .next (vector3 (.vsra h q b a) h q b a 1 sra32 s)
def execVminI (h : Hdr) (q b a : BitVec 6) (s : State) : Answer := .next (vector3 (.vminI h q b a) h q b a 1 minSigned s)
def execVmaxI (h : Hdr) (q b a : BitVec 6) (s : State) : Answer := .next (vector3 (.vmaxI h q b a) h q b a 1 maxSigned s)
def execVminN (h : Hdr) (q b a : BitVec 6) (s : State) : Answer := .next (vector3 (.vminN h q b a) h q b a 1 minUnsigned s)
def execVmaxN (h : Hdr) (q b a : BitVec 6) (s : State) : Answer := .next (vector3 (.vmaxN h q b a) h q b a 1 maxUnsigned s)
def execVmad (h : Hdr) (q b a : BitVec 6) (s : State) : Answer :=
  .next (vectorAcc (.vmad h q b a) h q b a 1 (fun x y z => x + y * z) s)

/-! 64-bit forms on pairs, and dot products (R242, R243). -/

def execVaddI64 (h : Hdr) (q b a : BitVec 6) (s : State) : Answer :=
  .next (vector (.vaddI64 h q b a) h 1 false (fun c l => (wv64 a.toNat l (rv64 c.g b.toNat l + rv64 c.g q.toNat l), 0)) s)
def execVsubI64 (h : Hdr) (q b a : BitVec 6) (s : State) : Answer :=
  .next (vector (.vsubI64 h q b a) h 1 false (fun c l => (wv64 a.toNat l (rv64 c.g b.toNat l - rv64 c.g q.toNat l), 0)) s)
def execVmadwN (h : Hdr) (q b a : BitVec 6) (s : State) : Answer :=
  .next (vector (.vmadwN h q b a) h 2 false (fun c l =>
    (wv64 a.toNat l (rv64 c.g a.toNat l + (rv c.g b.toNat l).setWidth 64 * (rv c.g q.toNat l).setWidth 64), 0)) s)
def execVdot4I8 (h : Hdr) (q b a : BitVec 6) (s : State) : Answer :=
  .next (vectorAcc (.vdot4I8 h q b a) h q b a 2 (fun x y z => x + BitVec.ofInt 32 (dot 8 4 y z)) s)
def execVdot8I4 (h : Hdr) (q b a : BitVec 6) (s : State) : Answer :=
  .next (vectorAcc (.vdot8I4 h q b a) h q b a 2 (fun x y z => x + BitVec.ofInt 32 (dot 4 8 y z)) s)

/-! Immediate forms and one source (R244 to R247). -/

def execVaddi (h : Hdr) (f b a : BitVec 6) (s : State) : Answer :=
  .next (vector2 (.vaddi h f b a) h b a (fun c x => x + imm6 32 c f) s)
def execVshli (h : Hdr) (f b a : BitVec 6) (s : State) : Answer :=
  .next (vector2 (.vshli h f b a) h b a (fun _ x => x <<< f.toNat) s)
def execVshri (h : Hdr) (f b a : BitVec 6) (s : State) : Answer :=
  .next (vector2 (.vshri h f b a) h b a (fun _ x => x >>> f.toNat) s)
def execVsrai (h : Hdr) (f b a : BitVec 6) (s : State) : Answer :=
  .next (vector2 (.vsrai h f b a) h b a (fun _ x => x.sshiftRight f.toNat) s)
def execVmovi (h : Hdr) (i : BitVec 12) (a : BitVec 6) (s : State) : Answer :=
  .next (vector (.vmovi h i a) h 1 false (fun c l => (wv a.toNat l (imm12 32 c i), 0)) s)
def execVins (h : Hdr) (i : BitVec 12) (a : BitVec 6) (s : State) : Answer :=
  .next (vector (.vins h i a) h 1 false (fun c l => (wv a.toNat l (insertImm c i (rv c.g a.toNat l)), 0)) s)
def execVunary (h : Hdr) (f b a : BitVec 6) (s : State) : Answer :=
  .next (vector2 (.vunary h f b a) h b a (fun _ x => vectorUnary f.toNat x) s)
/-- A queue pops once for the execution; its access is class V (R35, R174). -/
def execVbcst (h : Hdr) (f b a : BitVec 6) (s : State) : Answer :=
  .next (plain (.vbcst h f b a) h s (fun c s =>
    let (x, s) := takeScalar s c (numN c.x.hb b.toNat)
    .ok (send s c (c.n + 1) ((lanesOf c.lanes).flatMap (fun l =>
      if f.toNat = 1 then wv64 a.toNat l x else wv a.toNat l (x.setWidth 32))) [] (namesQueue (.vbcst h f b a) c.x))))

/-! Compare and select (R248, R249). -/

def execVcmp (h : Hdr) (q b : BitVec 6) (n p : BitVec 3) (s : State) : Answer :=
  .next (vector (.vcmp h q b n p) h 1 false (fun c l => ([.p p.toNat l (condition n.toNat (rv c.g b.toNat l) (rv c.g q.toNat l))], 0)) s)
def execVsel (h : Hdr) (q b a : BitVec 6) (s : State) : Answer :=
  .next (vector (.vsel h q b a) h 1 false (fun c l =>
    (wv a.toNat l (if rp c.g h.g.toNat l then rv c.g b.toNat l else rv c.g q.toNat l), 0)) s)

end Sys2Proof.Machine
end

