-- ==== Sys2Proof/Machine/VectorFp.lean ====
section
/-! DEFINITION. The floating-point vector instructions, conversions and packing (R250 to R258), over Flags. -/

namespace Sys2Proof.Machine

/-- The rounding mode (R189). -/
def roundMode (c : Ctx) : Nat := ext c.g.fmode 0 3

/-- A 32-bit and a 64-bit result of a thread with its flags. -/
def give32 (a : BitVec 6) (l : Nat) (r : FpRes) : List RegWrite × BitVec 5 := (wv a.toNat l (BitVec.ofNat 32 r.bits), r.flags)
def give64 (a : BitVec 6) (l : Nat) (r : FpRes) : List RegWrite × BitVec 5 := (wv64 a.toNat l (BitVec.ofNat 64 r.bits), r.flags)

/-- Bits of an element, and of a pair. -/
def n32 (c : Ctx) (r : BitVec 6) (l : Nat) : Nat := (rv c.g r.toNat l).toNat
def n64 (c : Ctx) (r : BitVec 6) (l : Nat) : Nat := (rv64 c.g r.toNat l).toNat

/-- Two FP16 halves, each on its own (R251). -/
def halves2 (f : Nat → Nat → Nat → FpRes) (x y z : Nat) : FpRes :=
  let lo := f (x % 2 ^ 16) (y % 2 ^ 16) (z % 2 ^ 16)
  let hi := f (x / 2 ^ 16) (y / 2 ^ 16) (z / 2 ^ 16)
  ⟨lo.bits + 2 ^ 16 * hi.bits, lo.flags ||| hi.flags⟩

/-- FP32 on registers (R250). -/
def float3 (i : Instr) (h : Hdr) (q b a : BitVec 6) (lat : Nat) (f : Nat → Nat → Nat → FpRes) : State → State :=
  vector i h lat false (fun c l => give32 a l (f (roundMode c) (n32 c b l) (n32 c q l)))
/-- FP64 on pairs. -/
def double3 (i : Instr) (h : Hdr) (q b a : BitVec 6) (lat : Nat) (held : Bool) (f : Nat → Nat → Nat → FpRes) : State → State :=
  vector i h lat held (fun c l => give64 a l (f (roundMode c) (n64 c b l) (n64 c q l)))

def execVfadd (h : Hdr) (q b a : BitVec 6) (s : State) : Answer := .next (float3 (.vfadd h q b a) h q b a 1 (fAdd fp32) s)
def execVfsub (h : Hdr) (q b a : BitVec 6) (s : State) : Answer := .next (float3 (.vfsub h q b a) h q b a 1 (fSub fp32) s)
def execVfmul (h : Hdr) (q b a : BitVec 6) (s : State) : Answer := .next (float3 (.vfmul h q b a) h q b a 1 (fMul fp32) s)
def execVfmin (h : Hdr) (q b a : BitVec 6) (s : State) : Answer := .next (float3 (.vfmin h q b a) h q b a 1 (fun _ => fMinMax fp32 false) s)
def execVfmax (h : Hdr) (q b a : BitVec 6) (s : State) : Answer := .next (float3 (.vfmax h q b a) h q b a 1 (fun _ => fMinMax fp32 true) s)
def execVffma (h : Hdr) (q b a : BitVec 6) (s : State) : Answer :=
  .next (vector (.vffma h q b a) h 1 false (fun c l => give32 a l (fFma fp32 (roundMode c) (n32 c a l) (n32 c b l) (n32 c q l))) s)
def execVfaddF64 (h : Hdr) (q b a : BitVec 6) (s : State) : Answer := .next (double3 (.vfaddF64 h q b a) h q b a 2 false (fAdd fp64) s)
def execVfmulF64 (h : Hdr) (q b a : BitVec 6) (s : State) : Answer := .next (double3 (.vfmulF64 h q b a) h q b a 2 false (fMul fp64) s)
def execVffmaF64 (h : Hdr) (q b a : BitVec 6) (s : State) : Answer :=
  .next (vector (.vffmaF64 h q b a) h 2 false (fun c l => give64 a l (fFma fp64 (roundMode c) (n64 c a l) (n64 c b l) (n64 c q l))) s)

/-! Packed halves (R251). -/

def execVfaddH2 (h : Hdr) (q b a : BitVec 6) (s : State) : Answer :=
  .next (vector (.vfaddH2 h q b a) h 1 false (fun c l =>
    give32 a l (halves2 (fun _ y z => fAdd fp16 (roundMode c) y z) 0 (n32 c b l) (n32 c q l))) s)
def execVfmulH2 (h : Hdr) (q b a : BitVec 6) (s : State) : Answer :=
  .next (vector (.vfmulH2 h q b a) h 1 false (fun c l =>
    give32 a l (halves2 (fun _ y z => fMul fp16 (roundMode c) y z) 0 (n32 c b l) (n32 c q l))) s)
def execVffmaH2 (h : Hdr) (q b a : BitVec 6) (s : State) : Answer :=
  .next (vector (.vffmaH2 h q b a) h 1 false (fun c l =>
    give32 a l (halves2 (fFma fp16 (roundMode c)) (n32 c a l) (n32 c b l) (n32 c q l))) s)
/-- Two exact BF16 products and the accumulator, summed exactly. -/
def execVfdot2Bh (h : Hdr) (q b a : BitVec 6) (s : State) : Answer :=
  .next (vector (.vfdot2Bh h q b a) h 2 false (fun c l =>
    let half (r : BitVec 6) (k : Nat) : Fp := .of bf16 (n32 c r l / 2 ^ (16 * k) % 2 ^ 16)
    give32 a l (fFmaSum fp32 (roundMode c) (.of fp32 (n32 c a l)) [(half b 0, half q 0), (half b 1, half q 1)])) s)

/-! Compares, functions and division (R252 to R255). -/

def execVfcmp (h : Hdr) (q b : BitVec 6) (n p : BitVec 3) (s : State) : Answer :=
  .next (vector (.vfcmp h q b n p) h 1 false (fun c l =>
    let (t, fl) := fCompare fp32 n.toNat (n32 c b l) (n32 c q l)
    ([.p p.toNat l t], fl)) s)
def execVfcmpF64 (h : Hdr) (q b : BitVec 6) (n p : BitVec 3) (s : State) : Answer :=
  .next (vector (.vfcmpF64 h q b n p) h 2 false (fun c l =>
    let (t, fl) := fCompare fp64 n.toNat (n64 c b l) (n64 c q l)
    ([.p p.toNat l t], fl)) s)
def execVfunary (h : Hdr) (f b a : BitVec 6) (s : State) : Answer :=
  .next (vector (.vfunary h f b a) h (vfunaryClass f.toNat) false (fun c l =>
    if f.toNat ≥ 10 then give64 a l (fUnary f.toNat (roundMode c) (n64 c b l))
    else give32 a l (fUnary f.toNat (roundMode c) (n32 c b l))) s)
/-- Class V: turn n + 12, and n + 20 (R255). -/
def execVfdiv (h : Hdr) (q b a : BitVec 6) (s : State) : Answer :=
  .next (vector (.vfdiv h q b a) h 12 true (fun c l => give32 a l (fDiv fp32 (roundMode c) (n32 c b l) (n32 c q l))) s)
def execVfdivF64 (h : Hdr) (q b a : BitVec 6) (s : State) : Answer := .next (double3 (.vfdivF64 h q b a) h q b a 20 true (fDiv fp64) s)

/-! Conversion and packing (R256 to R258). -/

def execVcvt (h : Hdr) (f b a : BitVec 6) (s : State) : Answer :=
  .next (vector (.vcvt h f b a) h (vcvtClass f.toNat) false (fun c l =>
    let x := if vcvtSrc f.toNat = 2 then n64 c b l else n32 c b l
    let r := fCvt f.toNat (ext c.x.x 0 3) (roundMode c) x
    if vcvtDst f.toNat = 2 then give64 a l r else give32 a l r) s)
def execVpkH2 (h : Hdr) (q b a : BitVec 6) (s : State) : Answer :=
  .next (vector (.vpkH2 h q b a) h 1 false (fun c l =>
    let x := fConvert fp32 fp16 (roundMode c) (n32 c b l)
    let y := fConvert fp32 fp16 (roundMode c) (n32 c q l)
    give32 a l ⟨x.bits + 2 ^ 16 * y.bits, x.flags ||| y.flags⟩) s)
def execVpkBh2 (h : Hdr) (q b a : BitVec 6) (s : State) : Answer :=
  .next (vector (.vpkBh2 h q b a) h 1 false (fun c l =>
    let x := fConvert fp32 bf16 (roundMode c) (n32 c b l)
    let y := fConvert fp32 bf16 (roundMode c) (n32 c q l)
    give32 a l ⟨x.bits + 2 ^ 16 * y.bits, x.flags ||| y.flags⟩) s)
def execVpkI16 (h : Hdr) (q b a : BitVec 6) (s : State) : Answer :=
  .next (vector3 (.vpkI16 h q b a) h q b a 1 (fun x y =>
    let clamp (z : BitVec 32) : BitVec 16 := BitVec.ofInt 16 (max (-32768) (min 32767 z.toInt))
    clamp y ++ clamp x) s)

end Sys2Proof.Machine
end

