-- ==== Sys2Proof/Machine/Lane.lean ====
section
/-! DEFINITION. Predicate logic, lane exchange, votes, folds and per-thread special registers (R259 to R265). -/

namespace Sys2Proof.Machine

/-- The operations of R259. -/
def logic (o : Nat) (a b : Bool) : Bool :=
  match o with
  | 0 => a && b
  | 1 => a || b
  | 2 => a != b
  | 3 => a && !b
  | 4 => !a
  | 5 => a
  | 6 => true
  | _ => false

def execPlog (h : Hdr) (q p o d : BitVec 3) (s : State) : Answer :=
  .next (vector (.plog h q p o d) h 1 false (fun c l => ([.p d.toNat l (logic o.toNat (rp c.g p.toNat l) (rp c.g q.toNat l))], 0)) s)
def execKlog (h : Hdr) (q p o d : BitVec 3) (s : State) : Answer :=
  .next (plain (.klog h q p o d) h s (fun c s =>
    .ok (send s c (c.n + 1) [.k d.toNat (logic o.toNat (rk c.g p.toNat) (rk c.g q.toNat))] [] false)))

/-- `vote` (R260). -/
def voteOf (o : Nat) (c : Ctx) (p : Nat) : BitVec 64 :=
  let t := (lanesOf c.lanes).filter (rp c.g p)
  match o with
  | 0 => (maskOf t).setWidth 64
  | 1 => if t.isEmpty then 0 else 1
  | 2 => if t.length = (lanesOf c.lanes).length then 1 else 0
  | _ => BitVec.ofNat 64 t.length

def execVote (h : Hdr) (o p : BitVec 3) (a : BitVec 6) (s : State) : Answer :=
  .next (plain (.vote h o p a) h s (fun c s => .ok (giveS s c a 1 (namesQueue (.vote h o p a) c.x) (voteOf o.toNat c p.toNat))))

/-- The value of another lane's register: 0 where it holds no participating thread (R261). -/
def fromLane (c : Ctx) (b : BitVec 6) (l : Nat) : BitVec 32 := if c.lanes.getLsbD l then rv c.g b.toNat l else 0

def execVshfl (h : Hdr) (q b a : BitVec 6) (s : State) : Answer :=
  .next (vector (.vshfl h q b a) h 2 false (fun c l => (wv a.toNat l (fromLane c b (n32 c q l % 32)), 0)) s)
def execVxorl (h : Hdr) (f b a : BitVec 6) (s : State) : Answer :=
  .next (vector (.vxorl h f b a) h 1 false (fun c l => (wv a.toNat l (fromLane c b (l ^^^ f.toNat)), 0)) s)
def execVrotl (h : Hdr) (f b a : BitVec 6) (s : State) : Answer :=
  .next (vector (.vrotl h f b a) h 1 false (fun c l => (wv a.toNat l (fromLane c b ((l + f.toNat) % 32)), 0)) s)

/-! Folds (R262, R263). -/

/-- One step of a fold. -/
def foldOp (f rm : Nat) (x y : BitVec 32) : BitVec 32 × BitVec 5 :=
  let fp (r : FpRes) : BitVec 32 × BitVec 5 := (BitVec.ofNat 32 r.bits, r.flags)
  match f with
  | 0 => (x + y, 0)
  | 1 => (minSigned x y, 0)
  | 2 => (maxSigned x y, 0)
  | 3 => (minUnsigned x y, 0)
  | 4 => (maxUnsigned x y, 0)
  | 5 => (x &&& y, 0)
  | 6 => (x ||| y, 0)
  | 7 => (x ^^^ y, 0)
  | 8 => fp (fAdd fp32 rm x.toNat y.toNat)
  | 9 => fp (fMinMax fp32 false x.toNat y.toNat)
  | _ => fp (fMinMax fp32 true x.toNat y.toNat)

/-- The value with no participating thread. -/
def foldUnit (f : Nat) : BitVec 32 :=
  match f with
  | 1 => 0x7FFFFFFF
  | 2 => 0x80000000
  | 3 => 0xFFFFFFFF
  | 5 => 0xFFFFFFFF
  | 9 => 0x7F800000
  | 10 => 0xFF800000
  | _ => 0

/-- One level of the pairwise tree; an odd last element passes up. -/
def treeLevel (f rm : Nat) : List (BitVec 32) → List (BitVec 32) × BitVec 5
  | x :: y :: t =>
    let (z, fl) := foldOp f rm x y
    let (r, gl) := treeLevel f rm t
    (z :: r, fl ||| gl)
  | t => (t, 0)

/-- The tree, level by level. -/
def treeFold (f rm : Nat) : Nat → List (BitVec 32) → BitVec 32 × BitVec 5
  | 0, xs => (xs.head?.getD (foldUnit f), 0)
  | n + 1, xs =>
    let (ys, fl) := treeLevel f rm xs
    let (z, gl) := treeFold f rm n ys
    (z, fl ||| gl)

/-- Sign extension of a fold's result into the scalar register. -/
def foldExtend (f : Nat) (x : BitVec 32) : BitVec 64 := if f < 3 then x.signExtend 64 else x.setWidth 64

/-- `vredu`: class L3. A float minimum or maximum of one lane is that lane's number, of none the unit. -/
def execVredu (h : Hdr) (f b a : BitVec 6) (s : State) : Answer :=
  .next (plain (.vredu h f b a) h s (fun c s =>
    let (x, fl) := treeFold f.toNat (roundMode c) 5 ((lanesOf c.lanes).map (rv c.g b.toNat))
    let (ws, s) := giveScalar s c (numN c.x.ha a.toNat) (foldExtend f.toNat x)
    .ok (send s c (c.n + 3) ws (if fl = 0 then [] else [(0, fl)]) (namesQueue (.vredu h f b a) c.x))))

/-- The inclusive scan over participating threads, in ascending lane. -/
def scanFold (f rm : Nat) : Option (BitVec 32) → List (Nat × BitVec 32) → List (Nat × BitVec 32 × BitVec 5)
  | _, [] => []
  | none, (l, x) :: t => (l, x, 0) :: scanFold f rm (some x) t
  | some acc, (l, x) :: t =>
    let (y, fl) := foldOp f rm acc x
    (l, y, fl) :: scanFold f rm (some y) t

def execVscan (h : Hdr) (f b a : BitVec 6) (s : State) : Answer :=
  .next (plain (.vscan h f b a) h s (fun c s =>
    let rs := scanFold f.toNat (roundMode c) none ((lanesOf c.lanes).map (fun l => (l, rv c.g b.toNat l)))
    .ok (send s c (c.n + 3) (rs.flatMap (fun e => wv a.toNat e.1 e.2.1)) ((rs.map (fun e => (e.1, e.2.2))).filter (fun e => e.2 != 0)) false)))

/-- Threads of the stages below (R143). -/
def stageBase (s : State) (g : Group) : Nat := ((launch s g.launch).threads.take g.stage).sum

/-- `vrd` (R265). (DEDUCED, log entry 23) -/
def execVrd (h : Hdr) (i : BitVec 12) (a : BitVec 6) (s : State) : Answer :=
  .next (vector (.vrd h i a) h 1 false (fun c l =>
    let tid := mget c.g.tid l
    (wv a.toNat l (BitVec.ofNat 32 (match i.toNat with
      | 0 => l
      | 1 => tid
      | 2 => tid - stageBase s c.g
      | _ => c.f.name % 32)), 0)) s)

end Sys2Proof.Machine
end

