-- ==== Sys2Proof/Machine/Maintain.lean ====
section
/-! DEFINITION. The maintenance position of the channels (R65): refresh, scrubbing (R66, R67) and the physical function's
accesses. -/

namespace Sys2Proof.Machine

/-- A unit's channel of its die, and its place in the channel (R57). -/
def unitChannel (u : Nat) : Nat := 2 * sliceOf (u * 64) + u % 2
def unitIndex (u : Nat) : Nat := offsetOf (u * 64) / 128 / 48
/-- The unit at a place of a channel. (DEDUCED, log entry 48) -/
def unitAt (die channel index : Nat) : Nat := die * 2 ^ 30 + 2 * (index * 48 + channel / 2) + channel % 2

/-- Scrub positions of a die, counted in `scrub` at the die, and those of a channel that a physical-function access took. -/
def takenKey (die channel : Nat) : Nat := 16 + 96 * die + channel
/-- DEDUCED, log entry 48. -/
def scrubCount (s : State) (die channel : Nat) : Nat := mget s.scrub die - mget s.scrub (takenKey die channel)

/-- R65: the maintenance position of a die's channels, which all stand in one revolution. -/
def execRefresh (die : Nat) (s : State) : Answer :=
  .next (
    let v := s.clock / 48 % 16
    let s := post s (s.clock + 48) (.refresh die)
    if v < 8 then
      { s with refreshRow := mmod s.refreshRow (die * 8 + (15 + v) % 8) (fun r => (r + 1) % 16384) }
    else
      let chans := ((s.pfQueue.filter (fun a => a.die == die)).map (·.channel)).eraseDups
      chans.foldl (fun s c => post s s.clock (.pfMemoryAccess die c)) (post s s.clock (.scrubStep die 0)))

/-- A scrub of one unit: what is corrected is written back, what fails is marked poisoned (R66). -/
def scrubUnit (s : State) (u : Nat) : State :=
  let s := noteDecode s u 0 true
  if 2 < mget s.errors u then { s with poison := if s.poison.contains u then s.poison else u :: s.poison, errors := mdel s.errors u }
  else { s with errors := mdel s.errors u }

/-- Passes completed over all channels of a die (R67). (DEDUCED, log entry 48) -/
def scrubPasses (s : State) (die : Nat) : Nat :=
  let worst := ((List.range 96).map (fun c => mget s.scrub (takenKey die c))).foldl max 0
  (mget s.scrub die - worst) / 8388608

/-- R65: one scrub step of every channel whose position no physical-function access takes. Only a unit that is poisoned or
in error is changed by its scrub. (DEDUCED, log entry 48) -/
def execScrubStep (die _channel : Nat) (s : State) : Answer :=
  .next (
    let taken (c : Nat) : Bool := s.agenda.any (fun e => e.1 ≤ s.clock && e.2 == .pfMemoryAccess die c)
    let bad := (s.poison ++ s.errors.map (·.1)).eraseDups.filter (fun u => homeOf (u * 64) == die && !taken (unitChannel u) && unitIndex u == scrubCount s die (unitChannel u) % 8388608)
    let s := bad.foldl scrubUnit s
    let s := { s with scrub := mmod s.scrub die (· + 1) }
    let off := 0x200 + 0x20 * die
    pfSet s off (putBits (pfGet s off) 32 32 (scrubPasses s die)))

/-- R65: one access of the physical function in its channel's position. It reads ciphertext of a sealed unit (R365). (DESIGN CHOICE, log entry 126) -/
def execPfMemoryAccess (die channel : Nat) (s : State) : Answer :=
  .next (match s.pfQueue.find? (fun a => a.die == die && a.channel == channel) with
  | none => s
  | some a =>
    let u := unitAt die channel a.unit
    let s := { s with pfQueue := s.pfQueue.erase a, scrub := mmod s.scrub (takenKey die channel) (· + 1) }
    match a.write with
    | none => noteDecode { s with pfReply := s.pfReply ++ [stackUnit s none u] } u 0 true
    | some d => { s with
        mem := memPut s.mem (u * 64) (bytesOf 64 d.toNat), sealedUnits := mdel s.sealedUnits u
        poison := s.poison.filter (· != u), errors := mdel s.errors u })

/-- R65: the host asks the physical function for a unit of a channel. -/
def execPfMemoryRequest (die channel unit : Nat) (write : Bool) (data : BitVec 512) (s : State) : Answer :=
  .next { s with pfQueue := s.pfQueue ++ [⟨die, channel, unit % 2 ^ 23, if write then some data else none⟩] }

end Sys2Proof.Machine
end

