-- ==== Sys2Proof/Machine/Reset.lean ====
section
/-! DEFINITION. Reset, function-level resets, the full wipe and the lifecycle (R387 to R392), power and temperature (R393, R394). -/

namespace Sys2Proof.Machine

/-! Reset (R388, R389). -/

/-- Clocks of the full wipe of every stack. -/
def fullWipeClocks : Nat := 26843568

/-- Inputs of the world outside: they stay due over a reset, which restarts the count of clocks. (DESIGN CHOICE, log entry 49) -/
def isInput : Instr → Bool
  | .notify _ _ _ | .registerWrite _ _ _ | .partitionEntryWrite _ _ _ | .seatWordWrite _ _ | .ownctlRun _ | .ownctlUnlock _
  | .stage2Invalidation _ _ | .connectionTableWrite _ _ | .slotTableWrite _ _ _ | .contextSave _ | .contextRestore _ _
  | .lifecycleToBlank _ _ | .lifecycleToProvisioned _ _ | .lifecycleToDeployed _ _ | .lifecycleToRma _ _ | .pwrlimWrite _
  | .getTdispVersion _ | .getTdispCapabilities _ | .lockInterfaceRequest _ | .getDeviceInterfaceReport _ | .getDeviceInterfaceState _
  | .startInterfaceRequest _ | .stopInterfaceRequest _ | .spdmMessage _ | .debugToken _ _ _ _ | .hold _ _ _ _ | .release _ _ _ _
  | .step _ _ _ _ _ | .bpset _ _ _ _ _ _ | .read _ _ _ | .freeze | .thaw | .frzNLow | .frzNHigh | .reset _ | .vfFlr _ | .pfFlr
  | .thermalThrottle | .thermalRecover | .thermalShutdown | .clockStep _ _ | .peerLinkUp _ _ | .peerLinkDown _
  | .hostMemoryRequest _ _ _ _ _ _ _ | .peerRequest _ _ _ _ _ _ | .softError _ _ _ _ | .pfMemoryRequest _ _ _ _ _ => true
  | _ => false

def isReset : Instr → Bool
  | .reset _ => true
  | _ => false

/-- Inputs due from a clock on, by the clocks that follow it. (DEDUCED, log entry 89) -/
def laterInputs (s : State) (from_ : Nat) : List (Nat × Instr) := (s.agenda.filter (fun e => isInput e.2)).map (fun e => (e.1 - from_, e.2))

/-- LCSTAT with a fault code and the ready bit (R391). -/
def lcstat (s : State) (fault ready : Nat) : BitVec 64 := BitVec.ofNat 64 (lifecycleCount s * 2 ^ 32 + fault * 256 + ready * 2)

/-- The clock's word after a reset: 940 MHz, or 400 while a die is hot (R393, R394). -/
def clockWord (s : State) : BitVec 64 := BitVec.ofNat 64 ((if s.hot then 400 else 940) * 65536 + 2000)

/-- What a reset leaves: storage and registers at their reset values, and outside them the stacks, the fuses, what the host and
peers have received, and the pin. (DEDUCED, log entry 1; DEDUCED, log entry 90) -/
def resetState (s : State) (fault : Nat) : State :=
  { State.reset with
    fuses := s.fuses, boots := s.boots + 1, hot := s.hot, pinLow := s.pinLow, images := s.images, sent := s.sent, returned := s.returned
    pf := [(0x48, lcstat s fault 0), (0x50, clockWord s)], agenda := laterInputs s s.clock
    mem := s.mem, sealedUnits := s.sealedUnits, poison := s.poison, errors := s.errors, nextId := s.nextId, freeCtr := s.freeCtr }

/-- The steps of R388 from the third on: the wipe runs; the channels' maintenance and the seats' rotation with it (R65, R413). (DEDUCED, log entry 89) -/
def startReset (s : State) (fault : Nat) : State :=
  let s := { resetState s fault with wiping := true }
  let s := (List.range s.fuses.dies).foldl (fun s d => post s 45 (.refresh d)) s
  let s := (List.range 16).foldl (fun s k => post s 768 (.seatBoundary k)) s
  post s fullWipeClocks .fullWipeComplete

/-- R388: a reset or a power-up. A firmware image whose signature fails stops the device with fault 1. (DEDUCED, log entry 1; DEDUCED, log entry 92) -/
def execReset (firmwareOk : Bool) (s : State) : Answer :=
  .next (if firmwareOk then startReset s (if s.shutdown then 3 else 0) else resetState s 1)

/-- R390: a PF reset: the same without the fuses and the firmware. (DEDUCED, log entry 90) -/
def execPfFlr (s : State) : Answer := .next (whenReady s (fun s => startReset s 0))

/-- R388, R389, R391: the full wipe ends. After a reset the device is ready; after a lifecycle transition go reads 0. (DEDUCED, log entry 1) -/
def execFullWipeComplete (s : State) : Answer :=
  .next (
    let s := { s with
      wiping := false, mem := [], sealedUnits := [], poison := [], errors := [], l0 := [], l1 := [], l2 := [], coreTlb := [], dieTlb := []
      preds := [], mphit := [], mpmiss := [], launches := [], blocks := [], groups := [], badRegs := [], weak := []
      owners := mall s.owners (fun _ w => { w with saveCount := 0, image := none }) }
    if deviceReady s then pfSet s 0x40 (putBits (pfGet s 0x40) 2 1 0) else pfSet s 0x48 (putBits (pfGet s 0x48) 1 1 1))

/-- R390: a VF's reset: its work goes, its memory is wiped, and it stands unlocked with its registers at reset. (DEDUCED, log entry 94) -/
def execVfFlr (o : Nat) (s : State) : Answer :=
  .next (whenReady s (fun s =>
    let o := o % 32
    let s := modOwner s o (fun w => { w with flr := true, wipeTo := 0 })
    if (owner s o).wiping then s else beginDiscard s o 2))

/-! Lifecycle (R391, R392). -/

/-- The allowed transitions. (DEDUCED, log entry 91) -/
def mayBecome (from_ to_ : Nat) : Bool :=
  (from_ == 0 && to_ == 1) || (from_ == 1 && to_ == 2) || (from_ == 2 && to_ == 3) || (from_ == 1 && to_ == 3)

/-- Every owner is in CONFIG_UNLOCKED. -/
def allUnlocked (s : State) : Bool := (List.range 32).all (fun o => owState s o == 0 && !(owner s o).discarding && !(owner s o).wiping)

/-- A transition is asked for with go. (DEDUCED, log entry 91; DEDUCED, log entry 92) -/
def transition (s : State) (target : Nat) (signed : Bool) (serial : BitVec 64) : State :=
  if (pfGet s 0x40).getLsbD 2 then s
  else
    let s := pfSet s 0x40 (BitVec.ofNat 64 target)
    if signed && serial == s.fuses.serial && allUnlocked s && mayBecome s.fuses.lifecycle target then
      let f := s.fuses
      let s := { s with
        fuses := { f with lifecycle := target, count := f.count + 1, root := if target = 1 then true else if target = 3 then false else f.root }
        wiping := true }
      post (pfSet (pfSet s 0x40 (BitVec.ofNat 64 (target + 4))) 0x48 (lcstat s 0 1)) (s.clock + fullWipeClocks) .fullWipeComplete
    else pfSet s 0x48 (putBits (pfGet s 0x48) 8 4 2)

/-- R392: no state leads to BLANK. -/
def execLifecycleToBlank (signed : Bool) (serial : BitVec 64) (s : State) : Answer := .next (whenReady s (fun s => transition s 0 signed serial))

/-- R392. -/
def execLifecycleToProvisioned (signed : Bool) (serial : BitVec 64) (s : State) : Answer :=
  .next (whenReady s (fun s => transition s 1 signed serial))

/-- R392. -/
def execLifecycleToDeployed (signed : Bool) (serial : BitVec 64) (s : State) : Answer :=
  .next (whenReady s (fun s => transition s 2 signed serial))

/-- R392. -/
def execLifecycleToRma (signed : Bool) (serial : BitVec 64) (s : State) : Answer := .next (whenReady s (fun s => transition s 3 signed serial))

/-! Power and temperature (R393, R394). -/

/-- The package clock in MHz. -/
def packageMHz (s : State) : Nat := ext (pfGet s 0x50) 16 11

/-- The clock is set, and whether the power limit stays unmet at it. -/
def setClock (s : State) (mhz : Nat) (exceeds : Bool) : State :=
  pfSet s 0x50 (putBits (putBits (pfGet s 0x50) 16 11 mhz) 27 1 (b2n (exceeds && mhz == 400)))

/-- R393: a step of 20 MHz between 400 and 940 MHz; none up while a die is hot (R394). -/
def execClockStep (up exceeds : Bool) (s : State) : Answer :=
  .next (
    let m := packageMHz s
    setClock s (if up then (if s.hot then m else min 940 (m + 20)) else max 400 (m - 20)) exceeds)

/-- R394: a die reaches 105 °C. A limit that was unmet at 400 MHz stays so (R393). -/
def execThermalThrottle (s : State) : Answer := .next (setClock { s with hot := true } 400 ((pfGet s 0x50).getLsbD 27))

/-- R394: every die is below 100 °C. -/
def execThermalRecover (s : State) : Answer := .next { s with hot := false }

/-- R394: a die reaches 115 °C: the package is off and its storage is lost. The next power-up, and what follows it, is still to
come. -/
def execThermalShutdown (s : State) : Answer :=
  .next (
    let next := (s.agenda.find? (fun e => isReset e.2)).map (·.1)
    { State.reset with
      fuses := s.fuses, boots := s.boots, images := s.images, sent := s.sent, returned := s.returned, pinLow := s.pinLow
      powered := false, shutdown := true, pf := [], nextId := s.nextId, freeCtr := s.freeCtr
      agenda := match next with
        | none => []
        | some d => (s.agenda.filter (fun e => isInput e.2 && d ≤ e.1)).map (fun e => (e.1 - d, e.2)) })

end Sys2Proof.Machine
end

