-- ==== Sys2Proof/Machine/Short.lean ====
section
/-! DEFINITION. The 16-bit vector instructions (R209): each is the 32-bit instruction it stands for, unguarded, with A as
destination and first source. -/

namespace Sys2Proof.Machine

/-- The stall count that R175 implies for a 16-bit instruction, by latency class. -/
def impliedStall (i : Instr) : Nat := (shapeOf i).cls - 1

/-- vA := f(vA, vB). -/
def short2 (i : Instr) (b : BitVec 5) (a : BitVec 6) (f : BitVec 32 → BitVec 32 → BitVec 32) : State → State :=
  vector i (shortHdr (impliedStall i)) 1 false (fun c l => (wv a.toNat l (f (rv c.g a.toNat l) (rv c.g b.toNat l)), 0))

/-- vA := f(vA). -/
def short1 (i : Instr) (a : BitVec 6) (f : BitVec 32 → BitVec 32) : State → State :=
  vector i (shortHdr (impliedStall i)) 1 false (fun c l => (wv a.toNat l (f (rv c.g a.toNat l)), 0))

/-- FP32, rounded by `%fmode`. -/
def shortFloat (i : Instr) (b : BitVec 5) (a : BitVec 6) (f : Nat → Nat → Nat → FpRes) : State → State :=
  vector i (shortHdr (impliedStall i)) 1 false (fun c l => give32 a l (f (roundMode c) (n32 c a l) (rv c.g b.toNat l).toNat))

def execVmov16 (b : BitVec 5) (a : BitVec 6) (s : State) : Answer := .next (short2 (.vmov16 b a) b a (fun _ y => y) s)
def execVadd16 (b : BitVec 5) (a : BitVec 6) (s : State) : Answer := .next (short2 (.vadd16 b a) b a (· + ·) s)
def execVsub16 (b : BitVec 5) (a : BitVec 6) (s : State) : Answer := .next (short2 (.vsub16 b a) b a (· - ·) s)
def execVand16 (b : BitVec 5) (a : BitVec 6) (s : State) : Answer := .next (short2 (.vand16 b a) b a (· &&& ·) s)
def execVor16 (b : BitVec 5) (a : BitVec 6) (s : State) : Answer := .next (short2 (.vor16 b a) b a (· ||| ·) s)
def execVxor16 (b : BitVec 5) (a : BitVec 6) (s : State) : Answer := .next (short2 (.vxor16 b a) b a (· ^^^ ·) s)
def execVshli16 (n : BitVec 5) (a : BitVec 6) (s : State) : Answer := .next (short1 (.vshli16 n a) a (fun x => x <<< n.toNat) s)
def execVshri16 (n : BitVec 5) (a : BitVec 6) (s : State) : Answer := .next (short1 (.vshri16 n a) a (fun x => x >>> n.toNat) s)
def execVfadd16 (b : BitVec 5) (a : BitVec 6) (s : State) : Answer := .next (shortFloat (.vfadd16 b a) b a (fAdd fp32) s)
def execVfmul16 (b : BitVec 5) (a : BitVec 6) (s : State) : Answer := .next (shortFloat (.vfmul16 b a) b a (fMul fp32) s)
def execVaddi16 (n : BitVec 5) (a : BitVec 6) (s : State) : Answer := .next (short1 (.vaddi16 n a) a (fun x => x + n.signExtend 32) s)
def execVmovi16 (n : BitVec 5) (a : BitVec 6) (s : State) : Answer := .next (short1 (.vmovi16 n a) a (fun _ => n.signExtend 32) s)

end Sys2Proof.Machine
end

