-- ==== Sys2Proof/Machine/System.lean ====
section
/-! DEFINITION. The system functions (R326 to R329). -/

namespace Sys2Proof.Machine

/-- No effect. -/
def doNothing : Run := fun _ s => .ok s

/-- `ifence` (R136): the owner's L0 lines on the core and the group's loop buffer are discarded; two turns (R326). -/
def discardCode : Run := fun c s =>
  let s := { s with l0 := s.l0.filter (fun l => !(l.owner == c.o && l.at_ / 4 == coreKey c.k)) }
  .ok (modGroup s c.k (fun g => { g with loop := g.loop.map (fun p => { p with body := [] }), nextTurn := max g.nextTurn (c.n + 2) }))

def execNop (h : Hdr) (s : State) : Answer := .next (plain (.nop h) h s doNothing)
def execNop16 (s : State) : Answer := .next (plain .nop16 (shortHdr 0) s doNothing)
/-- The yielding is noted as the instruction issues. -/
def execYield (h : Hdr) (s : State) : Answer := .next (plain (.yield h) h s doNothing)
def execYield16 (s : State) : Answer := .next (plain .yield16 (shortHdr 0) s doNothing)
def execIfence (h : Hdr) (s : State) : Answer := .next (plain (.ifence h) h s discardCode)
def execIfence16 (s : State) : Answer := .next (plain .ifence16 (shortHdr 0) s discardCode)
/-- R327, R328: the cone counts at the start of turn n + 1. -/
def execProg (h : Hdr) (i : BitVec 12) (s : State) : Answer :=
  .next (plain (.prog h i) h s (fun c s => .ok (send s c (c.n + 1) [.cone i.toNat] [] false)))
def execBkpt (h : Hdr) (i : BitVec 12) (s : State) : Answer :=
  .next (plain (.bkpt h i) h s (fun c s => if c.g.dbgctl.getLsbD 2 then .ok s else .error ⟨.breakpoint, i.setWidth 64, 0, 0⟩))
def execCsum (h : Hdr) (i : BitVec 12) (s : State) : Answer :=
  .next (plain (.csum h i) h s (fun c s =>
    if traceMisaligned s c.k then .error ⟨.misaligned, 0, detailWord false ((lanesOf c.f.mask).head?.getD 0) 1 0 0 0 0 0, (launch s c.g.launch).arg⟩
    else traceAppend s c.k c.f.id 1 i.toNat))
/-- Turns are even and odd as they count from a residency's start, which is a multiple of 96 turns (R172, R159). -/
def execWsync (h : Hdr) (s : State) : Answer :=
  .next (plain (.wsync h) h s (fun c s => .ok (modGroup s c.k (fun g => { g with nextTurn := max g.nextTurn (c.n / 2 * 2 + 2) }))))
def execStchk (h : Hdr) (i : BitVec 12) (s : State) : Answer :=
  .next (plain (.stchk h i) h s (fun c s => .ok (modGroup s c.k (fun g => { g with checker := i == 1 }))))

/-- R175: a result lands. -/
def execResultWrite (id : Nat) (s : State) : Answer :=
  .next (match mfind s.results id with
  | none => s
  | some r => landResult { s with results := mdel s.results id } r)

end Sys2Proof.Machine
end

