-- ==== Sys2Proof/Machine/Dispatch.lean ====
section
/-! DEFINITION. The dispatch: one arm for each constructor of `Instr`, each one call of its meaning. -/

namespace Sys2Proof.Machine

def exec (i : Instr) (s : State) : Host.Outcome State Fault Refusal :=
  match i with
  | .xp x_ k_ j_ h_ => Sys2Proof.Machine.execXp x_ k_ j_ h_ s
  | .bra h_ i_ => Sys2Proof.Machine.execBra h_ i_ s
  | .brx h_ a_ => Sys2Proof.Machine.execBrx h_ a_ s
  | .call h_ i_ => Sys2Proof.Machine.execCall h_ i_ s
  | .ret h_ => Sys2Proof.Machine.execRet h_ s
  | .rcv h_ i_ => Sys2Proof.Machine.execRcv h_ i_ s
  | .brk h_ i_ n_ => Sys2Proof.Machine.execBrk h_ i_ n_ s
  | .exit h_ => Sys2Proof.Machine.execExit h_ s
  | .reform h_ a_ => Sys2Proof.Machine.execReform h_ a_ s
  | .loop h_ i_ a_ => Sys2Proof.Machine.execLoop h_ i_ a_ s
  | .trap h_ i_ => Sys2Proof.Machine.execTrap h_ i_ s
  | .sadd h_ c_ b_ a_ => Sys2Proof.Machine.execSadd h_ c_ b_ a_ s
  | .ssub h_ c_ b_ a_ => Sys2Proof.Machine.execSsub h_ c_ b_ a_ s
  | .smul h_ c_ b_ a_ => Sys2Proof.Machine.execSmul h_ c_ b_ a_ s
  | .smulhI h_ c_ b_ a_ => Sys2Proof.Machine.execSmulhI h_ c_ b_ a_ s
  | .smulhN h_ c_ b_ a_ => Sys2Proof.Machine.execSmulhN h_ c_ b_ a_ s
  | .sdivN h_ c_ b_ a_ => Sys2Proof.Machine.execSdivN h_ c_ b_ a_ s
  | .sremN h_ c_ b_ a_ => Sys2Proof.Machine.execSremN h_ c_ b_ a_ s
  | .sand h_ c_ b_ a_ => Sys2Proof.Machine.execSand h_ c_ b_ a_ s
  | .sor h_ c_ b_ a_ => Sys2Proof.Machine.execSor h_ c_ b_ a_ s
  | .sxor h_ c_ b_ a_ => Sys2Proof.Machine.execSxor h_ c_ b_ a_ s
  | .sshl h_ c_ b_ a_ => Sys2Proof.Machine.execSshl h_ c_ b_ a_ s
  | .sshr h_ c_ b_ a_ => Sys2Proof.Machine.execSshr h_ c_ b_ a_ s
  | .ssra h_ c_ b_ a_ => Sys2Proof.Machine.execSsra h_ c_ b_ a_ s
  | .sminI h_ c_ b_ a_ => Sys2Proof.Machine.execSminI h_ c_ b_ a_ s
  | .smaxI h_ c_ b_ a_ => Sys2Proof.Machine.execSmaxI h_ c_ b_ a_ s
  | .sminN h_ c_ b_ a_ => Sys2Proof.Machine.execSminN h_ c_ b_ a_ s
  | .smaxN h_ c_ b_ a_ => Sys2Proof.Machine.execSmaxN h_ c_ b_ a_ s
  | .saddi h_ f_ b_ a_ => Sys2Proof.Machine.execSaddi h_ f_ b_ a_ s
  | .smovi h_ i_ a_ => Sys2Proof.Machine.execSmovi h_ i_ a_ s
  | .sins h_ i_ a_ => Sys2Proof.Machine.execSins h_ i_ a_ s
  | .scmp h_ c_ b_ n_ k_ => Sys2Proof.Machine.execScmp h_ c_ b_ n_ k_ s
  | .smov h_ b_ a_ => Sys2Proof.Machine.execSmov h_ b_ a_ s
  | .sunary h_ f_ b_ a_ => Sys2Proof.Machine.execSunary h_ f_ b_ a_ s
  | .srd h_ i_ a_ => Sys2Proof.Machine.execSrd h_ i_ a_ s
  | .swr h_ i_ a_ => Sys2Proof.Machine.execSwr h_ i_ a_ s
  | .sgetl h_ f_ b_ a_ => Sys2Proof.Machine.execSgetl h_ f_ b_ a_ s
  | .sshli h_ f_ b_ a_ => Sys2Proof.Machine.execSshli h_ f_ b_ a_ s
  | .sshri h_ f_ b_ a_ => Sys2Proof.Machine.execSshri h_ f_ b_ a_ s
  | .vadd h_ c_ b_ a_ => Sys2Proof.Machine.execVadd h_ c_ b_ a_ s
  | .vsub h_ c_ b_ a_ => Sys2Proof.Machine.execVsub h_ c_ b_ a_ s
  | .vmul h_ c_ b_ a_ => Sys2Proof.Machine.execVmul h_ c_ b_ a_ s
  | .vmulhI h_ c_ b_ a_ => Sys2Proof.Machine.execVmulhI h_ c_ b_ a_ s
  | .vmulhN h_ c_ b_ a_ => Sys2Proof.Machine.execVmulhN h_ c_ b_ a_ s
  | .vmad h_ c_ b_ a_ => Sys2Proof.Machine.execVmad h_ c_ b_ a_ s
  | .vand h_ c_ b_ a_ => Sys2Proof.Machine.execVand h_ c_ b_ a_ s
  | .vor h_ c_ b_ a_ => Sys2Proof.Machine.execVor h_ c_ b_ a_ s
  | .vxor h_ c_ b_ a_ => Sys2Proof.Machine.execVxor h_ c_ b_ a_ s
  | .vshl h_ c_ b_ a_ => Sys2Proof.Machine.execVshl h_ c_ b_ a_ s
  | .vshr h_ c_ b_ a_ => Sys2Proof.Machine.execVshr h_ c_ b_ a_ s
  | .vsra h_ c_ b_ a_ => Sys2Proof.Machine.execVsra h_ c_ b_ a_ s
  | .vminI h_ c_ b_ a_ => Sys2Proof.Machine.execVminI h_ c_ b_ a_ s
  | .vmaxI h_ c_ b_ a_ => Sys2Proof.Machine.execVmaxI h_ c_ b_ a_ s
  | .vminN h_ c_ b_ a_ => Sys2Proof.Machine.execVminN h_ c_ b_ a_ s
  | .vmaxN h_ c_ b_ a_ => Sys2Proof.Machine.execVmaxN h_ c_ b_ a_ s
  | .vaddI64 h_ c_ b_ a_ => Sys2Proof.Machine.execVaddI64 h_ c_ b_ a_ s
  | .vsubI64 h_ c_ b_ a_ => Sys2Proof.Machine.execVsubI64 h_ c_ b_ a_ s
  | .vmadwN h_ c_ b_ a_ => Sys2Proof.Machine.execVmadwN h_ c_ b_ a_ s
  | .vdot4I8 h_ c_ b_ a_ => Sys2Proof.Machine.execVdot4I8 h_ c_ b_ a_ s
  | .vdot8I4 h_ c_ b_ a_ => Sys2Proof.Machine.execVdot8I4 h_ c_ b_ a_ s
  | .vaddi h_ f_ b_ a_ => Sys2Proof.Machine.execVaddi h_ f_ b_ a_ s
  | .vshli h_ f_ b_ a_ => Sys2Proof.Machine.execVshli h_ f_ b_ a_ s
  | .vshri h_ f_ b_ a_ => Sys2Proof.Machine.execVshri h_ f_ b_ a_ s
  | .vsrai h_ f_ b_ a_ => Sys2Proof.Machine.execVsrai h_ f_ b_ a_ s
  | .vmovi h_ i_ a_ => Sys2Proof.Machine.execVmovi h_ i_ a_ s
  | .vins h_ i_ a_ => Sys2Proof.Machine.execVins h_ i_ a_ s
  | .vcmp h_ c_ b_ n_ p_ => Sys2Proof.Machine.execVcmp h_ c_ b_ n_ p_ s
  | .vsel h_ c_ b_ a_ => Sys2Proof.Machine.execVsel h_ c_ b_ a_ s
  | .vunary h_ f_ b_ a_ => Sys2Proof.Machine.execVunary h_ f_ b_ a_ s
  | .vbcst h_ f_ b_ a_ => Sys2Proof.Machine.execVbcst h_ f_ b_ a_ s
  | .vfadd h_ c_ b_ a_ => Sys2Proof.Machine.execVfadd h_ c_ b_ a_ s
  | .vfsub h_ c_ b_ a_ => Sys2Proof.Machine.execVfsub h_ c_ b_ a_ s
  | .vfmul h_ c_ b_ a_ => Sys2Proof.Machine.execVfmul h_ c_ b_ a_ s
  | .vffma h_ c_ b_ a_ => Sys2Proof.Machine.execVffma h_ c_ b_ a_ s
  | .vfmin h_ c_ b_ a_ => Sys2Proof.Machine.execVfmin h_ c_ b_ a_ s
  | .vfmax h_ c_ b_ a_ => Sys2Proof.Machine.execVfmax h_ c_ b_ a_ s
  | .vfaddF64 h_ c_ b_ a_ => Sys2Proof.Machine.execVfaddF64 h_ c_ b_ a_ s
  | .vfmulF64 h_ c_ b_ a_ => Sys2Proof.Machine.execVfmulF64 h_ c_ b_ a_ s
  | .vffmaF64 h_ c_ b_ a_ => Sys2Proof.Machine.execVffmaF64 h_ c_ b_ a_ s
  | .vfaddH2 h_ c_ b_ a_ => Sys2Proof.Machine.execVfaddH2 h_ c_ b_ a_ s
  | .vfmulH2 h_ c_ b_ a_ => Sys2Proof.Machine.execVfmulH2 h_ c_ b_ a_ s
  | .vffmaH2 h_ c_ b_ a_ => Sys2Proof.Machine.execVffmaH2 h_ c_ b_ a_ s
  | .vfdot2Bh h_ c_ b_ a_ => Sys2Proof.Machine.execVfdot2Bh h_ c_ b_ a_ s
  | .vfcmp h_ c_ b_ n_ p_ => Sys2Proof.Machine.execVfcmp h_ c_ b_ n_ p_ s
  | .vfcmpF64 h_ c_ b_ n_ p_ => Sys2Proof.Machine.execVfcmpF64 h_ c_ b_ n_ p_ s
  | .vfunary h_ f_ b_ a_ => Sys2Proof.Machine.execVfunary h_ f_ b_ a_ s
  | .vfdiv h_ c_ b_ a_ => Sys2Proof.Machine.execVfdiv h_ c_ b_ a_ s
  | .vfdivF64 h_ c_ b_ a_ => Sys2Proof.Machine.execVfdivF64 h_ c_ b_ a_ s
  | .vcvt h_ f_ b_ a_ => Sys2Proof.Machine.execVcvt h_ f_ b_ a_ s
  | .vpkH2 h_ c_ b_ a_ => Sys2Proof.Machine.execVpkH2 h_ c_ b_ a_ s
  | .vpkBh2 h_ c_ b_ a_ => Sys2Proof.Machine.execVpkBh2 h_ c_ b_ a_ s
  | .vpkI16 h_ c_ b_ a_ => Sys2Proof.Machine.execVpkI16 h_ c_ b_ a_ s
  | .plog h_ q_ p_ o_ d_ => Sys2Proof.Machine.execPlog h_ q_ p_ o_ d_ s
  | .klog h_ q_ p_ o_ d_ => Sys2Proof.Machine.execKlog h_ q_ p_ o_ d_ s
  | .vote h_ o_ p_ a_ => Sys2Proof.Machine.execVote h_ o_ p_ a_ s
  | .vshfl h_ c_ b_ a_ => Sys2Proof.Machine.execVshfl h_ c_ b_ a_ s
  | .vxorl h_ f_ b_ a_ => Sys2Proof.Machine.execVxorl h_ f_ b_ a_ s
  | .vrotl h_ f_ b_ a_ => Sys2Proof.Machine.execVrotl h_ f_ b_ a_ s
  | .vredu h_ f_ b_ a_ => Sys2Proof.Machine.execVredu h_ f_ b_ a_ s
  | .vscan h_ f_ b_ a_ => Sys2Proof.Machine.execVscan h_ f_ b_ a_ s
  | .vrd h_ i_ a_ => Sys2Proof.Machine.execVrd h_ i_ a_ s
  | .vld h_ z_ w_ b_ a_ => Sys2Proof.Machine.execVld h_ z_ w_ b_ a_ s
  | .vst h_ z_ w_ b_ a_ => Sys2Proof.Machine.execVst h_ z_ w_ b_ a_ s
  | .lds h_ z_ w_ b_ a_ => Sys2Proof.Machine.execLds h_ z_ w_ b_ a_ s
  | .sts h_ z_ w_ b_ a_ => Sys2Proof.Machine.execSts h_ z_ w_ b_ a_ s
  | .sld h_ f_ b_ a_ => Sys2Proof.Machine.execSld h_ f_ b_ a_ s
  | .sst h_ f_ b_ a_ => Sys2Proof.Machine.execSst h_ f_ b_ a_ s
  | .vatom h_ z_ w_ b_ a_ => Sys2Proof.Machine.execVatom h_ z_ w_ b_ a_ s
  | .vcas h_ z_ w_ b_ a_ => Sys2Proof.Machine.execVcas h_ z_ w_ b_ a_ s
  | .fence h_ k_ c_ => Sys2Proof.Machine.execFence h_ k_ c_ s
  | .lbind h_ c_ b_ a_ => Sys2Proof.Machine.execLbind h_ c_ b_ a_ s
  | .lacq h_ t_ c_ b_ => Sys2Proof.Machine.execLacq h_ t_ c_ b_ s
  | .lrel h_ c_ b_ => Sys2Proof.Machine.execLrel h_ c_ b_ s
  | .barInit h_ b_ a_ => Sys2Proof.Machine.execBarInit h_ b_ a_ s
  | .barArrive h_ b_ => Sys2Proof.Machine.execBarArrive h_ b_ s
  | .barExpin h_ b_ a_ => Sys2Proof.Machine.execBarExpin h_ b_ a_ s
  | .barExpout h_ b_ a_ => Sys2Proof.Machine.execBarExpout h_ b_ a_ s
  | .barWait h_ b_ a_ => Sys2Proof.Machine.execBarWait h_ b_ a_ s
  | .barTest h_ b_ a_ => Sys2Proof.Machine.execBarTest h_ b_ a_ s
  | .monArm h_ b_ => Sys2Proof.Machine.execMonArm h_ b_ s
  | .monWait h_ a_ => Sys2Proof.Machine.execMonWait h_ a_ s
  | .monClr h_ => Sys2Proof.Machine.execMonClr h_ s
  | .waitc h_ n_ k_ => Sys2Proof.Machine.execWaitc h_ n_ k_ s
  | .cpy h_ z_ d_ e_ b_ a_ => Sys2Proof.Machine.execCpy h_ z_ d_ e_ b_ a_ s
  | .bcpy h_ c_ b_ a_ => Sys2Proof.Machine.execBcpy h_ c_ b_ a_ s
  | .coilOpen h_ b_ c_ => Sys2Proof.Machine.execCoilOpen h_ b_ c_ s
  | .coilClose h_ c_ => Sys2Proof.Machine.execCoilClose h_ c_ s
  | .coilDrain h_ c_ => Sys2Proof.Machine.execCoilDrain h_ c_ s
  | .mig h_ b_ => Sys2Proof.Machine.execMig h_ b_ s
  | .tcfg h_ f_ b_ t_ => Sys2Proof.Machine.execTcfg h_ f_ b_ t_ s
  | .tld h_ c_ b_ t_ => Sys2Proof.Machine.execTld h_ c_ b_ t_ s
  | .tst h_ c_ b_ t_ => Sys2Proof.Machine.execTst h_ c_ b_ t_ s
  | .mma h_ c_ b_ r_ d_ => Sys2Proof.Machine.execMma h_ c_ b_ r_ d_ s
  | .talloc h_ b_ => Sys2Proof.Machine.execTalloc h_ b_ s
  | .tfree h_ b_ => Sys2Proof.Machine.execTfree h_ b_ s
  | .tzero h_ t_ => Sys2Proof.Machine.execTzero h_ t_ s
  | .trowget h_ t_ a_ => Sys2Proof.Machine.execTrowget h_ t_ a_ s
  | .trowset h_ t_ a_ => Sys2Proof.Machine.execTrowset h_ t_ a_ s
  | .sealTensor h_ b_ a_ => Sys2Proof.Machine.execSealTensor h_ b_ a_ s
  | .sealRefire h_ b_ a_ => Sys2Proof.Machine.execSealRefire h_ b_ a_ s
  | .sealFree h_ b_ => Sys2Proof.Machine.execSealFree h_ b_ s
  | .rfireGo h_ b_ => Sys2Proof.Machine.execRfireGo h_ b_ s
  | .rfireStat h_ b_ a_ => Sys2Proof.Machine.execRfireStat h_ b_ a_ s
  | .rfireAbort h_ b_ => Sys2Proof.Machine.execRfireAbort h_ b_ s
  | .nop h_ => Sys2Proof.Machine.execNop h_ s
  | .yield h_ => Sys2Proof.Machine.execYield h_ s
  | .ifence h_ => Sys2Proof.Machine.execIfence h_ s
  | .prog h_ i_ => Sys2Proof.Machine.execProg h_ i_ s
  | .bkpt h_ i_ => Sys2Proof.Machine.execBkpt h_ i_ s
  | .csum h_ i_ => Sys2Proof.Machine.execCsum h_ i_ s
  | .wsync h_ => Sys2Proof.Machine.execWsync h_ s
  | .stchk h_ i_ => Sys2Proof.Machine.execStchk h_ i_ s
  | .vmov16 b_ a_ => Sys2Proof.Machine.execVmov16 b_ a_ s
  | .vadd16 b_ a_ => Sys2Proof.Machine.execVadd16 b_ a_ s
  | .vsub16 b_ a_ => Sys2Proof.Machine.execVsub16 b_ a_ s
  | .vand16 b_ a_ => Sys2Proof.Machine.execVand16 b_ a_ s
  | .vor16 b_ a_ => Sys2Proof.Machine.execVor16 b_ a_ s
  | .vxor16 b_ a_ => Sys2Proof.Machine.execVxor16 b_ a_ s
  | .vshli16 n_ a_ => Sys2Proof.Machine.execVshli16 n_ a_ s
  | .vshri16 n_ a_ => Sys2Proof.Machine.execVshri16 n_ a_ s
  | .vfadd16 b_ a_ => Sys2Proof.Machine.execVfadd16 b_ a_ s
  | .vfmul16 b_ a_ => Sys2Proof.Machine.execVfmul16 b_ a_ s
  | .vaddi16 n_ a_ => Sys2Proof.Machine.execVaddi16 n_ a_ s
  | .vmovi16 n_ a_ => Sys2Proof.Machine.execVmovi16 n_ a_ s
  | .vldB3216 b_ a_ => Sys2Proof.Machine.execVldB3216 b_ a_ s
  | .vstB3216 b_ a_ => Sys2Proof.Machine.execVstB3216 b_ a_ s
  | .nop16 => Sys2Proof.Machine.execNop16 s
  | .yield16 => Sys2Proof.Machine.execYield16 s
  | .ret16 => Sys2Proof.Machine.execRet16 s
  | .exit16 => Sys2Proof.Machine.execExit16 s
  | .ifence16 => Sys2Proof.Machine.execIfence16 s
  | .jmpS i_ => Sys2Proof.Machine.execJmpS i_ s
  | .commandRead o_ q_ => Sys2Proof.Machine.execCommandRead o_ q_ s
  | .launch o_ q_ => Sys2Proof.Machine.execLaunch o_ q_ s
  | .signal o_ q_ => Sys2Proof.Machine.execSignal o_ q_ s
  | .wait o_ q_ => Sys2Proof.Machine.execWait o_ q_ s
  | .inval o_ q_ => Sys2Proof.Machine.execInval o_ q_ s
  | .replay o_ q_ => Sys2Proof.Machine.execReplay o_ q_ s
  | .fenceCommand o_ q_ => Sys2Proof.Machine.execFenceCommand o_ q_ s
  | .launchStart o_ q_ => Sys2Proof.Machine.execLaunchStart o_ q_ s
  | .launchStartEnd l_ => Sys2Proof.Machine.execLaunchStartEnd l_ s
  | .laterPlacementEnd l_ c_ => Sys2Proof.Machine.execLaterPlacementEnd l_ c_ s
  | .blockEndTimeEnd b_ => Sys2Proof.Machine.execBlockEndTimeEnd b_ s
  | .launchCompletion l_ => Sys2Proof.Machine.execLaunchCompletion l_ s
  | .launchCompletionEnd l_ => Sys2Proof.Machine.execLaunchCompletionEnd l_ s
  | .vfWriteTakeIn o_ => Sys2Proof.Machine.execVfWriteTakeIn o_ s
  | .queueRestart o_ q_ => Sys2Proof.Machine.execQueueRestart o_ q_ s
  | .circuitSetupElapsed e_ => Sys2Proof.Machine.execCircuitSetupElapsed e_ s
  | .saveRequestTakeIn o_ => Sys2Proof.Machine.execSaveRequestTakeIn o_ s
  | .preemptionHaltDone o_ => Sys2Proof.Machine.execPreemptionHaltDone o_ s
  | .worldSwitchEnd seat_ => Sys2Proof.Machine.execWorldSwitchEnd seat_ s
  | .imageDrained o_ => Sys2Proof.Machine.execImageDrained o_ s
  | .eventRingDoorbell o_ v_ => Sys2Proof.Machine.execEventRingDoorbell o_ v_ s
  | .dirtyLogEpoch o_ => Sys2Proof.Machine.execDirtyLogEpoch o_ s
  | .memoryWipeComplete o_ => Sys2Proof.Machine.execMemoryWipeComplete o_ s
  | .quantumBoundary seat_ => Sys2Proof.Machine.execQuantumBoundary seat_ s
  | .residencyStart seat_ => Sys2Proof.Machine.execResidencyStart seat_ s
  | .seatBoundary seat_ => Sys2Proof.Machine.execSeatBoundary seat_ s
  | .saggarTimeout b_ part_ stage_ pc_ => Sys2Proof.Machine.execSaggarTimeout b_ part_ stage_ pc_ s
  | .fragmentPriority grp_ f_ => Sys2Proof.Machine.execFragmentPriority grp_ f_ s
  | .branchResolution grp_ f_ => Sys2Proof.Machine.execBranchResolution grp_ f_ s
  | .resultWrite id_ => Sys2Proof.Machine.execResultWrite id_ s
  | .haltComplete o_ => Sys2Proof.Machine.execHaltComplete o_ s
  | .monWaitTimeout grp_ f_ => Sys2Proof.Machine.execMonWaitTimeout grp_ f_ s
  | .monitorWake grp_ code_ => Sys2Proof.Machine.execMonitorWake grp_ code_ s
  | .latchGrant acc_ => Sys2Proof.Machine.execLatchGrant acc_ s
  | .barrierWake grp_ f_ => Sys2Proof.Machine.execBarrierWake grp_ f_ s
  | .drainStep o_ => Sys2Proof.Machine.execDrainStep o_ s
  | .coreTlbLookup acc_ => Sys2Proof.Machine.execCoreTlbLookup acc_ s
  | .dieTlbLookup miss_ => Sys2Proof.Machine.execDieTlbLookup miss_ s
  | .walkStep w_ => Sys2Proof.Machine.execWalkStep w_ s
  | .walkReadReturn w_ => Sys2Proof.Machine.execWalkReadReturn w_ s
  | .walkInstall w_ => Sys2Proof.Machine.execWalkInstall w_ s
  | .lspAccess acc_ => Sys2Proof.Machine.execLspAccess acc_ s
  | .l2Access req_ => Sys2Proof.Machine.execL2Access req_ s
  | .l2FillArrival chan_ => Sys2Proof.Machine.execL2FillArrival chan_ s
  | .channelAccess die_ slice_ o_ => Sys2Proof.Machine.execChannelAccess die_ slice_ o_ s
  | .refresh die_ => Sys2Proof.Machine.execRefresh die_ s
  | .scrubStep die_ channel_ => Sys2Proof.Machine.execScrubStep die_ channel_ s
  | .pfMemoryAccess die_ channel_ => Sys2Proof.Machine.execPfMemoryAccess die_ channel_ s
  | .circuitMessageArrival msg_ => Sys2Proof.Machine.execCircuitMessageArrival msg_ s
  | .loadDataArrival req_ => Sys2Proof.Machine.execLoadDataArrival req_ s
  | .cpyLineRead op_ => Sys2Proof.Machine.execCpyLineRead op_ s
  | .bcpyLineRead op_ => Sys2Proof.Machine.execBcpyLineRead op_ s
  | .engineWritePresent op_ => Sys2Proof.Machine.execEngineWritePresent op_ s
  | .tileTransferStart op_ => Sys2Proof.Machine.execTileTransferStart op_ s
  | .tldDataArrival op_ => Sys2Proof.Machine.execTldDataArrival op_ s
  | .tldRetire op_ => Sys2Proof.Machine.execTldRetire op_ s
  | .mmaPosition op_ => Sys2Proof.Machine.execMmaPosition op_ s
  | .tfreeWipe b_ part_ => Sys2Proof.Machine.execTfreeWipe b_ part_ s
  | .refireRunStart run_ => Sys2Proof.Machine.execRefireRunStart run_ s
  | .refireStep run_ => Sys2Proof.Machine.execRefireStep run_ s
  | .coilDrainComplete op_ => Sys2Proof.Machine.execCoilDrainComplete op_ s
  | .landingRequestArrival mig_ => Sys2Proof.Machine.execLandingRequestArrival mig_ s
  | .landingGrantArrival mig_ => Sys2Proof.Machine.execLandingGrantArrival mig_ s
  | .migrationStateArrival mig_ => Sys2Proof.Machine.execMigrationStateArrival mig_ s
  | .landingInstall mig_ => Sys2Proof.Machine.execLandingInstall mig_ s
  | .invalRemoval inv_ die_ => Sys2Proof.Machine.execInvalRemoval inv_ die_ s
  | .invalComplete inv_ => Sys2Proof.Machine.execInvalComplete inv_ s
  | .fullWipeComplete => Sys2Proof.Machine.execFullWipeComplete s
  | .eventRecordSlot o_ => Sys2Proof.Machine.execEventRecordSlot o_ s
  | .notify o_ q_ v_ => Sys2Proof.Machine.execNotify o_ q_ v_ s
  | .registerWrite fn_ off_ v_ => Sys2Proof.Machine.execRegisterWrite fn_ off_ v_ s
  | .partitionEntryWrite o_ off_ v_ => Sys2Proof.Machine.execPartitionEntryWrite o_ off_ v_ s
  | .seatWordWrite o_ v_ => Sys2Proof.Machine.execSeatWordWrite o_ v_ s
  | .ownctlRun o_ => Sys2Proof.Machine.execOwnctlRun o_ s
  | .ownctlUnlock o_ => Sys2Proof.Machine.execOwnctlUnlock o_ s
  | .stage2Invalidation o_ v_ => Sys2Proof.Machine.execStage2Invalidation o_ v_ s
  | .connectionTableWrite e_ v_ => Sys2Proof.Machine.execConnectionTableWrite e_ v_ s
  | .slotTableWrite t_ half_ v_ => Sys2Proof.Machine.execSlotTableWrite t_ half_ v_ s
  | .contextSave o_ => Sys2Proof.Machine.execContextSave o_ s
  | .contextRestore o_ verdict_ => Sys2Proof.Machine.execContextRestore o_ verdict_ s
  | .lifecycleToBlank signed_ serial_ => Sys2Proof.Machine.execLifecycleToBlank signed_ serial_ s
  | .lifecycleToProvisioned signed_ serial_ => Sys2Proof.Machine.execLifecycleToProvisioned signed_ serial_ s
  | .lifecycleToDeployed signed_ serial_ => Sys2Proof.Machine.execLifecycleToDeployed signed_ serial_ s
  | .lifecycleToRma signed_ serial_ => Sys2Proof.Machine.execLifecycleToRma signed_ serial_ s
  | .pwrlimWrite v_ => Sys2Proof.Machine.execPwrlimWrite v_ s
  | .getTdispVersion o_ => Sys2Proof.Machine.execGetTdispVersion o_ s
  | .getTdispCapabilities o_ => Sys2Proof.Machine.execGetTdispCapabilities o_ s
  | .lockInterfaceRequest o_ => Sys2Proof.Machine.execLockInterfaceRequest o_ s
  | .getDeviceInterfaceReport o_ => Sys2Proof.Machine.execGetDeviceInterfaceReport o_ s
  | .getDeviceInterfaceState o_ => Sys2Proof.Machine.execGetDeviceInterfaceState o_ s
  | .startInterfaceRequest o_ => Sys2Proof.Machine.execStartInterfaceRequest o_ s
  | .stopInterfaceRequest o_ => Sys2Proof.Machine.execStopInterfaceRequest o_ s
  | .spdmMessage code_ => Sys2Proof.Machine.execSpdmMessage code_ s
  | .debugToken signed_ serial_ owners_ expiry_ => Sys2Proof.Machine.execDebugToken signed_ serial_ owners_ expiry_ s
  | .hold o_ die_ core_ slot_ => Sys2Proof.Machine.execHold o_ die_ core_ slot_ s
  | .release o_ die_ core_ slot_ => Sys2Proof.Machine.execRelease o_ die_ core_ slot_ s
  | .step o_ die_ core_ slot_ lane_ => Sys2Proof.Machine.execStep o_ die_ core_ slot_ lane_ s
  | .bpset o_ core_ n_ addr_ lanes_ enable_ => Sys2Proof.Machine.execBpset o_ core_ n_ addr_ lanes_ enable_ s
  | .read o_ structure__ index_ => Sys2Proof.Machine.execRead o_ structure__ index_ s
  | .freeze => Sys2Proof.Machine.execFreeze s
  | .thaw => Sys2Proof.Machine.execThaw s
  | .frzNLow => Sys2Proof.Machine.execFrzNLow s
  | .frzNHigh => Sys2Proof.Machine.execFrzNHigh s
  | .reset firmwareOk_ => Sys2Proof.Machine.execReset firmwareOk_ s
  | .vfFlr o_ => Sys2Proof.Machine.execVfFlr o_ s
  | .pfFlr => Sys2Proof.Machine.execPfFlr s
  | .thermalThrottle => Sys2Proof.Machine.execThermalThrottle s
  | .thermalRecover => Sys2Proof.Machine.execThermalRecover s
  | .thermalShutdown => Sys2Proof.Machine.execThermalShutdown s
  | .clockStep up_ exceeds_ => Sys2Proof.Machine.execClockStep up_ exceeds_ s
  | .peerLinkUp port_ dies_ => Sys2Proof.Machine.execPeerLinkUp port_ dies_ s
  | .peerLinkDown port_ => Sys2Proof.Machine.execPeerLinkDown port_ s
  | .hostMemoryRequest o_ write_ gpa_ bytes_ data_ relaxed_ ide_ => Sys2Proof.Machine.execHostMemoryRequest o_ write_ gpa_ bytes_ data_ relaxed_ ide_ s
  | .peerRequest port_ lane_ write_ gpa_ bytes_ data_ => Sys2Proof.Machine.execPeerRequest port_ lane_ write_ gpa_ bytes_ data_ s
  | .externalReply id_ ok_ data_ => Sys2Proof.Machine.execExternalReply id_ ok_ data_ s
  | .softError where__ key_ index_ symbols_ => Sys2Proof.Machine.execSoftError where__ key_ index_ symbols_ s
  | .pfMemoryRequest die_ channel_ unit_ write_ data_ => Sys2Proof.Machine.execPfMemoryRequest die_ channel_ unit_ write_ data_ s

end Sys2Proof.Machine
end

