-- ==== Sys2Proof/Machine/Step.lean ====
section
/-! DEFINITION. The step, and the placing of one instruction where the next step fetches. -/

namespace Sys2Proof.Machine

/-- One step: the event or instruction that comes next, or the passing of a clock. -/
def step (s : State) : Host.Outcome State Fault Refusal :=
  match front s with
  | .run i s' => exec i s'
  | .done s' => .next s'
  | .off => .fault .poweredOff

/-- The group that stands at the placed code. (DEDUCED, log entry 8) -/
def placedGroup (s : State) : Group :=
  { (default : Group) with
    owner := 0, launch := 1, block := 1, budget := 64, scount := 160, live := true
    tid := (List.range 32).map (fun l => (l, l))
    frags := [{ (default : Frag) with mask := BitVec.allOnes 32, pc := 0x400000, since := turnOf s.clock }] }

/-- The state with an instruction of `nbits` bits stored at physical address 0x40_0000 of die 0, and owner 0 resident
and running one group that stands at it, with its translation in the core TLB: the load of a program by a launch. (DEDUCED, log entry 8) -/
def State.withFetchWord (s : State) (nbits w : Nat) : State :=
  let s := { s with
    powered := true, frozen := false, pinLow := false, pfx := none, claims := [], started := (0, 0), l0 := [], groups := [(0, placedGroup s)]
    agenda := s.agenda.filter (fun e => s.clock < e.1)
    owners := mmod s.owners 0 (fun o => { o with
      running := true, resident := true, since := s.clock, drain := none, discarding := false, saved := false, saving := false
      halting := false, haltOver := false, l1ways := BitVec.allOnes 20, l2ways := BitVec.allOnes 32, ctlb := BitVec.allOnes 32, dtlb := BitVec.allOnes 32 })
    positions := (List.range 159).map (fun i => (i, 0))
    launches := mset s.launches 1 { (default : Launch) with
      entry := 0x400000, gx := 1, gy := 1, gz := 1, clusterSize := 1, threads := [32, 0, 0, 0], budgets := [64, 0, 0, 0]
      scount := 160, diemask := 1, nextCluster := 1, blocksLeft := 1, cones := [], trial := [] }
    blocks := mset s.blocks 1 { (default : Block) with launch := 1, begun := true, slots := [(0, 0, 0)], spadSize := 65536 }
    coreTlb := [⟨0, 0, false, ⟨0x400000, 0x400000, 0x400000, 65536, true, true, false, false, false⟩, 0, 0, 0, false⟩]
    l2 := s.l2.filter (fun l => l.line != 0x8000)
    sealedUnits := mdel s.sealedUnits 0x10000
    mem := memPut s.mem 0x400000 (bytesOf 8 (w % 2 ^ nbits)) }
  pfSet (pfSet s (entryOff 0 0x08) 0x10002) (entryOff 0 0x48) 0x10

end Sys2Proof.Machine
end

