-- ==== Sys2Proof/Safety.lean ====
section
/-! DEFINITION. The terms in which claims about a step are made: when an instruction issues, what it sends to its
registers, and what it leaves alone. -/

namespace Sys2Proof.Machine

/-- The instruction at the cursor passes every check of issue (R211, R173, R175, R176, R368, R35, R54), and its guard
lets it act (R203). -/
def Issues (i : Instr) (h : Hdr) (s : State) : Prop := gate i h s (ctx s) = .go ∧ acts i h (ctx s) = true

/-- Its group is not being single-stepped; R330's trap would follow the instruction. -/
def Unstepped (s : State) : Prop := (group s s.cur.g).dbgctl.getLsbD 1 = false

/-- The threads a per-thread instruction acts for, or the active ones (R203, R240). -/
def acting (i : Instr) (h : Hdr) (s : State) : Ctx := guarded (shapeOf i).kind h (ctx s)

/-- Between `s` and `t` the instruction at the cursor has sent these register writes and lanes' flags, to land in a
turn (R172, R175); in a speculation window they stand in its shadow buffer (R182). -/
def Sent (s t : State) (turn : Nat) (ws : List RegWrite) (fl : List (Nat × BitVec 5)) (held : Bool) : Prop :=
  let c := ctx s
  if c.window then
    (group t c.k).window = (group s c.k).window.map (fun w => { w with
      shadow := w.shadow ++ (if ws.isEmpty ∧ fl.isEmpty then [] else [⟨w.pcs.length, turn, held, ws, fl⟩])
      pcs := w.pcs ++ [c.pc], next := c.next })
  else (ws = [] ∧ fl = []) ∨
    (mfind t.results s.nextId = some ⟨c.k, turn, ws, allFlags fl, held, c.f.id⟩ ∧
      (turn * 8, Instr.resultWrite s.nextId) ∈ t.agenda)

/-- The group's bookkeeping of fragments and turns aside, two groups are the same: every register, counter and link. -/
def SameGroup (g g' : Group) : Prop :=
  g' = { g with
    frags := g'.frags, running := g'.running, stack := g'.stack, reuse := g'.reuse, window := g'.window, loop := g'.loop
    nextTurn := g'.nextTurn, lastStart := g'.lastStart, skid := g'.skid }

/-- From `s` to `t` nothing has changed but one group's bookkeeping, results on their way, and the queues of blocks (which
a statement gives apart) with the errors in their entries: memory, caches, translations, every register of every group, every other owner's state and every
event already due stand as before. -/
structure Keeps (k : Nat) (s t : State) : Prop where
  rest : t = { s with
    groups := t.groups, blocks := t.blocks, results := t.results, agenda := t.agenda, nextId := t.nextId
    freeCtr := t.freeCtr, pfx := t.pfx, badRegs := t.badRegs }
  others : ∀ j, j ≠ k → mfind t.groups j = mfind s.groups j
  own : SameGroup (group s k) (group t k)
  results : ∀ id, id < s.nextId → mfind t.results id = mfind s.results id
  agenda : ∀ e, e ∈ s.agenda → e ∈ t.agenda
  ids : s.nextId ≤ t.nextId
  bad : ∀ e, e.2 < 2 ^ 20 → (e ∈ t.badRegs ↔ e ∈ s.badRegs)

/-- The frame of an instruction that changes registers only, through results. -/
def RegisterFrame (s t : State) : Prop := Keeps s.cur.g s t ∧ t.pfx = none

end Sys2Proof.Machine
end

