-- ==== Sys2Proof/Certificates/Slice0/Obligations.lean ====
section
/-! DEFINITION. The statements: what each instruction and each event of the machine does, and what it leaves. -/

open Sys2Proof Sys2Proof.Machine

namespace Sys2Proof.Claims

/-! Shapes of results. In each, `t` is the state the instruction gives; `Sent` says what is on its way to the registers,
`RegisterFrame` that nothing else has changed, and the equation of `blocks` what its queue operands did. -/

/-- A scalar instruction of two sources, read in the order B, C (R231). -/
def scalarThree (mk : Hdr → BitVec 6 → BitVec 6 → BitVec 6 → Instr) (lat : Nat) (held : Bool)
    (f : BitVec 64 → BitVec 64 → BitVec 64) : Prop :=
  ∀ (h : Hdr) (q b a : BitVec 6) (s : State), Issues (mk h q b a) h s → Unstepped s →
    let c := acting (mk h q b a) h s
    let y := takeScalar s c (numN c.x.hb b.toNat)
    let z := takeScalar y.2 c (numN c.x.hc q.toNat)
    let w := giveScalar z.2 c (numN c.x.ha a.toNat) (f y.1 z.1)
    ∃ t, exec (mk h q b a) s = .next t ∧
      Sent s t (s.cur.turn + lat) w.1 [] (held || namesQueue (mk h q b a) c.x) ∧ t.blocks = w.2.blocks ∧ RegisterFrame s t

/-- A scalar division: its result lands at turn n + 9, a queue entry in place of a register too (R233). -/
def scalarDivision (mk : Hdr → BitVec 6 → BitVec 6 → BitVec 6 → Instr) (f : BitVec 64 → BitVec 64 → BitVec 64) : Prop :=
  ∀ (h : Hdr) (q b a : BitVec 6) (s : State), Issues (mk h q b a) h s → Unstepped s →
    let c := acting (mk h q b a) h s
    let y := takeScalar s c (numN c.x.hb b.toNat)
    let z := takeScalar y.2 c (numN c.x.hc q.toNat)
    let n := numN c.x.ha a.toNat
    let x := f y.1 z.1
    ∃ t, exec (mk h q b a) s = .next t ∧
      Sent s t (s.cur.turn + 9) [if isQueue n then .q c.g.block (n - 56) x else .s (sregOf n) x] [] true ∧
      t.blocks = z.2.blocks ∧ RegisterFrame s t

/-- A scalar instruction of one source. -/
def scalarTwo (mk : Hdr → BitVec 6 → BitVec 6 → Instr) (f : Ctx → BitVec 64 → BitVec 64) : Prop :=
  ∀ (h : Hdr) (b a : BitVec 6) (s : State), Issues (mk h b a) h s → Unstepped s →
    let c := acting (mk h b a) h s
    let y := takeScalar s c (numN c.x.hb b.toNat)
    let w := giveScalar y.2 c (numN c.x.ha a.toNat) (f c y.1)
    ∃ t, exec (mk h b a) s = .next t ∧
      Sent s t (s.cur.turn + 1) w.1 [] (namesQueue (mk h b a) c.x) ∧ t.blocks = w.2.blocks ∧ RegisterFrame s t

/-- A per-thread instruction: each participating thread's writes, landing at turn n + `lat`, and no flag. -/
def threadWrites (i : Instr) (h : Hdr) (lat : Nat) (f : Ctx → Nat → List RegWrite) : Prop :=
  ∀ s : State, Issues i h s → Unstepped s →
    let c := acting i h s
    ∃ t, exec i s = .next t ∧ Sent s t (s.cur.turn + lat) ((lanesOf c.lanes).flatMap (f c)) [] false ∧
      t.blocks = s.blocks ∧ RegisterFrame s t

/-- A per-thread instruction whose threads also set flags (R190). -/
def threadFlags (i : Instr) (h : Hdr) (lat : Nat) (held : Bool) (f : Ctx → Nat → List RegWrite × BitVec 5) : Prop :=
  ∀ s : State, Issues i h s → Unstepped s →
    let c := acting i h s
    ∃ t, exec i s = .next t ∧
      Sent s t (s.cur.turn + lat) ((lanesOf c.lanes).flatMap (fun l => (f c l).1))
        (((lanesOf c.lanes).map (fun l => (l, (f c l).2))).filter (fun e => e.2 != 0)) held ∧
      t.blocks = s.blocks ∧ RegisterFrame s t

/-- vA := f(vB, vC). -/
def vectorThree (mk : Hdr → BitVec 6 → BitVec 6 → BitVec 6 → Instr) (lat : Nat) (f : BitVec 32 → BitVec 32 → BitVec 32) : Prop :=
  ∀ (h : Hdr) (q b a : BitVec 6),
    threadWrites (mk h q b a) h lat (fun c l => [.v a.toNat l (f (rv c.g b.toNat l) (rv c.g q.toNat l))])

/-- vA := f(vA, vB, vC). -/
def vectorAcc3 (mk : Hdr → BitVec 6 → BitVec 6 → BitVec 6 → Instr) (lat : Nat)
    (f : BitVec 32 → BitVec 32 → BitVec 32 → BitVec 32) : Prop :=
  ∀ (h : Hdr) (q b a : BitVec 6), threadWrites (mk h q b a) h lat
    (fun c l => [.v a.toNat l (f (rv c.g a.toNat l) (rv c.g b.toNat l) (rv c.g q.toNat l))])

/-- Pairs (vA+1:vA) := f of pairs. -/
def vectorPair (mk : Hdr → BitVec 6 → BitVec 6 → BitVec 6 → Instr) (lat : Nat) (f : Ctx → Nat → BitVec 6 → BitVec 6 → BitVec 6 → BitVec 64) : Prop :=
  ∀ (h : Hdr) (q b a : BitVec 6), threadWrites (mk h q b a) h lat
    (fun c l => [.v a.toNat l ((f c l q b a).extractLsb' 0 32), .v (a.toNat + 1) l ((f c l q b a).extractLsb' 32 32)])

/-- vA := f(vB), with what the prefix gives. -/
def vectorTwo (mk : Hdr → BitVec 6 → BitVec 6 → Instr) (f : Ctx → BitVec 32 → BitVec 32) : Prop :=
  ∀ (h : Hdr) (b a : BitVec 6), threadWrites (mk h b a) h 1 (fun c l => [.v a.toNat l (f c (rv c.g b.toNat l))])

/-- A 16-bit instruction vA := f(vA, vB). -/
def shortTwo (mk : BitVec 5 → BitVec 6 → Instr) (f : BitVec 32 → BitVec 32 → BitVec 32) : Prop :=
  ∀ (b : BitVec 5) (a : BitVec 6), threadWrites (mk b a) (shortHdr 0) 1
    (fun c l => [.v a.toNat l (f (rv c.g a.toNat l) (rv c.g b.toNat l))])

/-- A 16-bit instruction vA := f(vA, B) with an immediate in B. -/
def shortImm (mk : BitVec 5 → BitVec 6 → Instr) (f : BitVec 32 → BitVec 5 → BitVec 32) : Prop :=
  ∀ (n : BitVec 5) (a : BitVec 6), threadWrites (mk n a) (shortHdr 0) 1 (fun c l => [.v a.toNat l (f (rv c.g a.toNat l) n)])

/-- An immediate of 6 bits, 18 under the prefix, and one of 12 bits, 24 under it, signed and unsigned (R207). -/
def signed6 (n : Nat) (c : Ctx) (f : BitVec 6) : BitVec n := if c.prefixed then (c.x.x ++ f).signExtend n else f.signExtend n
def signed12 (n : Nat) (c : Ctx) (i : BitVec 12) : BitVec n := if c.prefixed then (c.x.x ++ i).signExtend n else i.signExtend n
def inserted (n : Nat) (c : Ctx) (i : BitVec 12) (x : BitVec n) : BitVec n :=
  if c.prefixed then x <<< 24 ||| (c.x.x ++ i).setWidth n else x <<< 12 ||| i.setWidth n

/-- The conditions of R234. -/
def holds {n : Nat} (code : BitVec 3) (x y : BitVec n) : Bool :=
  if code = 0 then decide (x = y) else if code = 1 then decide (x ≠ y) else if code = 2 then x.slt y else if code = 3 then x.sle y
  else if code = 4 then x.ult y else if code = 5 then x.ule y else decide (code = 6)

/-- A word's two halfwords, the low one first. -/
def laid (w : BitVec 32) : List (BitVec 16) := [w.extractLsb' 0 16, w.extractLsb' 16 16]

/-- A row of Format A: C, B, A, the major opcode, G, Y, S and the length bit, from bit 31 down (R200, R201). -/
def formA (maj : BitVec 7) (mk : Hdr → BitVec 6 → BitVec 6 → BitVec 6 → Instr) : Prop :=
  ∀ (h : Hdr) (q b a : BitVec 6), encode (mk h q b a) = laid (q ++ b ++ a ++ maj ++ h.g ++ h.y ++ h.s ++ 1#1)

/-- A row of Format C: I12, A, the major opcode and the header. -/
def formC (maj : BitVec 7) (mk : Hdr → BitVec 12 → BitVec 6 → Instr) : Prop :=
  ∀ (h : Hdr) (i : BitVec 12) (a : BitVec 6), encode (mk h i a) = laid (i ++ a ++ maj ++ h.g ++ h.y ++ h.s ++ 1#1)

/-- FP32, FP64 and packed-half results of a thread, with their flags. -/
def single (a : BitVec 6) (l : Nat) (r : FpRes) : List RegWrite × BitVec 5 := ([.v a.toNat l (BitVec.ofNat 32 r.bits)], r.flags)
def double (a : BitVec 6) (l : Nat) (r : FpRes) : List RegWrite × BitVec 5 :=
  ([.v a.toNat l ((BitVec.ofNat 64 r.bits).extractLsb' 0 32), .v (a.toNat + 1) l ((BitVec.ofNat 64 r.bits).extractLsb' 32 32)], r.flags)

end Sys2Proof.Claims

open Sys2Proof.Claims

/-- R232: the scalar operations of three registers, each with its major opcode; and those of R233, where division by zero gives
all ones and the result lands at turn n + 9. -/
def Obligations.ScalarTwoSourceResults : Prop :=
  let row (maj : BitVec 7) (mk : Hdr → BitVec 6 → BitVec 6 → BitVec 6 → Instr) (f : BitVec 64 → BitVec 64 → BitVec 64) : Prop :=
    formA maj mk ∧ scalarThree mk 1 false f
  row 0x0B .sadd (fun x y => x + y) ∧
  row 0x0C .ssub (fun x y => x - y) ∧
  row 0x0D .smul (fun x y => x * y) ∧
  row 0x0E .smulhI (fun x y => BitVec.ofInt 64 (x.toInt * y.toInt / 2 ^ 64)) ∧
  row 0x0F .smulhN (fun x y => BitVec.ofNat 64 (x.toNat * y.toNat / 2 ^ 64)) ∧
  row 0x12 .sand (fun x y => x &&& y) ∧
  row 0x13 .sor (fun x y => x ||| y) ∧
  row 0x14 .sxor (fun x y => x ^^^ y) ∧
  row 0x15 .sshl (fun x y => if 64 ≤ y.toNat then 0 else x <<< y.toNat) ∧
  row 0x16 .sshr (fun x y => if 64 ≤ y.toNat then 0 else x >>> y.toNat) ∧
  row 0x17 .ssra (fun x y => if 64 ≤ y.toNat then (if x.msb then BitVec.allOnes 64 else 0) else x.sshiftRight y.toNat) ∧
  row 0x18 .sminI (fun x y => if y.slt x then y else x) ∧
  row 0x19 .smaxI (fun x y => if x.slt y then y else x) ∧
  row 0x1A .sminN (fun x y => if y.ult x then y else x) ∧
  row 0x1B .smaxN (fun x y => if x.ult y then y else x) ∧
  formA 0x10 .sdivN ∧ scalarDivision .sdivN (fun x y => if y = 0 then BitVec.allOnes 64 else x / y) ∧
  formA 0x11 .sremN ∧ scalarDivision .sremN (fun x y => if y = 0 then BitVec.allOnes 64 else x % y)

/-- R234 to R236: immediates, one source and compares; `klog` (R259). -/
def Obligations.ScalarOneSourceResults : Prop :=
  (∀ f, scalarTwo (fun h b a => .saddi h f b a) (fun c y => y + signed6 64 c f)) ∧
  (∀ f, scalarTwo (fun h b a => .sshli h f b a) (fun _ y => y <<< f.toNat)) ∧
  (∀ f, scalarTwo (fun h b a => .sshri h f b a) (fun _ y => y >>> f.toNat)) ∧
  scalarTwo .smov (fun _ y => y) ∧
  (∀ f, scalarTwo (fun h b a => .sunary h f b a) (fun _ y => scalarUnary f.toNat y)) ∧
  (∀ (h : Hdr) (q b : BitVec 6) (n k : BitVec 3) (s : State), Issues (.scmp h q b n k) h s → Unstepped s →
    let c := acting (.scmp h q b n k) h s
    let y := takeScalar s c (numN c.x.hb b.toNat)
    let z := takeScalar y.2 c (numN c.x.hc q.toNat)
    ∃ t, exec (.scmp h q b n k) s = .next t ∧
      Sent s t (s.cur.turn + 1) [.k k.toNat (holds n y.1 z.1)] [] (namesQueue (.scmp h q b n k) c.x) ∧
      t.blocks = z.2.blocks ∧ RegisterFrame s t) ∧
  (∀ (h : Hdr) (q p o d : BitVec 3) (s : State), Issues (.klog h q p o d) h s → Unstepped s →
    let c := acting (.klog h q p o d) h s
    ∃ t, exec (.klog h q p o d) s = .next t ∧
      Sent s t (s.cur.turn + 1) [.k d.toNat (logic o.toNat (rk c.g p.toNat) (rk c.g q.toNat))] [] false ∧
      t.blocks = s.blocks ∧ RegisterFrame s t)

/-- R237: a constant is written, or shifted in below a register's bits; a prefix makes its 12 bits 24. -/
def Obligations.ScalarConstants : Prop :=
  formC 0x1D .smovi ∧ formC 0x1E .sins ∧
  (∀ (h : Hdr) (i : BitVec 12) (a : BitVec 6) (s : State), Issues (.smovi h i a) h s → Unstepped s →
    let c := acting (.smovi h i a) h s
    let w := giveScalar s c (numN c.x.ha a.toNat)
      (if s.pfx.isSome then ((s.pfx.getD default).x ++ i).signExtend 64 else i.signExtend 64)
    ∃ t, exec (.smovi h i a) s = .next t ∧ Sent s t (s.cur.turn + 1) w.1 [] (namesQueue (.smovi h i a) c.x) ∧
      t.blocks = w.2.blocks ∧ RegisterFrame s t) ∧
  (∀ (h : Hdr) (i : BitVec 12) (a : BitVec 6) (s : State), Issues (.sins h i a) h s → Unstepped s →
    let c := acting (.sins h i a) h s
    let y := takeScalar s c (numN c.x.ha a.toNat)
    let w := giveScalar y.2 c (numN c.x.ha a.toNat)
      (if s.pfx.isSome then (y.1 <<< 24) ||| ((s.pfx.getD default).x ++ i).setWidth 64 else (y.1 <<< 12) ||| i.setWidth 64)
    ∃ t, exec (.sins h i a) s = .next t ∧ Sent s t (s.cur.turn + 1) w.1 [] (namesQueue (.sins h i a) c.x) ∧
      t.blocks = w.2.blocks ∧ RegisterFrame s t)

/-- R241: the integer operations of three vector registers, each with its major opcode and latency. -/
def Obligations.VectorThreeRegisterResults : Prop :=
  let row (maj : BitVec 7) (mk : Hdr → BitVec 6 → BitVec 6 → BitVec 6 → Instr) (lat : Nat) (f : BitVec 32 → BitVec 32 → BitVec 32) : Prop :=
    formA maj mk ∧ vectorThree mk lat f
  row 0x27 .vadd 1 (fun x y => x + y) ∧
  row 0x28 .vsub 1 (fun x y => x - y) ∧
  row 0x29 .vmul 1 (fun x y => x * y) ∧
  row 0x2A .vmulhI 2 (fun x y => BitVec.ofInt 32 (x.toInt * y.toInt / 2 ^ 32)) ∧
  row 0x2B .vmulhN 2 (fun x y => BitVec.ofNat 32 (x.toNat * y.toNat / 2 ^ 32)) ∧
  row 0x2D .vand 1 (fun x y => x &&& y) ∧
  row 0x2E .vor 1 (fun x y => x ||| y) ∧
  row 0x2F .vxor 1 (fun x y => x ^^^ y) ∧
  row 0x30 .vshl 1 (fun x y => if 32 ≤ y.toNat then 0 else x <<< y.toNat) ∧
  row 0x31 .vshr 1 (fun x y => if 32 ≤ y.toNat then 0 else x >>> y.toNat) ∧
  row 0x32 .vsra 1 (fun x y => if 32 ≤ y.toNat then (if x.msb then BitVec.allOnes 32 else 0) else x.sshiftRight y.toNat) ∧
  row 0x33 .vminI 1 (fun x y => if y.slt x then y else x) ∧
  row 0x34 .vmaxI 1 (fun x y => if x.slt y then y else x) ∧
  row 0x35 .vminN 1 (fun x y => if y.ult x then y else x) ∧
  row 0x36 .vmaxN 1 (fun x y => if x.ult y then y else x) ∧
  formA 0x2C .vmad ∧ vectorAcc3 .vmad 1 (fun x y z => x + y * z)

/-- R242 to R249: pairs, dot products, immediates, broadcast, compare and select. -/
def Obligations.VectorOtherIntegerResults : Prop :=
  vectorPair .vaddI64 1 (fun c l q b _ => rv64 c.g b.toNat l + rv64 c.g q.toNat l) ∧
  vectorPair .vsubI64 1 (fun c l q b _ => rv64 c.g b.toNat l - rv64 c.g q.toNat l) ∧
  vectorPair .vmadwN 2 (fun c l q b a =>
    rv64 c.g a.toNat l + (rv c.g b.toNat l).setWidth 64 * (rv c.g q.toNat l).setWidth 64) ∧
  vectorAcc3 .vdot4I8 2 (fun x y z => x + BitVec.ofInt 32 (((List.range 4).map (fun j =>
    (y.extractLsb' (8 * j) 8).toInt * (z.extractLsb' (8 * j) 8).toInt)).sum)) ∧
  vectorAcc3 .vdot8I4 2 (fun x y z => x + BitVec.ofInt 32 (((List.range 8).map (fun j =>
    (y.extractLsb' (4 * j) 4).toInt * (z.extractLsb' (4 * j) 4).toInt)).sum)) ∧
  (∀ f, vectorTwo (fun h b a => .vaddi h f b a) (fun c x => x + signed6 32 c f)) ∧
  (∀ f, vectorTwo (fun h b a => .vshli h f b a) (fun _ x => x <<< f.toNat)) ∧
  (∀ f, vectorTwo (fun h b a => .vshri h f b a) (fun _ x => x >>> f.toNat)) ∧
  (∀ f, vectorTwo (fun h b a => .vsrai h f b a) (fun _ x => x.sshiftRight f.toNat)) ∧
  (∀ f, vectorTwo (fun h b a => .vunary h f b a) (fun _ x => vectorUnary f.toNat x)) ∧
  (∀ (h : Hdr) (i : BitVec 12) (a : BitVec 6), threadWrites (.vmovi h i a) h 1 (fun c l => [.v a.toNat l (signed12 32 c i)])) ∧
  (∀ (h : Hdr) (i : BitVec 12) (a : BitVec 6),
    threadWrites (.vins h i a) h 1 (fun c l => [.v a.toNat l (inserted 32 c i (rv c.g a.toNat l))])) ∧
  (∀ (h : Hdr) (q b : BitVec 6) (n p : BitVec 3), threadWrites (.vcmp h q b n p) h 1
    (fun c l => [.p p.toNat l (holds n (rv c.g b.toNat l) (rv c.g q.toNat l))])) ∧
  (∀ (h : Hdr) (q b a : BitVec 6), threadWrites (.vsel h q b a) h 1
    (fun c l => [.v a.toNat l (if rp c.g h.g.toNat l then rv c.g b.toNat l else rv c.g q.toNat l)])) ∧
  (∀ (h : Hdr) (f b a : BitVec 6) (s : State), Issues (.vbcst h f b a) h s → Unstepped s →
    let c := acting (.vbcst h f b a) h s
    let y := takeScalar s c (numN c.x.hb b.toNat)
    ∃ t, exec (.vbcst h f b a) s = .next t ∧
      Sent s t (s.cur.turn + 1) ((lanesOf c.lanes).flatMap (fun l => if f = 1
        then [.v a.toNat l (y.1.extractLsb' 0 32), .v (a.toNat + 1) l (y.1.extractLsb' 32 32)]
        else [.v a.toNat l (y.1.setWidth 32)])) [] (namesQueue (.vbcst h f b a) c.x) ∧
      t.blocks = y.2.blocks ∧ RegisterFrame s t)

/-- R209: the 16-bit arithmetic. -/
def Obligations.ShortArithmeticResults : Prop :=
  shortTwo .vmov16 (fun _ y => y) ∧ shortTwo .vadd16 (fun x y => x + y) ∧ shortTwo .vsub16 (fun x y => x - y) ∧
  shortTwo .vand16 (fun x y => x &&& y) ∧ shortTwo .vor16 (fun x y => x ||| y) ∧ shortTwo .vxor16 (fun x y => x ^^^ y) ∧
  shortImm .vshli16 (fun x n => x <<< n.toNat) ∧ shortImm .vshri16 (fun x n => x >>> n.toNat) ∧
  shortImm .vaddi16 (fun x n => x + n.signExtend 32) ∧ shortImm .vmovi16 (fun _ n => n.signExtend 32) ∧
  (∀ (b : BitVec 5) (a : BitVec 6), threadFlags (.vfadd16 b a) (shortHdr 0) 1 false (fun c l =>
    single a l (fAdd fp32 (roundMode c) (rv c.g a.toNat l).toNat (rv c.g b.toNat l).toNat))) ∧
  (∀ (b : BitVec 5) (a : BitVec 6), threadFlags (.vfmul16 b a) (shortHdr 0) 1 false (fun c l =>
    single a l (fMul fp32 (roundMode c) (rv c.g a.toNat l).toNat (rv c.g b.toNat l).toNat)))

/-- R250 and R255: FP32 and FP64 arithmetic, each rounded once by `%fmode`, and division. -/
def Obligations.FloatArithmeticResults : Prop :=
  let s3 (mk : Hdr → BitVec 6 → BitVec 6 → BitVec 6 → Instr) (lat : Nat) (held : Bool) (f : Nat → Nat → Nat → FpRes) : Prop :=
    ∀ h q b a, threadFlags (mk h q b a) h lat held (fun c l =>
      single a l (f (roundMode c) (rv c.g b.toNat l).toNat (rv c.g q.toNat l).toNat))
  let d3 (mk : Hdr → BitVec 6 → BitVec 6 → BitVec 6 → Instr) (lat : Nat) (held : Bool) (f : Nat → Nat → Nat → FpRes) : Prop :=
    ∀ h q b a, threadFlags (mk h q b a) h lat held (fun c l =>
      double a l (f (roundMode c) (rv64 c.g b.toNat l).toNat (rv64 c.g q.toNat l).toNat))
  s3 .vfadd 1 false (fAdd fp32) ∧ s3 .vfsub 1 false (fSub fp32) ∧ s3 .vfmul 1 false (fMul fp32) ∧
  s3 .vfmin 1 false (fun _ => fMinMax fp32 false) ∧ s3 .vfmax 1 false (fun _ => fMinMax fp32 true) ∧
  s3 .vfdiv 12 true (fDiv fp32) ∧ d3 .vfaddF64 2 false (fAdd fp64) ∧ d3 .vfmulF64 2 false (fMul fp64) ∧
  d3 .vfdivF64 20 true (fDiv fp64) ∧
  (∀ h q b a, threadFlags (.vffma h q b a) h 1 false (fun c l => single a l
    (fFma fp32 (roundMode c) (rv c.g a.toNat l).toNat (rv c.g b.toNat l).toNat (rv c.g q.toNat l).toNat))) ∧
  (∀ h q b a, threadFlags (.vffmaF64 h q b a) h 2 false (fun c l => double a l
    (fFma fp64 (roundMode c) (rv64 c.g a.toNat l).toNat (rv64 c.g b.toNat l).toNat (rv64 c.g q.toNat l).toNat)))

/-- R251 to R258: packed halves, the BF16 dot product, compares, functions, conversions and packing.
Where the spec leaves a choice it rests on the model's own (log entries 5 and 110). -/
def Obligations.FloatOtherResults : Prop :=
  (∀ h q b a, threadFlags (.vfaddH2 h q b a) h 1 false (fun c l =>
    single a l (halves2 (fun _ y z => fAdd fp16 (roundMode c) y z) 0 (rv c.g b.toNat l).toNat (rv c.g q.toNat l).toNat))) ∧
  (∀ h q b a, threadFlags (.vfmulH2 h q b a) h 1 false (fun c l =>
    single a l (halves2 (fun _ y z => fMul fp16 (roundMode c) y z) 0 (rv c.g b.toNat l).toNat (rv c.g q.toNat l).toNat))) ∧
  (∀ h q b a, threadFlags (.vffmaH2 h q b a) h 1 false (fun c l => single a l
    (halves2 (fFma fp16 (roundMode c)) (rv c.g a.toNat l).toNat (rv c.g b.toNat l).toNat (rv c.g q.toNat l).toNat))) ∧
  (∀ h q b a, threadFlags (.vfdot2Bh h q b a) h 2 false (fun c l =>
    let lo (r : BitVec 6) : Fp := .of bf16 ((rv c.g r.toNat l).toNat / 2 ^ (16 * 0) % 2 ^ 16)
    let hi (r : BitVec 6) : Fp := .of bf16 ((rv c.g r.toNat l).toNat / 2 ^ (16 * 1) % 2 ^ 16)
    single a l (fFmaSum fp32 (roundMode c) (.of fp32 (rv c.g a.toNat l).toNat) [(lo b, lo q), (hi b, hi q)]))) ∧
  (∀ h q b n p, threadFlags (.vfcmp h q b n p) h 1 false (fun c l =>
    let r := fCompare fp32 n.toNat (rv c.g b.toNat l).toNat (rv c.g q.toNat l).toNat
    ([.p p.toNat l r.1], r.2))) ∧
  (∀ h q b n p, threadFlags (.vfcmpF64 h q b n p) h 2 false (fun c l =>
    let r := fCompare fp64 n.toNat (rv64 c.g b.toNat l).toNat (rv64 c.g q.toNat l).toNat
    ([.p p.toNat l r.1], r.2))) ∧
  (∀ h f b a, threadFlags (.vfunary h f b a) h (vfunaryClass f.toNat) false (fun c l =>
    if f.toNat ≥ 10 then double a l (fUnary f.toNat (roundMode c) (rv64 c.g b.toNat l).toNat)
    else single a l (fUnary f.toNat (roundMode c) (rv c.g b.toNat l).toNat))) ∧
  (∀ h f b a, threadFlags (.vcvt h f b a) h (vcvtClass f.toNat) false (fun c l =>
    let x := if vcvtSrc f.toNat = 2 then (rv64 c.g b.toNat l).toNat else (rv c.g b.toNat l).toNat
    let r := fCvt f.toNat (ext c.x.x 0 3) (roundMode c) x
    if vcvtDst f.toNat = 2 then double a l r else single a l r)) ∧
  (∀ h q b a, threadFlags (.vpkH2 h q b a) h 1 false (fun c l =>
    let x := fConvert fp32 fp16 (roundMode c) (rv c.g b.toNat l).toNat
    let y := fConvert fp32 fp16 (roundMode c) (rv c.g q.toNat l).toNat
    single a l ⟨x.bits + 2 ^ 16 * y.bits, x.flags ||| y.flags⟩)) ∧
  (∀ h q b a, threadFlags (.vpkBh2 h q b a) h 1 false (fun c l =>
    let x := fConvert fp32 bf16 (roundMode c) (rv c.g b.toNat l).toNat
    let y := fConvert fp32 bf16 (roundMode c) (rv c.g q.toNat l).toNat
    single a l ⟨x.bits + 2 ^ 16 * y.bits, x.flags ||| y.flags⟩)) ∧
  vectorThree .vpkI16 1 (fun x y =>
    BitVec.ofInt 16 (max (-32768) (min 32767 y.toInt)) ++ BitVec.ofInt 16 (max (-32768) (min 32767 x.toInt)))

/-- R259 to R265: predicate logic, exchanges, votes, folds, scans and per-thread special registers. -/
def Obligations.LaneResults : Prop :=
  let source (c : Ctx) (b : BitVec 6) (j : Nat) : BitVec 32 := if c.lanes.getLsbD j then rv c.g b.toNat j else 0
  (∀ h q p o d, threadWrites (.plog h q p o d) h 1 (fun c l =>
    [.p d.toNat l (logic o.toNat (rp c.g p.toNat l) (rp c.g q.toNat l))])) ∧
  (∀ h q b a, threadWrites (.vshfl h q b a) h 2 (fun c l => [.v a.toNat l (source c b ((rv c.g q.toNat l).toNat % 32))])) ∧
  (∀ h f b a, threadWrites (.vxorl h f b a) h 1 (fun c l => [.v a.toNat l (source c b (l ^^^ f.toNat))])) ∧
  (∀ h f b a, threadWrites (.vrotl h f b a) h 1 (fun c l => [.v a.toNat l (source c b ((l + f.toNat) % 32))])) ∧
  (∀ h i a s, Issues (.vrd h i a) h s → Unstepped s →
    let c := acting (.vrd h i a) h s
    let tid (l : Nat) : Nat := mget c.g.tid l
    ∃ t, exec (.vrd h i a) s = .next t ∧
      Sent s t (s.cur.turn + 1) ((lanesOf c.lanes).flatMap (fun l => [.v a.toNat l (BitVec.ofNat 32 (if i = 0 then l
        else if i = 1 then tid l else if i = 2 then tid l - ((launch s c.g.launch).threads.take c.g.stage).sum else c.f.name % 32))])) [] false ∧
      t.blocks = s.blocks ∧ RegisterFrame s t) ∧
  (∀ (h : Hdr) (o p : BitVec 3) (a : BitVec 6) (s : State), Issues (.vote h o p a) h s → Unstepped s →
    let c := acting (.vote h o p a) h s
    let w := giveScalar s c (numN c.x.ha a.toNat) (voteOf o.toNat c p.toNat)
    ∃ t, exec (.vote h o p a) s = .next t ∧ Sent s t (s.cur.turn + 1) w.1 [] (namesQueue (.vote h o p a) c.x) ∧
      t.blocks = w.2.blocks ∧ RegisterFrame s t) ∧
  (∀ (h : Hdr) (f b a : BitVec 6) (s : State), Issues (.vredu h f b a) h s → Unstepped s →
    let c := acting (.vredu h f b a) h s
    let r := treeFold f.toNat (roundMode c) 5 ((lanesOf c.lanes).map (rv c.g b.toNat))
    let w := giveScalar s c (numN c.x.ha a.toNat) (if f.toNat < 3 then r.1.signExtend 64 else r.1.setWidth 64)
    ∃ t, exec (.vredu h f b a) s = .next t ∧
      Sent s t (s.cur.turn + 3) w.1 (if r.2 = 0 then [] else [(0, r.2)]) (namesQueue (.vredu h f b a) c.x) ∧
      t.blocks = w.2.blocks ∧ RegisterFrame s t) ∧
  (∀ (h : Hdr) (f b a : BitVec 6) (s : State), Issues (.vscan h f b a) h s → Unstepped s →
    let c := acting (.vscan h f b a) h s
    let rs := scanFold f.toNat (roundMode c) none ((lanesOf c.lanes).map (fun l => (l, rv c.g b.toNat l)))
    ∃ t, exec (.vscan h f b a) s = .next t ∧
      Sent s t (s.cur.turn + 3) (rs.map (fun e => .v a.toNat e.1 e.2.1))
        ((rs.map (fun e => (e.1, e.2.2))).filter (fun e => e.2 != 0)) false ∧
      t.blocks = s.blocks ∧ RegisterFrame s t)

namespace Sys2Proof.Claims

/-- A fault is TRANSLATION with reason 0x1 in its detail word's low four bits (R27). -/
def notCanonical (c : Cause) (detail : BitVec 32) : Prop := c = .translation ∧ detail.extractLsb' 0 4 = 1

end Sys2Proof.Claims

/-- R3: which addresses are canonical; and that the address of a memory access, of an instruction fetch, of a line of an
engine or of a queue command that is not raises a TRANSLATION fault with reason 0x1, whatever else holds of it, with nothing
looked up. -/
def Obligations.CanonicalAddresses : Prop :=
  (∀ va : BitVec 64, canonical va = true ↔ ∀ i, 55 ≤ i → i ≤ 63 → va.getLsbD i = va.getLsbD 54) ∧
  (∀ (s : State) (a : Access) (r : LaneReq), a.spad = false → canonical r.va = false →
    ∃ c d, issueFault s a r = some (c, d) ∧ notCanonical c d) ∧
  (∀ (s : State) (k : Nat) (f : Frag) (va : BitVec 64), fromLoop (group s k) f va = false → canonical va = false →
    ∃ tr, fetchHalf s k f va = (.fault tr, s) ∧ notCanonical tr.cause tr.detail ∧ tr.va = va) ∧
  (∀ (s : State) (a : Access) (copy : Bool) (r : LaneReq), r ∈ a.reqs → canonical r.va = false →
    ∃ d, (r.lane, Cause.translation, d) ∈ (lineOpen s a copy).faults ∧ notCanonical .translation d) ∧
  (∀ (s : State) (a : Access) (copy : Bool), (∀ r ∈ a.reqs, canonical r.va = false) → (lineOpen s a copy).todo = []) ∧
  (∀ (a : Access) (l : Nat) (d : BitVec 32) fs r, a.faults = (l, .translation, d) :: fs → a.reqs.find? (fun q => q.lane == l) = some r →
    ∃ t, lineTrap a = some t ∧ t.cause = .translation ∧ t.detail = d ∧ t.va = r.va)

namespace Sys2Proof.Claims

/-- The group of the cursor runs one fragment, the cursor's, with no reconvergence entry, loop or speculation window. -/
def Straight (s : State) (f : Frag) : Prop :=
  (group s s.cur.g).frags = [f] ∧ f.id = s.cur.frag ∧ f.status = .run ∧ f.mask ≠ 0 ∧ (group s s.cur.g).stack = [] ∧
  (group s s.cur.g).loop = none ∧ (group s s.cur.g).window = none

/-- The one fragment goes on behind the instruction (R172, R175). -/
def Advances (s t : State) (h : Hdr) (yielded : Bool) : Prop :=
  ∀ f, Straight s f →
    (group t s.cur.g).frags = [{ f with pc := s.cur.next, since := s.cur.turn, prio := false, yielded := yielded, fetchFault := none }] ∧
    s.cur.turn + 1 + h.s.toNat ≤ (group t s.cur.g).nextTurn

/-- An instruction that does nothing else: every register, memory byte, queue and event stands. -/
def doesNothing (i : Instr) (h : Hdr) (yielded : Bool) (s : State) : Prop :=
  ∃ t, exec i s = .next t ∧ t.blocks = s.blocks ∧ RegisterFrame s t ∧ Advances s t h yielded

/-- Every thread of a set stands where it should, and may issue from a turn. -/
def threadsAt (g : Group) (m : BitVec 32) (to_ : Nat → BitVec 64) (turn : Nat) : Prop :=
  ∀ l, l < 32 → m.getLsbD l = true → ∃ x ∈ g.frags, x.mask.getLsbD l = true ∧ x.pc = to_ l ∧ x.notBefore = turn

/-- A recoverable trap has entered the handler (R331, R335, R336): the fragment's registers, v63, PC and next turn; all
other registers of the group, and everything else but fragments and turns, stand. -/
structure EntersHandler (s t : State) (cause : Nat) (info resume : BitVec 64) : Prop where
  tcause : (group t s.cur.g).tcause =
    BitVec.ofNat 64 (cause + 256 * ((frag (group s s.cur.g) s.cur.frag).name % 32) + 8192 * (frag (group s s.cur.g) s.cur.frag).parent +
      2 ^ 32 * (frag (group s s.cur.g) s.cur.frag).mask.toNat)
  tpc : (group t s.cur.g).tpc = s.cur.pc
  tinfo : (group t s.cur.g).tinfo = info
  tsib : (group t s.cur.g).tsib = (threads (group s s.cur.g) &&& ~~~(frag (group s s.cur.g) s.cur.frag).mask).setWidth 64
  link : ∀ l, l < 32 → (frag (group s s.cur.g) s.cur.frag).mask.getLsbD l = true →
    rv (group t s.cur.g) 63 l = (resume - (launch s (group s s.cur.g).launch).entry).setWidth 32
  place : ∀ x ∈ (group t s.cur.g).frags, x.id = s.cur.frag →
    x.pc = (launch s (group s s.cur.g).launch).handler ∧ x.notBefore = s.cur.turn + 3 ∧ x.status = .run
  others : ∀ r l, l < 32 → ¬ (r = 63 ∧ (frag (group s s.cur.g) s.cur.frag).mask.getLsbD l = true) →
    rv (group t s.cur.g) r l = rv (group s s.cur.g) r l
  latch : (group t s.cur.g).reuse = none
  own : group t s.cur.g = { group s s.cur.g with
    tcause := (group t s.cur.g).tcause, tpc := (group t s.cur.g).tpc, tinfo := (group t s.cur.g).tinfo
    tsib := (group t s.cur.g).tsib, v := (group t s.cur.g).v, frags := (group t s.cur.g).frags, reuse := none
    loop := (group t s.cur.g).loop, nextTurn := (group t s.cur.g).nextTurn, skid := (group t s.cur.g).skid }
  rest : t = { s with groups := t.groups, launches := t.launches, pfx := none }
  wrote : t.launches = (noteWrites s (group s s.cur.g).launch
    [.v 63 0 ((resume - (launch s (group s s.cur.g).launch).entry).setWidth 32)]).launches
  groups : ∀ j, j ≠ s.cur.g → mfind t.groups j = mfind s.groups j

/-- The launch has a trap handler, and the address of resumption lies within 4 GB of its code base (R144, R335). -/
def Handled (s : State) (resume : BitVec 64) : Prop :=
  (launch s (group s s.cur.g).launch).handler ≠ 0 ∧
  (resume - (launch s (group s s.cur.g).launch).entry).toNat < 2 ^ 32

/-- No window is open for the cursor's fragment, and its group runs no loop. -/
def Plainly (s : State) : Prop := (group s s.cur.g).window = none ∧ (group s s.cur.g).loop = none

end Sys2Proof.Claims

/-- R205: the prefix waits for the instruction it extends, and changes nothing else. -/
def Sys2Proof.Claims.PrefixWaits : Prop :=
  ∀ (x : BitVec 12) (k j h : BitVec 2) (s : State),
    ∃ t, exec (.xp x k j h) s = .next t ∧ t.pfx = some { x := x, ha := h, hb := j, hc := k } ∧ t = { s with pfx := t.pfx }

/-- R327: `nop`, `yield` and a `bkpt` that is off change no register and no memory; a `yield` is noted. -/
def Sys2Proof.Claims.IdleInstructions : Prop :=
  (∀ h s, Issues (.nop h) h s → Unstepped s → doesNothing (.nop h) h false s) ∧
  (∀ s, Issues .nop16 (shortHdr 0) s → Unstepped s → doesNothing .nop16 (shortHdr 0) false s) ∧
  (∀ h s, Issues (.yield h) h s → Unstepped s → doesNothing (.yield h) h true s) ∧
  (∀ s, Issues .yield16 (shortHdr 0) s → Unstepped s → doesNothing .yield16 (shortHdr 0) true s) ∧
  (∀ h i s, Issues (.bkpt h i) h s → Unstepped s → (ctx s).window = false → (group s s.cur.g).dbgctl.getLsbD 2 = true →
    doesNothing (.bkpt h i) h false s)

/-- R205, R327: the prefix waits for the instruction it extends; `nop`, `yield` and a `bkpt` that is off change no register and no memory. -/
def Obligations.PrefixesAndIdleInstructions : Prop := Sys2Proof.Claims.PrefixWaits ∧ Sys2Proof.Claims.IdleInstructions

/-- R136, R326 to R328: `ifence` discards code, `prog` counts, `wsync` waits for an even turn, `stchk` sets the checker, and
`csum` appends a record where the launch traces.
Where the spec leaves a choice it rests on the model's own (log entries 26 and 36). -/
def Obligations.SystemInstructionEffects : Prop :=
  let fence (i : Instr) (h : Hdr) : Prop := ∀ s, Issues i h s → Unstepped s → (ctx s).window = false →
    let o := (group s s.cur.g).owner
    ∃ t, exec i s = .next t ∧ t.blocks = s.blocks ∧
      RegisterFrame { s with l0 := s.l0.filter (fun l => !(l.owner == o && l.at_ / 4 == coreKey s.cur.g)) } t ∧
      s.cur.turn + 2 ≤ (group t s.cur.g).nextTurn
  (∀ h, fence (.ifence h) h) ∧ fence .ifence16 (shortHdr 0) ∧
  (∀ h i s, Issues (.prog h i) h s → Unstepped s →
    ∃ t, exec (.prog h i) s = .next t ∧ Sent s t (s.cur.turn + 1) [.cone i.toNat] [] false ∧ t.blocks = s.blocks ∧ RegisterFrame s t) ∧
  (∀ h s, Issues (.wsync h) h s → Unstepped s →
    ∃ t, exec (.wsync h) s = .next t ∧ t.blocks = s.blocks ∧ RegisterFrame s t ∧
      s.cur.turn / 2 * 2 + 2 ≤ (group t s.cur.g).nextTurn) ∧
  (∀ h i s, Issues (.stchk h i) h s → Unstepped s →
    ∃ t, exec (.stchk h i) s = .next t ∧ t.blocks = s.blocks ∧ (group t s.cur.g).checker = (i == 1) ∧
      RegisterFrame (modGroup s s.cur.g (fun g => { g with checker := i == 1 })) t) ∧
  (∀ h i s, Issues (.csum h i) h s → Unstepped s → launchFlag s (group s s.cur.g) 0 = false → (ctx s).window = false →
    doesNothing (.csum h i) h false s) ∧
  (∀ h i s s', Issues (.csum h i) h s → (ctx s).window = false → traceMisaligned s s.cur.g = false →
    traceAppend s s.cur.g s.cur.frag 1 i.toNat = .ok s' → (frag (group s s.cur.g) s.cur.frag).id = s.cur.frag →
    exec (.csum h i) s = .next (complete1 s' (ctx s) (.csum h i) h))

/-- R238, R239, R332: special registers are read and written, and a lane's register is read into a scalar one; a number that
R332 does not list, or a value a register does not take, traps and changes nothing. -/
def Obligations.SpecialRegisterAccess : Prop :=
  (∀ h i a s x, Issues (.srd h i a) h s → Unstepped s → readSpecial s (acting (.srd h i a) h s) i.toNat = some x →
    let c := acting (.srd h i a) h s
    let w := giveScalar s c (numN c.x.ha a.toNat) x
    let v := srdClass i.toNat == 0
    ∃ t, exec (.srd h i a) s = .next t ∧
      Sent s t (s.cur.turn + (if v then 2 else 1)) w.1 [] (v || namesQueue (.srd h i a) c.x) ∧ t.blocks = w.2.blocks ∧ RegisterFrame s t) ∧
  (∀ h i a s, Issues (.srd h i a) h s → readSpecial s (acting (.srd h i a) h s) i.toNat = none →
    ∃ t, exec (.srd h i a) s = .next t ∧ t = trapNow s (ctx s) ⟨.illegalOp, 0, 0, 0⟩) ∧
  (∀ h i a s, Issues (.swr h i a) h s → Unstepped s → (ctx s).window = false →
    let c := acting (.swr h i a) h s
    let y := takeScalar s c (numN c.x.ha a.toNat)
    refusesSpecial s c i.toNat y.1 = none →
    ∃ t, exec (.swr h i a) s = .next t ∧ Sent s t (s.cur.turn + 1) [.sr i.toNat y.1] [] false ∧ t.blocks = y.2.blocks ∧ RegisterFrame s t) ∧
  (∀ h i a s e, Issues (.swr h i a) h s →
    let c := acting (.swr h i a) h s
    refusesSpecial s c i.toNat (takeScalar s c (numN c.x.ha a.toNat)).1 = some e →
    ∃ t, exec (.swr h i a) s = .next t ∧ t = trapNow s (ctx s) ⟨e, 0, 0, 0⟩) ∧
  (∀ h f b a s, Issues (.sgetl h f b a) h s → Unstepped s → (threads (group s s.cur.g)).getLsbD f.toNat = true → (ctx s).window = false →
    let c := acting (.sgetl h f b a) h s
    let w := giveScalar s c (numN c.x.ha a.toNat) ((rv (group s s.cur.g) b.toNat f.toNat).setWidth 64)
    ∃ t, exec (.sgetl h f b a) s = .next t ∧ Sent s t (s.cur.turn + 1) w.1 [] (namesQueue (.sgetl h f b a) c.x) ∧
      t.blocks = w.2.blocks ∧ RegisterFrame s t) ∧
  (∀ h f b a s, Issues (.sgetl h f b a) h s → Unstepped s → (threads (group s s.cur.g)).getLsbD f.toNat = false → (ctx s).window = false →
    let c := acting (.sgetl h f b a) h s
    let x : BitVec 32 := pickOf (launch s (group s s.cur.g).launch).wroteV (freeWord s (group s s.cur.g).owner 0)
    let w := giveScalar s c (numN c.x.ha a.toNat) (x.setWidth 64)
    ∃ t, exec (.sgetl h f b a) s = .next t ∧ Sent s t (s.cur.turn + 1) w.1 [] (namesQueue (.sgetl h f b a) c.x) ∧
      t.blocks = w.2.blocks ∧ RegisterFrame s t)

/-- R230, R327, R335, R336: `trap`, and a `bkpt` that is on, enter the handler; they resume behind themselves. -/
def Sys2Proof.Claims.TrapInstructionsEnterHandler : Prop :=
  (∀ h i s, Issues (.trap h i) h s → Plainly s → Handled s s.cur.next →
    ∃ t, exec (.trap h i) s = .next t ∧
      EntersHandler s t 9 (if s.pfx.isSome then ((s.pfx.getD default).x ++ i).setWidth 64 else i.setWidth 64) s.cur.next) ∧
  (∀ h i s, Issues (.bkpt h i) h s → Plainly s → Handled s s.cur.next → (group s s.cur.g).dbgctl.getLsbD 2 = false →
    ∃ t, exec (.bkpt h i) s = .next t ∧ EntersHandler s t 10 (i.setWidth 64) s.cur.next)

/-- R211, R335: an instruction whose operands, prefix or place R211 refuses traps with that cause, resumes at itself, and
performs nothing. (`exit`, `reform` and the prefix apart: the first two also look at their block, and R211 speaks of
a prefix with the instruction it extends.) -/
def Obligations.DecodeDefectsTrap : Prop :=
  ∀ (i : Instr) (s : State) (d : Cause), i.encoded = true → (∀ h, i ≠ .exit h) → i ≠ .exit16 → (∀ h a, i ≠ .reform h a) →
    (∀ x k j h, i ≠ .xp x k j h) → issueDefect s (ctx s) i = some d → Plainly s → Handled s s.cur.pc →
    ∃ t, exec i s = .next t ∧ EntersHandler s t d.code 0 s.cur.pc

/-- R337, R334: a fatal cause, or a recoverable one with no handler, puts the fragment's owner into a halt that completes
two whole turns after the fault; no register or memory byte changes.
Where the spec leaves a choice it rests on the model's own (log entries 67 and 69). -/
def Obligations.FatalFaultHalts : Prop :=
  ∀ (s : State) (k f : Nat) (tr : Trap) (pc next : BitVec 64) (n : Nat),
    let o := (group s k).owner
    (tr.cause.fatal = true ∨ (launch s (group s k).launch).handler = 0) → (owner s o).halting = false →
    let t := takeTrap s k f tr pc next n
    (owner t o).halting = true ∧ (owner t o).faultBlock = some (group s k).block ∧
    (owner t o).faultQueue = some ((launch s (group s k).launch).queue, 1, BitVec.ofNat 8 tr.cause.code) ∧
    (counts (owner s o) = true → ((turnOf s.clock + 3) * 8, Instr.haltComplete o) ∈ t.agenda ∨ (turnOf s.clock + 3) * 8 < s.clock) ∧
    t.mem = s.mem ∧ t.l2 = s.l2 ∧ t.blocks = s.blocks ∧
    (∀ x ∈ (group t k).frags, x.id = f → x.status = .halted) ∧
    SameGroup (group s k) (group t k)

/-- R330: under `%dbgctl` step, an instruction that completes is followed by SINGLE_STEP of its fragment. -/
def Sys2Proof.Claims.SingleStepFollows : Prop :=
  ∀ (h : Hdr) (s : State) (f : Frag), Issues (.nop h) h s → Straight s f → (group s s.cur.g).dbgctl.getLsbD 1 = true →
    Handled s s.cur.next → ∃ t, exec (.nop h) s = .next t ∧
      (group t s.cur.g).tcause = BitVec.ofNat 64 (11 + 256 * (f.name % 32) + 8192 * f.parent + 2 ^ 32 * f.mask.toNat) ∧
      (group t s.cur.g).tpc = s.cur.pc ∧ (group t s.cur.g).tinfo = f.mask.setWidth 64 ∧
      (∀ x ∈ (group t s.cur.g).frags, x.pc = (launch s (group s s.cur.g).launch).handler ∧ x.notBefore = s.cur.turn + 3)

/-- R230, R327, R330, R335, R336: traps and breakpoints enter the handler, and a stepped instruction is followed by SINGLE_STEP.
Where the spec leaves a choice it rests on the model's own (log entries 14, 16, 96 and 102). -/
def Obligations.TrapsAndSteps : Prop := Sys2Proof.Claims.TrapInstructionsEnterHandler ∧ Sys2Proof.Claims.SingleStepFollows

/-- R175, R176: a result lands in its register; every other register of its group, and everything else, stands.
Where the spec leaves a choice it rests on the model's own (log entry 21). -/
def Obligations.ResultLands : Prop :=
  ∀ (id : Nat) (s : State) (r : Result), mfind s.results id = some r → s.badRegs = [] →
    ∃ t, exec (.resultWrite id) s = .next t ∧ mfind t.results id = none ∧
      (∀ n x, r.writes = [.s n x] → rs (group t r.g) n = x ∧ (∀ m, m ≠ n → rs (group t r.g) m = rs (group s r.g) m) ∧
        (group t r.g).v = (group s r.g).v ∧ (group t r.g).p = (group s r.g).p ∧ (group t r.g).k = (group s r.g).k) ∧
      (∀ ls : List (Nat × BitVec 32), ∀ n, r.writes = ls.map (fun e => .v n e.1 e.2) → (ls.map (·.1)).Nodup → (∀ e ∈ ls, e.1 < 32) →
        (∀ e ∈ ls, rv (group t r.g) n e.1 = e.2) ∧
        (∀ m l, l < 32 → (m ≠ n ∨ ∀ e ∈ ls, e.1 ≠ l) → rv (group t r.g) m l = rv (group s r.g) m l) ∧
        (group t r.g).s = (group s r.g).s ∧ (group t r.g).p = (group s r.g).p ∧ (group t r.g).k = (group s r.g).k) ∧
      (∀ n x, r.writes = [.k n x] → n < 7 → rk (group t r.g) n = x ∧ (∀ m, m < 7 → m ≠ n → rk (group t r.g) m = rk (group s r.g) m) ∧
        (group t r.g).v = (group s r.g).v ∧ (group t r.g).s = (group s r.g).s ∧ (group t r.g).p = (group s r.g).p) ∧
      (r.writes.all (fun w => match w with | .v _ _ _ | .s _ _ | .p _ _ _ | .k _ _ => true | _ => false) = true →
        (group t r.g).fflags = (group s r.g).fflags ||| r.flags.setWidth 64 ∧
        t = { s with groups := t.groups, results := t.results, launches := (noteWrites s (group s r.g).launch r.writes).launches } ∧ (∀ j, j ≠ r.g → mfind t.groups j = mfind s.groups j) ∧
        (∀ j, j ≠ id → mfind t.results j = mfind s.results j) ∧ (group t r.g).frags = (group s r.g).frags)

/-- R147, R216, R218, R219: an unguarded branch moves every active thread to its target two turns on; a guarded one waits
for its resolution in turn n + 5 (R179).
Where the spec leaves a choice it rests on the model's own (log entries 17 and 101). -/
def Obligations.BranchesMoveThreads : Prop :=
  (∀ (h : Hdr) (i : BitVec 18) s f, h.g = 7 → Issues (.bra h i) h s → Unstepped s → Straight s f → s.cur.looped = false →
    let target := s.cur.pc + 2 * (if s.pfx.isSome then ((s.pfx.getD default).x ++ i).signExtend 64 else i.signExtend 64)
    ∃ t, exec (.bra h i) s = .next t ∧ t.blocks = s.blocks ∧ RegisterFrame s t ∧
      threadsAt (group t s.cur.g) f.mask (fun _ => target) (s.cur.turn + 2)) ∧
  (∀ (i : BitVec 11) s f, Issues (.jmpS i) (shortHdr 0) s → Unstepped s → Straight s f → s.cur.looped = false →
    ∃ t, exec (.jmpS i) s = .next t ∧ t.blocks = s.blocks ∧ RegisterFrame s t ∧
      threadsAt (group t s.cur.g) f.mask (fun _ => s.cur.pc + 2 * i.signExtend 64) (s.cur.turn + 2)) ∧
  (∀ (h : Hdr) (i : BitVec 18) s f, h.g ≠ 7 → gate (.bra h i) h s (ctx s) = .go → Unstepped s → Straight s f → s.cur.looped = false →
    ∃ t, exec (.bra h i) s = .next t ∧ t.blocks = s.blocks ∧ t.pfx = none ∧ SameGroup (group s s.cur.g) (group t s.cur.g) ∧
      ((s.cur.turn + 5) * 8, Instr.branchResolution s.cur.g s.cur.frag) ∈ t.agenda ∧
      (∃ w, (group t s.cur.g).window = some w ∧ w.frag = s.cur.frag ∧ w.pc = s.cur.pc ∧ w.fall = s.cur.next ∧ w.active = f.mask ∧
        w.target = s.cur.pc + 2 * (if s.pfx.isSome then ((s.pfx.getD default).x ++ i).signExtend 64 else i.signExtend 64) ∧
        w.taken = maskOf ((lanesOf f.mask).filter (rp (group s s.cur.g) h.g.toNat)) ∧ w.shadow = []))

/-- R220 to R222, R199: indirect transfers take each guarded thread to its own target three turns on, and `call` links
v63; an odd target traps. -/
def Obligations.IndirectTransfers : Prop :=
  let moves (i : Instr) (h : Hdr) (to_ : State → Nat → BitVec 64) : Prop := ∀ s f, Issues i h s → Unstepped s → Straight s f →
    s.cur.looped = false → (∀ l, l < 32 → (acting i h s).lanes.getLsbD l = true → (to_ s l).getLsbD 0 = false) →
    ∃ t, exec i s = .next t ∧ t.blocks = s.blocks ∧ RegisterFrame s t ∧
      threadsAt (group t s.cur.g) (acting i h s).lanes (to_ s) (s.cur.turn + 3)
  let base (s : State) : BitVec 64 := (launch s (group s s.cur.g).launch).entry
  (∀ h a, moves (.brx h a) h (fun s l => base s + (rv (group s s.cur.g) a.toNat l).setWidth 64)) ∧
  (∀ h, moves (.ret h) h (fun s l => base s + (rv (group s s.cur.g) 63 l).setWidth 64)) ∧
  moves .ret16 (shortHdr 0) (fun s l => base s + (rv (group s s.cur.g) 63 l).setWidth 64) ∧
  (∀ (h : Hdr) (i : BitVec 18) s f, Issues (.call h i) h s → Unstepped s → Straight s f → s.cur.looped = false →
    (s.cur.next - base s).toNat < 2 ^ 32 →
    let target := s.cur.pc + 2 * (if s.pfx.isSome then ((s.pfx.getD default).x ++ i).signExtend 64 else i.signExtend 64)
    ∃ t, exec (.call h i) s = .next t ∧
      Sent s t (s.cur.turn + 1) ((lanesOf (acting (.call h i) h s).lanes).flatMap (fun l => [.v 63 l ((s.cur.next - base s).setWidth 32)])) [] false ∧
      t.blocks = s.blocks ∧ RegisterFrame s t ∧
      threadsAt (group t s.cur.g) (acting (.call h i) h s).lanes (fun _ => target) (s.cur.turn + 3)) ∧
  (∀ h a s l, Issues (.brx h a) h s → (lanesOf (acting (.brx h a) h s).lanes).head? = some l → (ctx s).window = false →
    (base s + (rv (group s s.cur.g) a.toNat l).setWidth 64).getLsbD 0 = true →
    ∃ t, exec (.brx h a) s = .next t ∧ t = trapNow s (ctx s)
      ⟨.misaligned, 0, detailWord false l 2 0 0 0 0 0, base s + (rv (group s s.cur.g) a.toNat l).setWidth 64⟩)

/-- R153, R154, R223, R224: `rcv` pushes an entry for its threads, and `brk` takes its threads out of their top entries and to
its target.
Where the spec leaves a choice it rests on the model's own (log entry 9). -/
def Obligations.RegionsOpenAndLeave : Prop :=
  (∀ (h : Hdr) (i : BitVec 18) s, Issues (.rcv h i) h s → Unstepped s → (group s s.cur.g).stack.length ≠ 16 →
    ∃ t, exec (.rcv h i) s = .next t ∧ t.blocks = s.blocks ∧ RegisterFrame s t) ∧
  (∀ (h : Hdr) (i : BitVec 18) s f, Issues (.rcv h i) h s → Unstepped s → Straight s f →
    let target := s.cur.pc + 2 * (if s.pfx.isSome then ((s.pfx.getD default).x ++ i).signExtend 64 else i.signExtend 64)
    target ≠ s.cur.next →
    ∃ t, exec (.rcv h i) s = .next t ∧ t.blocks = s.blocks ∧ RegisterFrame s t ∧
      (group t s.cur.g).stack = [⟨target, (acting (.rcv h i) h s).lanes, f.name, f.parent⟩]) ∧
  (∀ (h : Hdr) (i : BitVec 18) s, Issues (.rcv h i) h s → (group s s.cur.g).stack.length = 16 → (ctx s).window = false →
    ∃ t, exec (.rcv h i) s = .next t ∧ t = trapNow s (ctx s) ⟨.divergenceDepth, 0, 0, 0⟩) ∧
  (∀ (h : Hdr) (i : BitVec 12) (n : BitVec 4) s, Issues (.brk h i n) h s → Unstepped s → s.cur.looped = false → (ctx s).window = false →
    (∀ l, l < 32 → (acting (.brk h i n) h s).lanes.getLsbD l = true → n.toNat + 1 ≤ entriesOf (group s s.cur.g) l) →
    ∃ t, exec (.brk h i n) s = .next t ∧ t.blocks = s.blocks ∧ RegisterFrame s t ∧
      ∀ l, l < 32 → (acting (.brk h i n) h s).lanes.getLsbD l = true →
        entriesOf (group t s.cur.g) l + (n.toNat + 1) ≤ entriesOf (group s s.cur.g) l) ∧
  (∀ (h : Hdr) (i : BitVec 12) (n : BitVec 4) s l, Issues (.brk h i n) h s → s.cur.looped = false → (ctx s).window = false → l < 32 →
    (acting (.brk h i n) h s).lanes.getLsbD l = true → entriesOf (group s s.cur.g) l < n.toNat + 1 →
    ∃ t, exec (.brk h i n) s = .next t ∧ t = trapNow s (ctx s) ⟨.illegalOp, 0, 0, 0⟩)

/-- R227: `loop` goes on behind its body when its counter is 0, and else into the body with the loop noted, for 1 to 64 body
halfwords.
Where the spec leaves a choice it rests on the model's own (log entries 20 and 33). -/
def Obligations.LoopsBegin : Prop :=
  let count (h : Hdr) (i : BitVec 12) (a : BitVec 6) (s : State) : Nat := sregOf (numN (acting (.loop h i a) h s).x.ha a.toNat)
  (∀ (h : Hdr) (i : BitVec 12) (a : BitVec 6) s, Issues (.loop h i a) h s → Unstepped s → (acting (.loop h i a) h s).lanes ≠ 0 →
    rs (group s s.cur.g) (count h i a s) = 0 → (ctx s).window = false →
    ∃ t, exec (.loop h i a) s = .next t ∧ t.blocks = s.blocks ∧ RegisterFrame s t ∧
      ∀ f, Straight s f → threadsAt (group t s.cur.g) f.mask (fun _ => s.cur.next + BitVec.ofNat 64 (2 * i.toNat)) (s.cur.turn + 1)) ∧
  (∀ (h : Hdr) (i : BitVec 12) (a : BitVec 6) s, Issues (.loop h i a) h s → Unstepped s → (acting (.loop h i a) h s).lanes ≠ 0 →
    rs (group s s.cur.g) (count h i a s) ≠ 0 → (ctx s).window = false →
    ∃ t, exec (.loop h i a) s = .next t ∧ t.blocks = s.blocks ∧ t.mem = s.mem ∧ SameGroup (group s s.cur.g) (group t s.cur.g) ∧
      ∀ f, Straight s f → s.cur.next.toNat + 2 * i.toNat < 2 ^ 64 →
        threadsAt (group t s.cur.g) f.mask (fun _ => s.cur.next) (s.cur.turn + 1) ∧
        ∃ p, (group t s.cur.g).loop = some p ∧ p.start = s.cur.next ∧ p.stop = s.cur.next + BitVec.ofNat 64 (2 * i.toNat) ∧
          p.ctr = count h i a s ∧ p.lanes = f.mask ∧ p.suspended = 0) ∧
  (∀ (h : Hdr) (i : BitVec 12) (a : BitVec 6) s, i.toNat = 0 ∨ 64 < i.toNat → issueDefect s (ctx s) (.loop h i a) = some .illegalOp)

/-- R117, R149, R151, R225, R226: threads leave their group, `reform` having filed their registers; what the group's block
then does is `lifeCheck`. -/
def Obligations.ThreadsLeave : Prop :=
  let leaves (i : Instr) (h : Hdr) : Prop := ∀ s f, Issues i h s → Unstepped s → Straight s f → s.cur.looped = false →
    ¬ ((acting i h s).lanes = threads (group s s.cur.g) ∧ (group s s.cur.g).latches ≠ []) →
    ∃ t u, exec i s = .next t ∧ t = lifeCheck u s.cur.g ∧ u.blocks = s.blocks ∧ u.mem = s.mem ∧
      (∀ x ∈ (group u s.cur.g).frags, x.mask &&& (acting i h s).lanes = 0) ∧
      (f.mask &&& ~~~(acting i h s).lanes ≠ 0 → threadsAt (group u s.cur.g) (f.mask &&& ~~~(acting i h s).lanes) (fun _ => s.cur.next) (s.cur.turn + 1)) ∧
      (group u s.cur.g).v = (group s s.cur.g).v ∧ (group u s.cur.g).s = (group s s.cur.g).s
  (∀ h, leaves (.exit h) h) ∧ leaves .exit16 (shortHdr 0) ∧
  (∀ h a s f, Issues (.reform h a) h s → Unstepped s → Straight s f → s.cur.looped = false → (group s s.cur.g).migrated = false →
    (group s s.cur.g).latches = [] → a.toNat + 1 ≤ (group s s.cur.g).budget →
    let m := (acting (.reform h a) h s).lanes
    ∃ t u, exec (.reform h a) s = .next t ∧ t = lifeCheck u s.cur.g ∧ u.mem = s.mem ∧
      (∀ x ∈ (group u s.cur.g).frags, x.mask &&& m = 0) ∧
      ((s.cur.turn + 64) * 8, Instr.saggarTimeout (group s s.cur.g).block (partOf s.cur.g) (group s s.cur.g).stage s.cur.next) ∈ u.agenda ∧
      ∃ y ∈ (block u (group s s.cur.g).block).saggars, y.part = partOf s.cur.g ∧ y.stage = (group s s.cur.g).stage ∧ y.pc = s.cur.next ∧
        ∀ l, l < 32 → m.getLsbD l = true → ⟨mget (group s s.cur.g).tid l,
          (List.range (a.toNat + 1)).map (fun r => rv (group s s.cur.g) r l), s.cur.turn⟩ ∈ y.records)

namespace Sys2Proof.Claims

/-- An access whose first pass another core's scratchpad serves is on its way there (R39). -/
def sentOff (s : State) (a : Access) : Access :=
  match a.passes with
  | [] => a
  | p :: _ =>
    let x := passPlace s a p
    if x.2.2 && !a.reached.contains x.1 then { a with transit := true, reached := x.1 :: a.reached } else a

/-- From `s` to `t` the access `a` has begun under the next identity (R21, R38, R43): its granules are due for lookup, or, with
none to translate, its passes are due. No register, memory byte or cache line, and no other access, has changed. -/
structure Begins (s t : State) (a : Access) : Prop where
  acc : mfind t.accs s.nextId = some (if lookups a = [] then
      sentOff s { a with checked := true, passes := passesOf s a, unperformed := lineWrites a }
    else { a with todo := lookups a, unperformed := lineWrites a })
  due : ∃ d, s.clock < d ∧ (d, if lookups a = [] then Instr.lspAccess s.nextId else Instr.coreTlbLookup s.nextId) ∈ t.agenda
  others : ∀ j, j ≠ s.nextId → mfind t.accs j = mfind s.accs j
  frame : Keeps s.cur.g { s with accs := t.accs, claims := t.claims } t
  pfx : t.pfx = none

/-- No lane fails a check before translation (R25, R28), and none would write a barrier object (R128). -/
def Passes (s : State) (a : Access) : Prop := ∀ r, r ∈ a.reqs → issueFault s a r = none ∧ laneClobbers s a r = false

/-- A per-lane access under a guard, with the request of each participating thread. -/
def laneAccess (i : Instr) (h : Hdr) (kind : AccKind) (dst dflt : Nat) (spad : Bool) (req : Ctx → Nat → LaneReq) : Prop :=
  ∀ s, Issues i h s → Unstepped s →
    let c := acting i h s
    let a := { accessOf c kind dst dflt c.lanes ((lanesOf c.lanes).map (req c)) with spad := spad }
    (a.spad = true → c.g.migrated = false) → a.coil = 0 ∨ kind.writes = false ∨ spad = true → Passes s a →
    ∃ t, exec i s = .next t ∧ Begins s t a ∧ t.blocks = s.blocks

/-- The address s(w) + sext(v(b)), and the scratchpad offset (s(w) + zext(v(b))) mod 2^18 (R266). -/
def addr (c : Ctx) (w b l : Nat) : BitVec 64 := rs c.g w + (rv c.g b l).signExtend 64
def offset (c : Ctx) (w b l : Nat) : BitVec 64 := BitVec.ofNat 64 (((rs c.g w).toNat + (rv c.g b l).toNat) % 2 ^ 18)

/-- The thread that a uniform access is made for: the fragment's lowest. -/
def first (c : Ctx) : Nat := (lanesOf c.f.mask).head?.getD 0

/-- A uniform access: its place, made once for the fragment. -/
def uniformAccess (c : Ctx) (kind : AccKind) (dst dflt : Nat) (va data : BitVec 64) : Access :=
  accessOf c kind dst dflt c.f.mask [⟨first c, va, data.setWidth 128, 0⟩]

/-- The fragment waits for an access (R101, R112), and for nothing else. -/
def waitsOn (s t : State) : Prop :=
  ∀ f, Straight s f → ∀ x ∈ (group t s.cur.g).frags, x.id = f.id → x.status = .mem s.nextId

end Sys2Proof.Claims

/-- R266, R271 to R274, R276 to R278: vector loads, stores and atomics, on addresses and in the scratchpad, each issue one
access; they store nothing themselves.
Where the spec leaves a choice it rests on the model's own (log entry 37). -/
def Obligations.VectorMemoryIssues : Prop :=
  (∀ h z w b a, laneAccess (.vld h z w b a) h (.load (z == 1 || z == 3) (sizeBytes z.toNat)) a.toNat 5 false
    (fun c l => ⟨l, addr c w.toNat b.toNat l, 0, 0⟩)) ∧
  (∀ h z w b a, laneAccess (.vst h z w b a) h (.store (sizeBytes z.toNat)) 0 5 false
    (fun c l => ⟨l, addr c w.toNat b.toNat l, laneBits c.g a.toNat (sizeBytes z.toNat) l, 0⟩)) ∧
  (∀ h z w b a, laneAccess (.lds h z w b a) h (.load (z == 1 || z == 3) (sizeBytes z.toNat)) a.toNat 2 true
    (fun c l => ⟨l, offset c w.toNat b.toNat l, 0, 0⟩)) ∧
  (∀ h z w b a, laneAccess (.sts h z w b a) h (.store (sizeBytes z.toNat)) 0 2 true
    (fun c l => ⟨l, offset c w.toNat b.toNat l, laneBits c.g a.toNat (sizeBytes z.toNat) l, 0⟩)) ∧
  (∀ b a, laneAccess (.vldB3216 b a) (shortHdr 0) (.load false 4) a.toNat 5 false
    (fun c l => ⟨l, addr c 0 b.toNat l, 0, 0⟩)) ∧
  (∀ b a, laneAccess (.vstB3216 b a) (shortHdr 0) (.store 4) 0 5 false
    (fun c l => ⟨l, addr c 0 b.toNat l, (rv c.g a.toNat l).setWidth 128, 0⟩)) ∧
  (∀ h z w b a, laneAccess (.vatom h z w b a) h (.atomic z.toNat 4) a.toNat 5 false
    (fun c l => ⟨l, addr c w.toNat b.toNat l, (rv c.g a.toNat l).setWidth 128, 0⟩)) ∧
  (∀ h z w b a, laneAccess (.vcas h z w b a) h (.cas (if z = 5 then 8 else 4)) a.toNat 5 false
    (fun c l => if z = 5 then ⟨l, addr c w.toNat b.toNat l, (rv64 c.g (a.toNat + 2) l).setWidth 128, rv64 c.g a.toNat l⟩
      else ⟨l, addr c w.toNat b.toNat l, (rv c.g (a.toNat + 1) l).setWidth 128, (rv c.g a.toNat l).setWidth 64⟩))

/-- R84, R118: a store or atomic tagged with an open coil counts one class X operation, which ends with its writes. -/
def Obligations.TaggedStoresCount : Prop :=
  let tagged (i : Instr) (h : Hdr) (acc : Ctx → State → Access × State) : Prop := ∀ s, Issues i h s → Unstepped s →
    let c := acting i h s
    let a := (acc c s).1
    let y := (acc c s).2
    let op : EngOp := { (default : EngOp) with
      cls := 1, kind := .tagged (s.nextId + 1), g := c.k, block := c.g.block, launch := c.g.launch, owner := c.o
      die := a.die, core := a.core, part := a.part, frag := a.frag, pc := a.pc, coil := a.coil }
    a.coil ≠ 0 → c.g.migrated = false → c.window = false → (coilDie (block y c.g.block) a.coil).isSome = true →
    (∀ r, r ∈ a.reqs → issueFault y { a with op := some s.nextId } r = none ∧ laneClobbers y a r = false) → lookups a ≠ [] →
    ∃ t, exec i s = .next t ∧ mfind t.ops s.nextId = some op ∧ t.blocks = y.blocks ∧ t.mem = s.mem ∧ t.l2 = s.l2 ∧
      (group t s.cur.g).classX = (group s s.cur.g).classX ++ [(s.nextId, false)] ∧
      mfind t.accs (s.nextId + 1) = some { a with op := some s.nextId, todo := lookups a, unperformed := lineWrites a } ∧
      ∃ d, (d, Instr.coreTlbLookup (s.nextId + 1)) ∈ t.agenda
  (∀ h z w b a, tagged (.vst h z w b a) h (fun c s => (accessOf c (.store (sizeBytes z.toNat)) 0 5 c.lanes ((lanesOf c.lanes).map
    (fun l => ⟨l, addr c w.toNat b.toNat l, laneBits c.g a.toNat (sizeBytes z.toNat) l, 0⟩)), s))) ∧
  (∀ h z w b a, tagged (.vatom h z w b a) h (fun c s => (accessOf c (.atomic z.toNat 4) a.toNat 5 c.lanes ((lanesOf c.lanes).map
    (fun l => ⟨l, addr c w.toNat b.toNat l, (rv c.g a.toNat l).setWidth 128, 0⟩)), s))) ∧
  (∀ h f b a, tagged (.sst h f b a) h (fun c s =>
    let y := takeScalar s c (numN c.x.hb b.toNat)
    let z := takeScalar y.2 c (numN c.x.ha a.toNat)
    (uniformAccess c (.sstore 8) 0 5 (y.1 + BitVec.ofNat 64 (8 * f.toNat)) z.1, z.2)))

/-- R275: the uniform load and store make one access of eight bytes at sB + 8 × F. -/
def Obligations.ScalarMemoryIssues : Prop :=
  (∀ h f b a s, Issues (.sld h f b a) h s → Unstepped s →
    let c := acting (.sld h f b a) h s
    let y := takeScalar s c (numN c.x.hb b.toNat)
    let acc := uniformAccess c (.sload false 8) (numN c.x.ha a.toNat) 5 (y.1 + BitVec.ofNat 64 (8 * f.toNat)) 0
    Passes y.2 acc → ∃ t, exec (.sld h f b a) s = .next t ∧ Begins { s with blocks := y.2.blocks } t acc ∧ t.blocks = y.2.blocks) ∧
  (∀ h f b a s, Issues (.sst h f b a) h s → Unstepped s →
    let c := acting (.sst h f b a) h s
    let y := takeScalar s c (numN c.x.hb b.toNat)
    let z := takeScalar y.2 c (numN c.x.ha a.toNat)
    let acc := uniformAccess c (.sstore 8) 0 5 (y.1 + BitVec.ofNat 64 (8 * f.toNat)) z.1
    acc.coil = 0 → Passes z.2 acc →
    ∃ t, exec (.sst h f b a) s = .next t ∧ Begins { s with blocks := z.2.blocks } t acc ∧ t.blocks = z.2.blocks)

/-- R107, R279: a fence with nothing to wait for goes on, a full or acquire fence at .clu or wider after the L1 refresh it
begins; one that has makes its fragment wait, until then no later instruction of it issues. -/
def Sys2Proof.Claims.FenceIssues : Prop :=
  let lanes (i : Instr) (h : Hdr) (s : State) : BitVec 32 := (acting i h s).lanes
  (∀ h k q s, Issues (.fence h k q) h s → Unstepped s → (ctx s).window = false → ¬ (k.toNat < 2 ∧ 4 ≤ q.toNat) →
    fenceDone s s.cur.g k.toNat q.toNat (lanes (.fence h k q) h s) = true → doesNothing (.fence h k q) h false s) ∧
  (∀ h k q s f, Issues (.fence h k q) h s → Unstepped s → Straight s f → k.toNat < 2 → 4 ≤ q.toNat →
    fenceDone s s.cur.g k.toNat q.toNat (lanes (.fence h k q) h s) = true →
    ∃ t, exec (.fence h k q) s = .next t ∧ t.blocks = s.blocks ∧ t.mem = s.mem ∧ t.l2 = s.l2 ∧ t.l1 = s.l1 ∧
      mfind t.accs s.nextId = some { holderOf s s.cur.g f.id (lanes (.fence h k q) h s) with passes := [[]], avail := 0 } ∧
      (∃ d, s.clock ≤ d ∧ (d, Instr.lspAccess s.nextId) ∈ t.agenda) ∧
      ∀ x ∈ (group t s.cur.g).frags, x.id = f.id → x.status = .refresh ∧ x.pc = s.cur.next) ∧
  (∀ h k q s f, Issues (.fence h k q) h s → Unstepped s → Straight s f →
    fenceDone s s.cur.g k.toNat q.toNat (lanes (.fence h k q) h s) = false →
    ∃ t, exec (.fence h k q) s = .next t ∧ t.blocks = s.blocks ∧ RegisterFrame s t ∧
      ∀ x ∈ (group t s.cur.g).frags, x.id = f.id →
        x.status = .fence k.toNat q.toNat (lanes (.fence h k q) h s) ∧ x.pc = s.cur.next)

/-- R110 to R113, R280, R281: latch operations issue one access on 32 bytes and their fragment waits for it; `lbind` refuses a
region R116 does not allow. -/
def Sys2Proof.Claims.LatchInstructionsIssue : Prop :=
  (∀ h q b a s, Issues (.lbind h q b a) h s → Unstepped s →
    let c := acting (.lbind h q b a) h s
    let x := takeScalar s c (numN c.x.hb b.toNat)
    let y := takeScalar x.2 c (numN c.x.hc q.toNat)
    let z := takeScalar y.2 c (numN c.x.ha a.toNat)
    let acc := uniformAccess c (.lbind x.1 y.1) 0 5 z.1 0
    regionOk z.1 x.1 y.1 = true → Passes z.2 acc →
    ∃ t, exec (.lbind h q b a) s = .next t ∧ Begins { s with blocks := z.2.blocks } t acc ∧ t.blocks = z.2.blocks ∧ waitsOn s t) ∧
  (∀ h q b a s, Issues (.lbind h q b a) h s →
    let c := acting (.lbind h q b a) h s
    let x := takeScalar s c (numN c.x.hb b.toNat)
    let y := takeScalar x.2 c (numN c.x.hc q.toNat)
    let z := takeScalar y.2 c (numN c.x.ha a.toNat)
    canonical z.1 = true → z.1.toNat % 32 = 0 → regionOk z.1 x.1 y.1 = false →
    ∃ t, exec (.lbind h q b a) s = .next t ∧ t = trapNow s (ctx s) ⟨.illegalOp, 0, 0, 0⟩) ∧
  (∀ h n q b s, Issues (.lacq h n q b) h s → Unstepped s →
    let c := acting (.lacq h n q b) h s
    let y := takeScalar s c (numN c.x.hb b.toNat)
    let acc := { uniformAccess c (.lacq (n == 1)) 0 5 y.1 0 with order := 1, scope := q.toNat }
    Passes y.2 acc →
    ∃ t, exec (.lacq h n q b) s = .next t ∧ Begins { s with blocks := y.2.blocks } t acc ∧ t.blocks = y.2.blocks ∧ waitsOn s t) ∧
  (∀ h q b s, Issues (.lrel h q b) h s → Unstepped s →
    let c := acting (.lrel h q b) h s
    let y := takeScalar s c (numN c.x.hb b.toNat)
    let acc := { uniformAccess c .lrel 0 5 y.1 0 with scope := q.toNat }
    Passes y.2 acc →
    ∃ t, exec (.lrel h q b) s = .next t ∧ Begins { s with blocks := y.2.blocks } t acc ∧ t.blocks = y.2.blocks ∧ waitsOn s t)

/-- R105, R111 to R116: `fence`, `lbind`, `lacq` and `lrel` issue, and what each then waits for.
Where the spec leaves a choice it rests on the model's own (log entries 35 and 38). -/
def Obligations.FencesAndLatchesIssue : Prop := Sys2Proof.Claims.FenceIssues ∧ Sys2Proof.Claims.LatchInstructionsIssue

/-- R125, R282: barrier operations issue one access of 16 bytes in the window; all but `bar.test` make their fragment
wait; a non-canonical address, the wrong place, alignment or count traps, in that order.
Where the spec leaves a choice it rests on the model's own (log entry 37). -/
def Obligations.BarrierInstructionsIssue : Prop :=
  let object (c : Ctx) (op : Nat) (va x : BitVec 64) : Access :=
    { uniformAccess c (.bar op x) 0 2 va 0 with order := if op = 5 then 1 else 0, coil := 0, policy := 0 }
  let two (mk : Hdr → BitVec 6 → BitVec 6 → Instr) (op : Nat) : Prop := ∀ h b a s, Issues (mk h b a) h s → Unstepped s →
    let c := acting (mk h b a) h s
    let y := takeScalar s c (numN c.x.hb b.toNat)
    let z := takeScalar y.2 c (numN c.x.ha a.toNat)
    c.g.migrated = false →
    (y.1.toNat % 16 = 0 → inWindow y.1 = true → ¬ (op = 0 ∧ (z.1 = 0 ∨ 4095 < z.1.toNat)) → ¬ (op = 4 ∧ traceMisaligned z.2 c.k = true) →
      Passes z.2 (object c op y.1 z.1) →
      ∃ t, exec (mk h b a) s = .next t ∧ Begins { s with blocks := z.2.blocks } t (object c op y.1 z.1) ∧ t.blocks = z.2.blocks ∧
        (op ≠ 5 → waitsOn s t)) ∧
    (canonical y.1 = false → ∃ t, exec (mk h b a) s = .next t ∧
      t = trapNow s (ctx s) (faultTrap false (first c) 1 y.1 (wf 1 0 0 0))) ∧
    (canonical y.1 = true → y.1.toNat % 16 ≠ 0 → ∃ t, exec (mk h b a) s = .next t ∧
      t = trapNow s (ctx s) ⟨.misaligned, 0, detailWord false (first c) 1 0 0 0 0 0, y.1⟩) ∧
    (canonical y.1 = true → y.1.toNat % 16 = 0 → inWindow y.1 = false → ∃ t, exec (mk h b a) s = .next t ∧ t = trapNow s (ctx s) ⟨.illegalOp, 0, 0, 0⟩) ∧
    (y.1.toNat % 16 = 0 → inWindow y.1 = true → op = 0 → z.1 = 0 ∨ 4095 < z.1.toNat →
      ∃ t, exec (mk h b a) s = .next t ∧ t = trapNow s (ctx s) ⟨.illegalOp, 0, 0, 0⟩)
  two .barInit 0 ∧ two .barExpin 2 ∧ two .barExpout 3 ∧ two .barWait 4 ∧ two .barTest 5 ∧
  (∀ h b s, Issues (.barArrive h b) h s → Unstepped s →
    let c := acting (.barArrive h b) h s
    let y := takeScalar s c (numN c.x.hb b.toNat)
    let a := object c 1 y.1 (BitVec.ofNat 64 (popcount c.f.mask))
    c.g.migrated = false → y.1.toNat % 16 = 0 → inWindow y.1 = true → Passes y.2 a →
    ∃ t, exec (.barArrive h b) s = .next t ∧ Begins { s with blocks := y.2.blocks } t a ∧ t.blocks = y.2.blocks ∧ waitsOn s t)

/-- R129 to R131, R133, R284: `mon.arm` sends its access, an early fire standing until the arm is in place; `mon.wait` with
nothing armed gives reason 4, with an early fire that fire's, and parks while a line is armed or an arm is on its way;
`mon.clr` disarms, and ends a parked wait with reason 4.
Where the spec leaves a choice it rests on the model's own (log entry 45). -/
def Sys2Proof.Claims.MonitorInstructions : Prop :=
  (∀ h b s, Issues (.monArm h b) h s → Unstepped s →
    let c := acting (.monArm h b) h s
    let y := takeScalar s c (numN c.x.hb b.toNat)
    let a := { uniformAccess c .arm 0 5 y.1 0 with order := 0, coil := 0, policy := 0 }
    Passes y.2 a → inWindow y.1 = false → (ctx s).window = false →
    ∃ t, exec (.monArm h b) s = .next t ∧ (group t s.cur.g).fired = (group s s.cur.g).fired ∧ t.blocks = y.2.blocks ∧ t.mem = s.mem ∧ t.l2 = s.l2 ∧
      mfind t.accs s.nextId = some { a with todo := [[y.1.toNat / 65536]] }) ∧
  (∀ h a s, Issues (.monWait h a) h s → Unstepped s → (ctx s).window = false → (group s s.cur.g).fired = none →
    (group s s.cur.g).armed = none → armUnderway s s.cur.g = false → monNotice s s.cur.g = false →
    ∃ t, exec (.monWait h a) s = .next t ∧ (group t s.cur.g).monwhy = 4 ∧ t.mem = s.mem ∧ t.l2 = s.l2 ∧ t.accs = s.accs ∧
      t.blocks = (takeScalar s (acting (.monWait h a) h s) (numN (acting (.monWait h a) h s).x.ha a.toNat)).2.blocks) ∧
  (∀ h a s code, Issues (.monWait h a) h s → Unstepped s → (ctx s).window = false → (group s s.cur.g).fired = some code →
    armUnderway s s.cur.g = false →
    ∃ t, exec (.monWait h a) s = .next t ∧ (group t s.cur.g).monwhy = BitVec.ofNat 64 code ∧ (group t s.cur.g).fired = none ∧
      (group t s.cur.g).armed = none ∧ t.mem = s.mem) ∧
  (∀ h a s f, Issues (.monWait h a) h s → Unstepped s → Straight s f →
    armUnderway s s.cur.g = true ∨ ((group s s.cur.g).fired = none ∧ (group s s.cur.g).armed.isSome = true) →
    let x := (takeScalar s (acting (.monWait h a) h s) (numN (acting (.monWait h a) h s).x.ha a.toNat)).1
    ∃ t, exec (.monWait h a) s = .next t ∧ t.mem = s.mem ∧ t.l2 = s.l2 ∧
      (∀ y ∈ (group t s.cur.g).frags, y.id = f.id → ∃ limit, y.status = .monWait limit ∧ (x = 0 → limit = 0) ∧ (x ≠ 0 → x.toNat ≤ limit)) ∧
      (x ≠ 0 → (s.clock + x.toNat, Instr.monWaitTimeout s.cur.g f.id) ∈ t.agenda)) ∧
  (∀ h s f, Issues (.monClr h) h s → Unstepped s → Straight s f →
    ∃ t, exec (.monClr h) s = .next t ∧ (group t s.cur.g).armed = none ∧ (group t s.cur.g).fired = none ∧ t.mem = s.mem ∧ t.l2 = s.l2 ∧
      t.blocks = s.blocks ∧ t.accs = s.accs.filter (fun e => !(e.2.g == s.cur.g && e.2.kind == .arm))) ∧
  (∀ h s, Issues (.monClr h) h s → Unstepped s → monParked (acting (.monClr h) h s).g = true →
    ∃ t, exec (.monClr h) s = .next t ∧ (group t s.cur.g).monwhy = 4 ∧ (group t s.cur.g).armed = none ∧ (group t s.cur.g).fired = none ∧
      t.mem = s.mem ∧ t.l2 = s.l2)

/-- R120, R285, R320: `waitc` goes on when its class counter is low enough, else its fragment waits; on class F a pending
REFIRE_EXIT is raised, oldest first. -/
def Sys2Proof.Claims.WaitcWaits : Prop :=
  (∀ h n q s, Issues (.waitc h n q) h s → Unstepped s → (ctx s).window = false → (q = 3 → (group s s.cur.g).exits = []) →
    counter (group s s.cur.g) q.toNat ≤ n.toNat → doesNothing (.waitc h n q) h false s) ∧
  (∀ h n q s f, Issues (.waitc h n q) h s → Unstepped s → Straight s f → (q = 3 → (group s s.cur.g).exits = []) →
    n.toNat < counter (group s s.cur.g) q.toNat →
    ∃ t, exec (.waitc h n q) s = .next t ∧ t.blocks = s.blocks ∧ RegisterFrame s t ∧
      ∀ x ∈ (group t s.cur.g).frags, x.id = f.id → x.status = .classWait q.toNat n.toNat s.cur.pc) ∧
  (∀ h n s info rest, Issues (.waitc h n 3) h s → Unstepped s → (ctx s).window = false → (group s s.cur.g).exits = info :: rest →
    gate (.waitc h n 3) h (modGroup s s.cur.g (fun g => { g with exits := rest })) (ctx (modGroup s s.cur.g (fun g => { g with exits := rest }))) = .go →
    ∃ t, exec (.waitc h n 3) s = .next t ∧
      t = trapNow (modGroup s s.cur.g (fun g => { g with exits := rest })) (ctx (modGroup s s.cur.g (fun g => { g with exits := rest })))
        ⟨.refireExit, info, 0, 0⟩)

/-- R129 to R132, R285: monitors are armed and waited for, and `waitc` waits for its counters.
Where the spec leaves a choice it rests on the model's own (log entries 45 and 58). -/
def Obligations.MonitorAndCounterWaits : Prop := Sys2Proof.Claims.MonitorInstructions ∧ Sys2Proof.Claims.WaitcWaits

namespace Sys2Proof.Claims

/-- From `s` to `t` the operation `op` of the cursor's group has begun under the next identity and counts in its class (R118,
R119); no register, memory byte or cache line, and no other operation, has changed. -/
structure OpBegins (s t : State) (op : EngOp) : Prop where
  begun : mfind t.ops s.nextId = some op
  others : ∀ j, j ≠ s.nextId → mfind t.ops j = mfind s.ops j
  frame : Keeps s.cur.g { modGroup s s.cur.g (fun g => countOp g op.cls s.nextId) with ops := t.ops } t
  pfx : t.pfx = none

/-- The same of a class M operation, which may also start at once and take its positions. -/
structure TileBegins (s t : State) (op : EngOp) : Prop where
  begun : ∃ o, mfind t.ops s.nextId = some o ∧ o = { op with started := o.started, left := o.left, lines := o.lines }
  count : (group t s.cur.g).classM = (group s s.cur.g).classM ++ [(s.nextId, false)]
  regs : (group t s.cur.g).v = (group s s.cur.g).v ∧ (group t s.cur.g).s = (group s s.cur.g).s ∧
    (group t s.cur.g).p = (group s s.cur.g).p ∧ (group t s.cur.g).k = (group s s.cur.g).k
  rest : t = { s with groups := t.groups, blocks := t.blocks, ops := t.ops, agenda := t.agenda, claims := t.claims,
                      results := t.results, nextId := t.nextId, badRegs := t.badRegs, pfx := none }
  bad : ∀ e, e.2 < 2 ^ 20 → (e ∈ t.badRegs ↔ e ∈ s.badRegs)
  groups : ∀ j, j ≠ s.cur.g → mfind t.groups j = mfind s.groups j

/-- No block but one has changed. -/
def onlyBlock (s t : State) (b : Nat) : Prop := ∀ j, j ≠ b → mfind t.blocks j = mfind s.blocks j

end Sys2Proof.Claims

/-- R287 to R290: a copy that passes its checks begins, as line operations in ascending destination line; a `bcpy` of length
0 does nothing; one that fails a check traps with it and copies nothing. -/
def Sys2Proof.Claims.CopiesBegin : Prop :=
  let lanes (c : Ctx) (d e : BitVec 2) (a b : BitVec 6) : List LaneCopy :=
    (lanesOf c.lanes).map (fun l => (l, addr c d.toNat a.toNat l, addr c (e.toNat + 4) b.toNat l))
  (∀ h z d e b a s, Issues (.cpy h z d e b a) h s → Unstepped s → (ctx s).window = false →
    let c := acting (.cpy h z d e b a) h s
    let n := 4 * 2 ^ z.toNat
    cpyTrap s c n (lanes c d e a b) = none →
    let lines := lineOps n (lanes c d e a b)
    ∃ t, exec (.cpy h z d e b a) s = .next t ∧ t.blocks = s.blocks ∧
      OpBegins s t { opOf s c 0 .cpy with lines := lines, left := lines.length, policy := policyOf c, cpybar := (group s s.cur.g).cpybar }) ∧
  (∀ h z d e b a s w, Issues (.cpy h z d e b a) h s →
    cpyTrap s (acting (.cpy h z d e b a) h s) (4 * 2 ^ z.toNat) (lanes (acting (.cpy h z d e b a) h s) d e a b) = some w →
    ∃ t, exec (.cpy h z d e b a) s = .next t ∧ t = trapNow s (ctx s) w) ∧
  (∀ h q b a s, Issues (.bcpy h q b a) h s → Unstepped s → (ctx s).window = false →
    let c := acting (.bcpy h q b a) h s
    let x := takeScalar s c (numN c.x.hb b.toNat)
    let y := takeScalar x.2 c (numN c.x.hc q.toNat)
    let z := takeScalar y.2 c (numN c.x.ha a.toNat)
    (y.1 = 0 → ∃ t, exec (.bcpy h q b a) s = .next t ∧ t.blocks = z.2.blocks ∧ RegisterFrame s t) ∧
    (y.1 ≠ 0 → bcpyTrap z.2 c z.1 x.1 y.1 = none →
      ∃ t, exec (.bcpy h q b a) s = .next t ∧ t.blocks = z.2.blocks ∧
        OpBegins { s with blocks := z.2.blocks } t { opOf s c 1 .bcpy with
          src := x.1, dst := z.1, len := y.1.toNat, left := (z.1.toNat + y.1.toNat - 1) / 128 + 1 - z.1.toNat / 128
          policy := policyOf c, coil := coilOf c, home := (coilDie (block z.2 (group s s.cur.g).block) (coilOf c)).getD 0 }) ∧
    (∀ w, y.1 ≠ 0 → bcpyTrap z.2 c z.1 x.1 y.1 = some w →
      ∃ t, exec (.bcpy h q b a) s = .next t ∧ t = trapNow s (ctx s) w))

/-- R82, R292: `coil.open` of a closed coil opens it; a close or a drain of an open coil counts one class X operation
until its earlier tagged writes are acknowledged; of a closed coil each does nothing. -/
def Sys2Proof.Claims.CoilInstructions : Prop :=
  let b (s : State) : Nat := (group s s.cur.g).block
  (∀ h n q s, Issues (.coilOpen h n q) h s → Unstepped s → (ctx s).window = false →
    let c := acting (.coilOpen h n q) h s
    let y := takeScalar s c (numN c.x.hb n.toNat)
    coilOpenTrap y.2 c y.1 = none → coilDie (block s (b s)) q.toNat = none → coilDie (block y.2 (b s)) q.toNat = none →
    ∃ t, exec (.coilOpen h n q) s = .next t ∧ coilDie (block t (b s)) q.toNat = some y.1.toNat ∧ RegisterFrame s t ∧
      (∀ p, p ≠ q.toNat → mfind (block t (b s)).coils p = mfind (block y.2 (b s)).coils p) ∧ onlyBlock s t (b s)) ∧
  (∀ h n q s w, Issues (.coilOpen h n q) h s →
    let c := acting (.coilOpen h n q) h s
    let y := takeScalar s c (numN c.x.hb n.toNat)
    coilOpenTrap y.2 c y.1 = some w → ∃ t, exec (.coilOpen h n q) s = .next t ∧ t = trapNow s (ctx s) w) ∧
  (∀ h q s, Issues (.coilClose h q) h s → Unstepped s → (ctx s).window = false → (group s s.cur.g).migrated = false →
    ∃ t, exec (.coilClose h q) s = .next t ∧ coilDie (block t (b s)) q.toNat = none ∧ t.mem = s.mem ∧ t.l2 = s.l2 ∧ onlyBlock s t (b s) ∧
      (coilDie (block s (b s)) q.toNat = none → t.blocks = s.blocks ∧ RegisterFrame s t) ∧
      (coilDie (block s (b s)) q.toNat ≠ none →
        (mget (block t (b s)).coils q.toNat).drains = (mget (block s (b s)).coils q.toNat).drains ++ [s.nextId] ∧
        (group t s.cur.g).classX = (group s s.cur.g).classX ++ [(s.nextId, false)] ∧
        mfind t.ops s.nextId = some { opOf s (acting (.coilClose h q) h s) 1 (.drain q.toNat) with rebinding := true })) ∧
  (∀ h q s, Issues (.coilDrain h q) h s → Unstepped s → (ctx s).window = false → (group s s.cur.g).migrated = false →
    ∃ t, exec (.coilDrain h q) s = .next t ∧ coilDie (block t (b s)) q.toNat = coilDie (block s (b s)) q.toNat ∧ t.mem = s.mem ∧
      t.l2 = s.l2 ∧ onlyBlock s t (b s) ∧
      (coilDie (block s (b s)) q.toNat = none → t.blocks = s.blocks ∧ RegisterFrame s t) ∧
      (coilDie (block s (b s)) q.toNat ≠ none →
        (mget (block t (b s)).coils q.toNat).drains = (mget (block s (b s)).coils q.toNat).drains ++ [s.nextId] ∧
        (group t s.cur.g).classX = (group s s.cur.g).classX ++ [(s.nextId, false)] ∧
        mfind t.ops s.nextId = some (opOf s (acting (.coilDrain h q) h s) 1 (.drain q.toNat))))

/-- R85, R293: `mig` asks for the home of its address, and its fragment migrates; nothing is stored. -/
def Sys2Proof.Claims.MigrationBegins : Prop :=
  ∀ h b s f, Issues (.mig h b) h s → Unstepped s → Straight s f →
    let c := acting (.mig h b) h s
    let y := takeScalar s c (numN c.x.hb b.toNat)
    let a : Access := { (default : Access) with
      g := c.k, block := c.g.block, frag := f.id, lanes := f.mask, tids := tidsOf c.g f.mask, pc := c.pc, owner := c.o, launch := c.g.launch, die := dieOf c.k
      core := coreOf c.k, part := partOf c.k, kind := .mig, reqs := [⟨first c, y.1, 0, 0⟩] }
    Passes y.2 a → inWindow y.1 = false →
    ∃ t, exec (.mig h b) s = .next t ∧ Begins { s with blocks := y.2.blocks } t a ∧ t.blocks = y.2.blocks ∧
      ∀ x ∈ (group t s.cur.g).frags, x.id = f.id → x.status = .migrate ∧ x.pc = s.cur.next

/-- R82 to R86, R118, R287 to R290: copies, coils and migrations begin.
Where the spec leaves a choice it rests on the model's own (log entries 18, 41, 50 and 52). -/
def Obligations.CopiesCoilsAndMigration : Prop := Sys2Proof.Claims.CopiesBegin ∧ Sys2Proof.Claims.CoilInstructions ∧ Sys2Proof.Claims.MigrationBegins

/-- R295, R296: `tcfg` writes one field of a held tile's shape, landing at turn n + 1; a value the field does not take traps. -/
def Sys2Proof.Claims.TileShapeFields : Prop :=
  (∀ h f b t' s lo len v, Issues (.tcfg h f b t') h s → Unstepped s →
    let c := acting (.tcfg h f b t') h s
    let y := takeScalar s c (numN c.x.hb b.toNat)
    c.g.migrated = false → holdsTile y.2 c t'.toNat = true → shapeField f.toNat y.1.toNat = some (lo, len, v) →
    ∃ t, exec (.tcfg h f b t') s = .next t ∧
      Sent s t (s.cur.turn + 1) [.shape (tileKey s.cur.g t'.toNat) lo len v] [] false ∧ t.blocks = y.2.blocks ∧ RegisterFrame s t) ∧
  (∀ h f b t' s, Issues (.tcfg h f b t') h s →
    let c := acting (.tcfg h f b t') h s
    let y := takeScalar s c (numN c.x.hb b.toNat)
    c.g.migrated = false → holdsTile y.2 c t'.toNat = true → shapeField f.toNat y.1.toNat = none →
    ∃ t, exec (.tcfg h f b t') s = .next t ∧ t = trapNow s (ctx s) ⟨.tileShape, 0, 0, 0⟩) ∧
  shapeField 0 10 = some (0, 4, 10) ∧ shapeField 0 11 = none ∧ shapeField 1 32 = some (4, 5, 31) ∧ shapeField 1 0 = none ∧
  shapeField 2 33 = none ∧ shapeField 3 1024 = some (14, 10, 1023) ∧ shapeField 3 1025 = none ∧ shapeField 4 2 = some (24, 2, 2) ∧
  shapeField 4 3 = none

/-- R123, R301 to R304: `tld`, `tst` and `mma` that pass their checks begin one class M operation with the shapes and
coordinates they captured; the tiles themselves have not changed.
Where the spec leaves a choice it rests on the model's own (log entries 18 and 55). -/
def Obligations.TileOperationsBegin : Prop :=
  let move (mk : Hdr → BitVec 6 → BitVec 6 → BitVec 4 → Instr) (store : Bool) : Prop := ∀ h q b n s hd,
    Issues (mk h q b n) h s → Unstepped s → (ctx s).window = false →
    let c := acting (mk h q b n) h s
    let y := takeScalar s c (numN c.x.hb b.toNat)
    let bl := block y.2 c.g.block
    let sh := (tileAt bl (tileKey c.k n.toNat)).shape
    let m := sregOf (numN c.x.hc q.toNat)
    let op := { opOf s c 2 (if store then .tst else .tld) with
      tiles := [tileKey c.k n.toNat], shapes := [sh], record := hd.record, coords := [rs c.g m, rs c.g (m + 1), rs c.g (m + 2), rs c.g (m + 3)] }
    c.g.migrated = false → rota s c.o 5 ≠ 0 → holdsTile y.2 c n.toNat = true → handleAt bl y.1 = some hd → hd.refire = false →
    moveTrap y.2 c store sh op = none →
    ∃ t, exec (mk h q b n) s = .next t ∧ TileBegins s t op ∧ t.blocks = y.2.blocks
  move .tld false ∧ move .tst true ∧
  (∀ h q b r d s, Issues (.mma h q b r d) h s → Unstepped s → (ctx s).window = false →
    let c := acting (.mma h q b r d) h s
    let sh (n : Nat) : BitVec 64 := (tileAt (block s c.g.block) (tileKey c.k n)).shape
    let op := { opOf s c 2 .mma with
      tiles := (if shFormat (sh d.toNat) = 8 then [tileKey c.k d.toNat, tileKey c.k (d.toNat + 1)] else [tileKey c.k d.toNat]) ++
        [tileKey c.k b.toNat, tileKey c.k q.toNat]
      shapes := [sh d.toNat, sh b.toNat, sh q.toNat], semiring := r.toNat, left := mmaPositions r.toNat (shFormat (sh q.toNat)) }
    c.g.migrated = false → rota s c.o 5 ≠ 0 → mmaTrap s c r.toNat d.toNat b.toNat q.toNat = none →
    ∃ t, exec (.mma h q b r d) s = .next t ∧ TileBegins s t op ∧ t.blocks = s.blocks) ∧
  (∀ h q b r d s w, Issues (.mma h q b r d) h s →
    let c := acting (.mma h q b r d) h s
    c.g.migrated = false → rota s c.o 5 ≠ 0 → mmaTrap s c r.toNat d.toNat b.toNat q.toNat = some w →
    ∃ t, exec (.mma h q b r d) s = .next t ∧ t = trapNow s (ctx s) w)

/-- R40, R156, R306: `talloc` beyond the quota clears k0; a request that fits is granted at once where no other waits; `tfree`
gives back the highest tiles; `tzero` clears a tile, and rows move between a tile and a vector register. -/
def Sys2Proof.Claims.TileStorageInstructions : Prop :=
  let bl (s : State) : Nat := (group s s.cur.g).block
  (∀ h b s, Issues (.talloc h b) h s → Unstepped s → (ctx s).window = false →
    let c := acting (.talloc h b) h s
    let y := takeScalar s c (numN c.x.hb b.toNat)
    c.g.migrated = false → badCount y.1 = false → tileQuota s c.o < y.1.toNat →
    ∃ t, exec (.talloc h b) s = .next t ∧ Sent s t (s.cur.turn + 1) [.k 0 false] [] true ∧ t.blocks = y.2.blocks ∧ RegisterFrame s t) ∧
  (∀ h b s f, Issues (.talloc h b) h s → Unstepped s → Straight s f →
    let c := acting (.talloc h b) h s
    let y := takeScalar s c (numN c.x.hb b.toNat)
    let part := partOf s.cur.g
    c.g.migrated = false → badCount y.1 = false → tileWants y.2 c.o (coreKey s.cur.g) part = [] →
    (block y.2 (bl s)).owner = c.o → 32 * (block y.2 (bl s)).die + (block y.2 (bl s)).core = coreKey s.cur.g →
    (mfind y.2.blocks (bl s)).isSome = true → (y.2.blocks.map (·.1)).Pairwise (· < ·) →
    tilesUsed y.2 c.o (coreKey s.cur.g) part + y.1.toNat ≤ tileQuota s c.o →
    ∃ t, exec (.talloc h b) s = .next t ∧ mget (block t (bl s)).ntiles part = mget (block y.2 (bl s)).ntiles part + y.1.toNat ∧
      (∃ r, mfind t.results (s.nextId + 1) = some r ∧ r.g = s.cur.g ∧ r.writes = [.k 0 true]) ∧
      (group t s.cur.g).s = (group s s.cur.g).s ∧ (group t s.cur.g).v = (group s s.cur.g).v ∧ t.mem = s.mem ∧ t.l2 = s.l2) ∧
  (∀ h b s, Issues (.tfree h b) h s → Unstepped s → (ctx s).window = false →
    let c := acting (.tfree h b) h s
    let y := takeScalar s c (numN c.x.hb b.toNat)
    let part := partOf s.cur.g
    c.g.migrated = false → badCount y.1 = false → y.1.toNat ≤ tilesHeld (block y.2 (bl s)) part →
    ∃ t, exec (.tfree h b) s = .next t ∧ tilesHeld (block t (bl s)) part = tilesHeld (block y.2 (bl s)) part - y.1.toNat ∧
      (∀ j, j < 64 → ¬ (16 * part + (tilesHeld (block y.2 (bl s)) part - y.1.toNat) ≤ j ∧ j < 16 * part + tilesHeld (block y.2 (bl s)) part) →
        tileAt (block t (bl s)) j = tileAt (block y.2 (bl s)) j) ∧ (group t s.cur.g).s = (group s s.cur.g).s ∧
      (group t s.cur.g).v = (group s s.cur.g).v ∧ t.mem = s.mem ∧ t.l2 = s.l2) ∧
  (∀ h b s, Issues (.tfree h b) h s →
    let c := acting (.tfree h b) h s
    let y := takeScalar s c (numN c.x.hb b.toNat)
    c.g.migrated = false → badCount y.1 = true ∨ tilesHeld (block y.2 (bl s)) (partOf s.cur.g) < y.1.toNat → c.g.block = bl s →
    ∃ t, exec (.tfree h b) s = .next t ∧ t = trapNow s (ctx s) ⟨.illegalOp, 0, 0, 0⟩) ∧
  (∀ h n s, Issues (.tzero h n) h s → Unstepped s → (ctx s).window = false → (group s s.cur.g).migrated = false →
    holdsTile s (ctx s) n.toNat = true →
    ∃ t, exec (.tzero h n) s = .next t ∧ RegisterFrame s t ∧ onlyBlock s t (bl s) ∧
      tileAt (block t (bl s)) (tileKey s.cur.g n.toNat) = ⟨0, 0, (tileAt (block s (bl s)) (tileKey s.cur.g n.toNat)).shape, false⟩ ∧
      (∀ j, j ≠ tileKey s.cur.g n.toNat → tileAt (block t (bl s)) j = tileAt (block s (bl s)) j)) ∧
  (∀ h n a s, Issues (.trowget h n a) h s → Unstepped s → (ctx s).window = false → (group s s.cur.g).migrated = false →
    holdsTile s (ctx s) n.toNat = true → (tileAt (block s (bl s)) (tileKey s.cur.g n.toNat)).poisoned = false →
    let c := acting (.trowget h n a) h s
    let word (l : Nat) : BitVec 32 := (tileAt (block s (bl s)) (tileKey s.cur.g n.toNat)).data.extractLsb' (1024 * c.x.x.toNat + 32 * l) 32
    ∃ t, exec (.trowget h n a) s = .next t ∧
      Sent s t (s.cur.turn + 1) ((lanesOf c.lanes).map (fun l => .v a.toNat l (word l))) [] true ∧ t.blocks = s.blocks ∧ RegisterFrame s t) ∧
  (∀ h n a s, Issues (.trowset h n a) h s → Unstepped s → (ctx s).window = false → (group s s.cur.g).migrated = false →
    holdsTile s (ctx s) n.toNat = true →
    let c := acting (.trowset h n a) h s
    let data (t : State) : BitVec 32768 := (tileAt (block t (bl s)) (tileKey s.cur.g n.toNat)).data
    ∃ t, exec (.trowset h n a) s = .next t ∧ RegisterFrame s t ∧ onlyBlock s t (bl s) ∧
      (∀ l, l < 32 → (data t).extractLsb' (1024 * c.x.x.toNat + 32 * l) 32 = if c.lanes.getLsbD l then rv (group s s.cur.g) a.toNat l else 0) ∧
      (∀ i, i < 32768 → ¬ (1024 * c.x.x.toNat ≤ i ∧ i < 1024 * c.x.x.toNat + 1024) → (data t).getLsbD i = (data s).getLsbD i))

/-- R40, R41, R295, R296: tile shape fields, and the granting and return of tiles.
Where the spec leaves a choice it rests on the model's own (log entry 53). -/
def Obligations.TileShapesAndStorage : Prop := Sys2Proof.Claims.TileShapeFields ∧ Sys2Proof.Claims.TileStorageInstructions

/-- R298, R300: `seal` reads its record's 64 or 256 bytes; `seal.free` takes a handle back, and a number that is no handle
traps.
Where the spec leaves a choice it rests on the model's own (log entries 32, 47 and 106). -/
def Obligations.SealInstructions : Prop :=
  let reads (mk : Hdr → BitVec 6 → BitVec 6 → Instr) (refire : Bool) (n : Nat) : Prop := ∀ h b a s, Issues (mk h b a) h s → Unstepped s →
    let c := acting (mk h b a) h s
    let y := takeScalar s c (numN c.x.hb b.toNat)
    let acc := accessOf c (.sealRec refire) (numN c.x.ha a.toNat) 5 c.f.mask
      ((List.range n).map (fun j => ⟨j, y.1 + BitVec.ofNat 64 (64 * j), 0, 0⟩))
    c.g.migrated = false → Passes y.2 acc →
    ∃ t, exec (mk h b a) s = .next t ∧ Begins { s with blocks := y.2.blocks } t acc ∧ t.blocks = y.2.blocks
  reads .sealTensor false 1 ∧ reads .sealRefire true 4 ∧
  (∀ h b s, Issues (.sealFree h b) h s → Unstepped s → (ctx s).window = false → (group s s.cur.g).migrated = false →
    let c := acting (.sealFree h b) h s
    let y := takeScalar s c (numN c.x.hb b.toNat)
    (handleAt (block s c.g.block) y.1).isSome = true →
    ∃ t, exec (.sealFree h b) s = .next t ∧ RegisterFrame s t ∧ onlyBlock s t c.g.block ∧
      mfind (block t c.g.block).handles y.1.toNat = none ∧
      (∀ j, j ≠ y.1.toNat → mfind (block t c.g.block).handles j = mfind (block s c.g.block).handles j)) ∧
  (∀ h b s, Issues (.sealFree h b) h s → (group s s.cur.g).migrated = false → (ctx s).window = false →
    let c := acting (.sealFree h b) h s
    (handleAt (block s c.g.block) (takeScalar s c (numN c.x.hb b.toNat)).1).isSome = false →
    ∃ t, exec (.sealFree h b) s = .next t ∧ t = trapNow s (ctx s) ⟨.handleInvalid, 0, 0, 0⟩)

/-- R311 to R314, R323: `rfire.go` queues a run on its core, `rfire.stat` reads its status, `rfire.abort` marks a running
one; each traps as R311 orders.
Where the spec leaves a choice it rests on the model's own (log entries 57, 58 and 105). -/
def Obligations.RefireInstructions : Prop :=
  (∀ h b s hd, Issues (.rfireGo h b) h s → Unstepped s → (ctx s).window = false →
    let c := acting (.rfireGo h b) h s
    let y := takeScalar s c (numN c.x.hb b.toNat)
    rfireTrap y.2 c y.1 true = none → handleAt (block y.2 c.g.block) y.1 = some hd →
    ∃ t, exec (.rfireGo h b) s = .next t ∧
      mfind t.runs s.nextId = some { (default : RefRun) with
        op := s.nextId + 1, at_ := s.clock, owner := c.o, die := dieOf c.k, core := coreOf c.k, part := partOf c.k, g := c.k
        handle := y.1.toNat, record := hd.record, va := hd.va, state := 1, phase := .start, exit := 0xFF } ∧
      mfind (block t c.g.block).handles y.1.toNat = some { hd with run := some s.nextId } ∧
      mfind t.ops (s.nextId + 1) = some (opOf s c 3 .rfire) ∧
      (group t s.cur.g).classF = (group s s.cur.g).classF ++ [(s.nextId + 1, false)] ∧
      (group t s.cur.g).s = (group s s.cur.g).s ∧ (group t s.cur.g).v = (group s s.cur.g).v ∧ t.mem = s.mem ∧ t.l2 = s.l2 ∧
      onlyBlock s t c.g.block) ∧
  (∀ h b a s hd, Issues (.rfireStat h b a) h s → Unstepped s → (ctx s).window = false → (group s s.cur.g).exits = [] →
    mset s.groups s.cur.g (group s s.cur.g) = s.groups →
    let c := acting (.rfireStat h b a) h s
    let y := takeScalar s c (numN c.x.hb b.toNat)
    let x := match hd.run with
      | none => 0xFF#64
      | some r => let x := mget s.runs r
        BitVec.ofNat 64 (x.exit.toNat + 256 * x.rung + 2 ^ 16 * min x.total 65535 + 2 ^ 32 * (if x.state = 4 then 2 else x.state))
    let w := giveScalar y.2 c (numN c.x.ha a.toNat) x
    rfireTrap y.2 c y.1 false = none → handleAt (block y.2 c.g.block) y.1 = some hd →
    ∃ t, exec (.rfireStat h b a) s = .next t ∧ Sent s t (s.cur.turn + 2) w.1 [] true ∧ t.blocks = w.2.blocks ∧ RegisterFrame s t) ∧
  (∀ h b s hd r, Issues (.rfireAbort h b) h s → Unstepped s → (ctx s).window = false →
    let c := acting (.rfireAbort h b) h s
    let y := takeScalar s c (numN c.x.hb b.toNat)
    rfireTrap y.2 c y.1 false = none → handleAt (block y.2 c.g.block) y.1 = some hd → hd.run = some r → (mget s.runs r).state = 2 →
    ∃ t, exec (.rfireAbort h b) s = .next t ∧ mfind t.runs r = some { mget s.runs r with abort := true } ∧ t.blocks = y.2.blocks ∧
      RegisterFrame { s with runs := t.runs } t ∧ (∀ j, j ≠ r → mfind t.runs j = mfind s.runs j)) ∧
  (∀ h b s w, Issues (.rfireGo h b) h s →
    let c := acting (.rfireGo h b) h s
    let y := takeScalar s c (numN c.x.hb b.toNat)
    rfireTrap y.2 c y.1 true = some w → ∃ t, exec (.rfireGo h b) s = .next t ∧ t = trapNow s (ctx s) w)

namespace Sys2Proof.Claims

/-- A group's one fragment, whose threads stand at no reconvergence entry, with its status. -/
def Waits (s : State) (k : Nat) (x : Frag) (st : FragStatus) : Prop :=
  (group s k).frags = [x] ∧ x.mask ≠ 0 ∧ (group s k).stack = [] ∧ x.status = st

/-- The fragment may issue again from the next turn (R125, R131, R285). -/
def GoesOn (s t : State) (k : Nat) (x : Frag) : Prop :=
  (group t k).frags = [{ x with status := .run, notBefore := max x.notBefore ((s.clock + 7) / 8) }]

/-- One byte of a block's scratchpad. -/
def spadByte (s : State) (b i : Nat) : BitVec 8 := mget (block s b).spad i

/-- An event with nothing to act on changes nothing. -/
def idles (e : Instr) (s : State) : Prop := ∃ t, exec e s = .next t ∧ t = s

end Sys2Proof.Claims

/-- R147, R155, R179, R216: a fragment gains priority; a guarded branch with no window resolves: the threads that take it and
those that do not go their ways in turn n + 5, and the predictor learns the mask. -/
def Sys2Proof.Claims.FragmentEvents : Prop :=
  (∀ k f s, ∃ t, exec (.fragmentPriority k f) s = .next t ∧ t = { s with groups := t.groups } ∧ SameGroup (group s k) (group t k) ∧
    (∀ x ∈ (group t k).frags, x.id = f → x.prio = true) ∧ (∀ j, j ≠ k → mfind t.groups j = mfind s.groups j)) ∧
  (∀ k f s, (group s k).window = none → idles (.branchResolution k f) s) ∧
  (∀ k f s w x, (group s k).window = some w → w.frag = f → w.spec = false → (group s k).dbgctl.getLsbD 1 = false →
    (group s k).frags = [x] → x.id = f → x.mask = w.active → (group s k).stack = [] → (group s k).loop = none →
    w.target ≠ w.fall → w.taken ≠ 0 → w.active &&& ~~~w.taken ≠ 0 → w.taken &&& ~~~w.active = 0 → s.accs = [] →
    let key := predKey (group s k).owner (partKey k) w.index
    let e := mget s.preds key
    ∃ t, exec (.branchResolution k f) s = .next t ∧ (group t k).window = none ∧
      threadsAt (group t k) w.taken (fun _ => w.target) (turnOf s.clock) ∧
      threadsAt (group t k) (w.active &&& ~~~w.taken) (fun _ => w.fall) (turnOf s.clock) ∧
      mget t.preds key = ⟨(e.mask &&& ~~~w.active) ||| w.taken,
        if e.mask &&& w.active = w.taken then (if e.conf = 3 then 3 else e.conf + 1) else (if e.conf = 0 then 0 else e.conf - 1)⟩ ∧
      (group t k).v = (group s k).v ∧ (group t k).s = (group s k).s ∧ (group t k).p = (group s k).p ∧ t.mem = s.mem ∧ t.l2 = s.l2)

/-- R33, R149, R150, R152: a saggar with one group's records or fewer fires into its stage's first empty slot: one fragment at the
saggar's PC, a lane for each record in ascending thread index, with the record's registers. -/
def Sys2Proof.Claims.SaggarFires : Prop :=
  (∀ b part stage pc s, mfind s.blocks b = none → idles (.saggarTimeout b part stage pc) s) ∧
  (∀ b part stage pc s y k, (mfind s.blocks b).isSome = true → (block s b).saggars = [y] → mayFire s b y = true → y.records ≠ [] →
    y.records.length ≤ 32 → (stageSlots (block s b) y.part y.stage).find? (fun k => !(group s k).live) = some k →
    ∃ t, exec (.saggarTimeout b part stage pc) s = .next t ∧ (block t b).saggars = [] ∧ (group t k).live = true ∧
      (∃ f, (group t k).frags = [f] ∧ f.pc = y.pc ∧ f.mask = maskOf (List.range y.records.length) ∧ f.notBefore = (s.clock + 15) / 8 ∧ f.status = .run) ∧
      (∀ i r, (byThread y.records)[i]? = some r → mget (group t k).tid i = r.tid ∧ ∀ j x, r.regs[j]? = some x → rv (group t k) j i = x) ∧
      (∀ j, j ≠ k → mfind t.groups j = mfind s.groups j) ∧ t.mem = s.mem ∧ t.l2 = s.l2)

/-- R147 to R152, R179: fragments split, meet and resume, and saggars form groups.
Where the spec leaves a choice it rests on the model's own (log entries 9, 31 and 101). -/
def Obligations.FragmentsAndSaggars : Prop := Sys2Proof.Claims.FragmentEvents ∧ Sys2Proof.Claims.SaggarFires

/-- R112, R125, R130, R131, R133, R282: what parked fragments wait for lets them go on: a barrier phase, a fire notice, a time limit, a
latch; a notice that finds nobody parked, or an arm on its way, is kept, and a time limit waits for an arm to be in place.
Where the spec leaves a choice it rests on the model's own (log entry 45). -/
def Obligations.WakeEvents : Prop :=
  (∀ k f s x va gen, Waits s k x (.barWait va gen) → x.id = f → launchFlag s (group s k) 0 = false → overWindow s k va = false →
    ∃ t, exec (.barrierWake k f) s = .next t ∧ GoesOn s t k x ∧ t = { s with groups := t.groups } ∧ SameGroup (group s k) (group t k)) ∧
  (∀ k code s, monParked (group s k) = false ∨ armUnderway s k = true →
    ∃ t, exec (.monitorWake k code) s = .next t ∧ t = { s with groups := t.groups } ∧
      group t k = { group s k with fired := some code } ∧ (∀ j, j ≠ k → mfind t.groups j = mfind s.groups j)) ∧
  (∀ k code s x limit, Waits s k x (.monWait limit) → armUnderway s k = false →
    ∃ t, exec (.monitorWake k code) s = .next t ∧ GoesOn s t k x ∧ (group t k).monwhy = BitVec.ofNat 64 code ∧ (group t k).fired = none ∧
      (group t k).armed = none ∧ t.mem = s.mem ∧ (group t k).v = (group s k).v ∧ (group t k).s = (group s k).s) ∧
  (∀ k f s x limit, Waits s k x (.monWait limit) → x.id = f → limit ≠ 0 → limit ≤ ocyc s (group s k).owner → s.agenda = [] →
    armUnderway s k = false → (group s k).fired = none →
    ∃ t, exec (.monWaitTimeout k f) s = .next t ∧ GoesOn s t k x ∧ (group t k).monwhy = 1 ∧ (group t k).armed = none ∧ t.mem = s.mem ∧
      (group t k).v = (group s k).v ∧ (group t k).s = (group s k).s) ∧
  (∀ k f s x limit, Waits s k x (.monWait limit) → x.id = f → armUnderway s k = true ∨ ((group s k).fired = none ∧
    (group s k).armed.isSome = true ∧ (limit = 0 ∨ ocyc s (group s k).owner < limit)) → idles (.monWaitTimeout k f) s) ∧
  (∀ id s, mfind s.accs id = none → idles (.latchGrant id) s) ∧
  (∀ id s a x, mfind s.accs id = some a → a.kind = .lacq false → a.scope < 4 → a.op = none → x.id = a.frag → Waits s a.g x (.mem id) →
    mfind s.launches a.launch = none →
    ∃ t, exec (.latchGrant id) s = .next t ∧ GoesOn s t a.g x ∧ mfind t.accs id = none ∧ t = { s with groups := t.groups, accs := mdel s.accs id, seen := s.seen.filter (fun x => x.2.2 != id) } ∧
      SameGroup (group s a.g) (group t a.g))

/-- R38, R97, R128, R274: a pass of a scratchpad store writes its lane's bytes and no other byte; a pass of a load whose
last it is sends the bytes to the registers.
Where the spec leaves a choice it rests on the model's own (log entry 37). -/
def Obligations.ScratchpadPasses : Prop :=
  (∀ id s, mfind s.accs id = none → idles (.lspAccess id) s) ∧
  (∀ id s a l n b off, mfind s.accs id = some a → a.kind = .store n → a.passes = [[l]] → a.waiting = 0 → a.order = 0 → a.checked = true →
    a.transit = false → vacant s a.owner 4 = false → a.op = none → a.avail ≤ s.clock → mustFollow s id a = false → mfind s.launches a.launch = none →
    spadTarget s a (reqOf a l) = some (b, off) → b = a.block →
    ∃ t, exec (.lspAccess id) s = .next t ∧
      (∀ i, i < n → spadByte t b (off + i) = BitVec.ofNat 8 ((reqOf a l).data.toNat / 2 ^ (8 * i))) ∧
      (∀ i, i < off ∨ off + n ≤ i → spadByte t b i = spadByte s b i) ∧
      (∀ j, j ≠ b → mfind t.blocks j = mfind s.blocks j) ∧ mfind t.accs id = none ∧ t.groups = s.groups ∧ t.mem = s.mem ∧ t.l2 = s.l2) ∧
  (∀ id s a l sg n off, mfind s.accs id = some a → a.kind = .load sg n → a.spad = true → a.passes = [[l]] → a.waiting = 0 → a.order = 0 →
    a.checked = true → a.transit = false → vacant s a.owner 4 = false → a.op = none → a.window = none → a.got = [] → a.avail ≤ s.clock → mustFollow s id a = false →
    mfind s.launches a.launch = none → a.lanes.getLsbD l = true → (reqOf a l).va.toNat = off → (block s a.block).spadBad = [] → n ≤ 16 →
    ∃ t, exec (.lspAccess id) s = .next t ∧
      mfind t.results s.nextId = some ⟨a.g, (s.clock + 11) / 8,
        loadWrites a sg n l (BitVec.ofNat 1024 (numOf (spadTake (block s a.block) off n))), 0, true, a.frag⟩ ∧
      ((s.clock + 11) / 8 * 8, Instr.resultWrite s.nextId) ∈ t.agenda ∧
      t.blocks = s.blocks ∧ mfind t.accs id = none ∧ t.groups = s.groups ∧ t.mem = s.mem ∧ t.l2 = s.l2)

/-- R45, R75: a request enters its slice's stream; the stream's oldest write merges, in its position, the bytes of its mask into
the line, and no other line changes; the oldest read of a whole line is answered with it.
Where the spec leaves a choice it rests on the model's own (log entries 27 and 104). -/
def Obligations.SliceServes : Prop :=
  (∀ id s, mfind s.reqs id = none → idles (.l2Access id) s) ∧
  (∀ old new : BitVec 1024, ∀ mask : BitVec 128, ∀ i, i < 128 →
    ext (mergeLine old new mask) (8 * i) 8 = if mask.getLsbD i then ext new (8 * i) 8 else ext old (8 * i) 8) ∧
  (∀ id s r, mfind s.reqs id = some r → r.entered = none →
    ∃ t, exec (.l2Access id) s = .next t ∧ mfind t.reqs id = some { r with entered := some s.nextId } ∧
      (∃ d, s.clock ≤ d ∧ (d, Instr.l2Access id) ∈ t.agenda) ∧ t.mem = s.mem ∧ t.l2 = s.l2 ∧ t.groups = s.groups ∧ t.blocks = s.blocks) ∧
  (∀ id s r i mask data l, mfind s.reqs id = some r → r.kind = .write mask data → r.agent = .acc i → r.entered.isSome = true →
    vacant s r.owner 7 = false → oldest s r.owner (sliceKey r.home r.line) = some (id, r) →
    r.home = homeOf (r.line * 128) → r.home ≠ r.die → l2Find s r.owner r.home r.line false = some l → l.bad = false →
    ∃ t, exec (.l2Access id) s = .next t ∧
      (∃ m, l2Find t r.owner r.home r.line false = some m ∧ m.data = mergeLine l.data data mask ∧ m.valid = l.valid ||| mask ∧
        m.dirty = l.dirty ||| mask) ∧
      (∀ o d n rep, ¬ (o = r.owner ∧ d = r.home ∧ n = r.line ∧ rep = false) → l2Find t o d n rep = l2Find s o d n rep) ∧
      t.mem = s.mem ∧ t.blocks = s.blocks ∧ (∃ d, (d, Instr.circuitMessageArrival (t.nextId - 1)) ∈ t.agenda)) ∧
  (∀ id s r l lanes, mfind s.reqs id = some r → r.kind = .read lanes → r.rep = false → r.entered.isSome = true →
    vacant s r.owner 7 = false → oldest s r.owner (sliceKey r.home r.line) = some (id, r) → r.home = r.die →
    l2Find s r.owner r.home r.line false = some l → l.bad = false → l.valid = BitVec.allOnes 128 → l.poisoned = false →
    ∃ t, exec (.l2Access id) s = .next t ∧ mfind t.reqs id = some { r with data := l.data, served := true } ∧
      (s.clock + 10, Instr.loadDataArrival id) ∈ t.agenda ∧ t.mem = s.mem ∧ t.groups = s.groups ∧ t.blocks = s.blocks)

/-- R59 to R63, R75: channel positions that the owner holds serve fills and write-backs; fill data makes a line whole; replies reach who asked;
a message that arrives acts as what it carries.
Where the spec leaves a choice it rests on the model's own (log entry 27). -/
def Obligations.MemoryDataMoves : Prop :=
  (∀ id s, mfind s.reqs id = none → idles (.loadDataArrival id) s) ∧
  (∀ id s r w x, mfind s.reqs id = some r → r.agent = .walk w → mfind s.walks w = some x →
    ∃ t, exec (.loadDataArrival id) s = .next t ∧ mfind t.reqs id = none ∧ mfind t.walks w = some { x with data := some r.data } ∧
      (s.clock, Instr.walkReadReturn w) ∈ t.agenda ∧ t.mem = s.mem ∧ t.groups = s.groups ∧ t.l2 = s.l2) ∧
  (∀ id s r i, mfind s.reqs id = some r → r.agent = .inbound i →
    ∃ t, exec (.loadDataArrival id) s = .next t ∧ t = { s with
      reqs := mdel s.reqs id, inbound := mdel s.inbound i
      returned := s.returned ++ [(i, BitVec.ofNat 512 (r.data.toNat / 2 ^ (8 * ((mget s.inbound i).gpa.toNat % 128))), false)] }) ∧
  (∀ c s, mfind s.channels c = none → idles (.l2FillArrival c) s) ∧
  (∀ c s r l, mfind s.channels c = some r → l2Find s r.owner r.die r.line false = some l → s.reqs = [] →
    ∃ t, exec (.l2FillArrival c) s = .next t ∧ t = { s with channels := mdel s.channels c, l2 := t.l2 } ∧
      (∃ m, l2Find t r.owner r.die r.line false = some m ∧ m.valid = BitVec.allOnes 128 ∧
        m.data = mergeLine (mergeLine r.data r.kept r.mask) l.data l.valid ∧ m.dirty = l.dirty) ∧
      (∀ o d n rep, ¬ (o = r.owner ∧ d = r.die ∧ n = r.line ∧ rep = false) → l2Find t o d n rep = l2Find s o d n rep)) ∧
  (∀ die slice o s, (∀ e ∈ s.channels, e.2.owner ≠ o) → idles (.channelAccess die slice o) s) ∧
  (∀ die slice o s c r, s.channels = [(c, r)] → r.owner = o → r.die = die → sliceOf (r.line * 128) = slice → r.served = false →
    (∃ e, r.entered = some e ∧ e ≤ s.clock) → s.clock % 48 / 3 < 15 → (rota s o 9).getLsbD (s.clock % 48 / 3) = true →
    bankGroup r.line = (s.clock % 48 / 3 + s.clock / 48) % 8 → s.poison = [] → s.errors = [] → Memory.wf s.mem = true →
    ∃ t, exec (.channelAccess die slice o) s = .next t ∧
      (r.write = true → r.mask = BitVec.allOnes 128 → r.poisoned = false →
        t = { s with channels := [], mem := t.mem, sealedUnits := t.sealedUnits } ∧
        (∀ i, i < 128 → memGet t.mem (r.line * 128 + i) = BitVec.ofNat 8 (r.kept.toNat / 2 ^ (8 * i))) ∧
        (∀ i, i < r.line * 128 ∨ r.line * 128 + 128 ≤ i → memGet t.mem i = memGet s.mem i)) ∧
      (r.write = false → t = { s with channels := t.channels, agenda := t.agenda } ∧
        t.channels = [(c, { r with served := true, data := stackLine s r.owner r.line, poisoned := false })] ∧
        (s.clock + 30, Instr.l2FillArrival c) ∈ t.agenda)) ∧
  (∀ die slice o s c r, s.channels = [(c, r)] → r.owner = o → r.die = die → sliceOf (r.line * 128) = slice → r.served = false →
    r.entered.isSome = true → 15 ≤ s.clock % 48 / 3 ∨ (rota s o 9).getLsbD (s.clock % 48 / 3) = false →
    ∃ t, exec (.channelAccess die slice o) s = .next t ∧ t = { s with agenda := t.agenda }) ∧
  (∀ m s, mfind s.messages m = none → idles (.circuitMessageArrival m) s) ∧
  (∀ m s x k code, mfind s.messages m = some x → x.payload = .fire k code →
    ∃ t, exec (.circuitMessageArrival m) s = .next t ∧
      t = { s with messages := mdel s.messages m, agenda := insertEvent s.agenda s.clock (.monitorWake k code) }) ∧
  (∀ m s x n, mfind s.messages m = some x → x.payload = .groupState n →
    ∃ t, exec (.circuitMessageArrival m) s = .next t ∧
      t = { s with messages := mdel s.messages m, agenda := insertEvent s.agenda s.clock (.migrationStateArrival n) })

/-- R13 to R23: a granule found in the core TLB is taken, one that is not enters the miss queue; the die TLB answers it or a walk
begins; a walk reads entries from the root down: a returning table entry leads to the next level's, a leaf ends its stage, one of
a contiguous run has the run's other line read; it fails with its reason, and at its end the translation is installed.
Where the spec leaves a choice it rests on the model's own (log entries 10, 22, 98 and 99). -/
def Obligations.TranslationEvents : Prop :=
  (∀ id s, mfind s.accs id = none → idles (.coreTlbLookup id) s) ∧
  (∀ id s a g next rest x, mfind s.accs id = some a → a.kind.apart = false → vacant s a.owner 4 = false → a.todo = [g] :: next :: rest →
    s.coreTlb.any (fun e => e.bad) = false → tlbFind s.coreTlb a.owner a.coreKey (g * 65536) false = some x →
    ∃ t, exec (.coreTlbLookup id) s = .next t ∧ mfind t.accs id = some { a with todo := next :: rest, xlats := a.xlats ++ [x.x] } ∧
      (∃ d, s.clock ≤ d ∧ (d, Instr.coreTlbLookup id) ∈ t.agenda) ∧ t.mem = s.mem ∧ t.groups = s.groups ∧ t.misses = s.misses) ∧
  (∀ id s a g next rest, mfind s.accs id = some a → a.kind.apart = false → vacant s a.owner 4 = false → a.todo = [g] :: next :: rest →
    s.coreTlb.any (fun e => e.bad) = false →
    tlbFind s.coreTlb a.owner a.coreKey (g * 65536) false = none → missAt s a.owner a.coreKey g = none →
    (missesOf s a.owner a.coreKey).length < 16 →
    ∃ t, exec (.coreTlbLookup id) s = .next t ∧ mfind t.accs id = some { a with todo := next :: rest, missing := g :: a.missing } ∧
      mfind t.misses s.nextId = some ⟨a.owner, a.die, a.core, g, a.kind.code, [id], [], none, false⟩ ∧ t.mem = s.mem ∧ t.groups = s.groups) ∧
  (∀ m s, mfind s.misses m = none → idles (.dieTlbLookup m) s) ∧
  (∀ m s x e, mfind s.misses m = some x → vacant s x.owner 8 = false → x.direct = false → s.dieTlb.any (fun e => e.bad) = false →
    dieFind s x.owner x.die (x.granule * 65536) false = some e → cacheable s x.owner e.x = true → lanesOf (owner s x.owner).ctlb ≠ [] →
    x.accs = [] → x.fetchers = [] → (∀ y ∈ s.accs, y.2.surplus = []) →
    ∃ t, exec (.dieTlbLookup m) s = .next t ∧ mfind t.misses m = none ∧
      (∃ y ∈ t.coreTlb, y.x = e.x ∧ y.owner = x.owner ∧ y.at_ = 32 * x.die + x.core) ∧ t.mem = s.mem ∧ t.groups = s.groups ∧ t.walks = s.walks) ∧
  (∀ m s x, mfind s.misses m = some x → vacant s x.owner 8 = false → s.dieTlb = [] → s.walks = [] →
    ∃ t, exec (.dieTlbLookup m) s = .next t ∧ mfind t.misses m = some { x with walk := some s.nextId } ∧
      (∃ w, mfind t.walks s.nextId = some w ∧ w.va = x.granule * 65536 ∧ w.level1 = 1 ∧ w.level2 = 1 ∧ w.running = true ∧
        w.gpa = ext (owner s x.owner).root 16 36 * 65536 + 8 * (x.granule * 65536 / 2 ^ 42 % 8192)) ∧ t.mem = s.mem ∧ t.groups = s.groups) ∧
  (∀ w s, mfind s.walks w = none → idles (.walkStep w) s ∧ idles (.walkReadReturn w) s ∧ idles (.walkInstall w) s) ∧
  (∀ w s x pa, mfind s.walks w = some x → vacant s x.owner 8 = false → s.dieTlb = [] → walkNext s x = .read pa → x.run = [] →
    circuitMissing s x.owner x.die (homeOf pa) = none →
    ∃ t, exec (.walkStep w) s = .next t ∧ mfind t.walks w = some { x with entry := pa } ∧
      (∃ r, mfind t.reqs s.nextId = some r ∧ r.owner = x.owner ∧ r.line = pa / 128 ∧ r.agent = .walk w ∧ r.kind = .read []) ∧
      t.mem = s.mem ∧ t.groups = s.groups ∧ t.l2 = s.l2) ∧
  (∀ w s x d, mfind s.walks w = some x → x.data = some d → x.run = [] → x.leaf2 = none → ext d (64 * (x.entry / 8 % 16)) 1 = 0 →
    ∃ t, exec (.walkReadReturn w) s = .next t ∧
      mfind t.walks w = some { x with data := none, fault := some ⟨3, x.level2, 1, if x.level1 = 4 then 0 else x.level1, none⟩ } ∧
      t.mem = s.mem ∧ t.groups = s.groups ∧ t.l2 = s.l2) ∧
  (∀ w s x d, mfind s.walks w = some x → x.data = some d → x.run = [] →
    let e := BitVec.ofNat 64 (ext d (64 * (x.entry / 8 % 16)) 64)
    let level := if x.leaf2.isSome then x.level1 else x.level2
    let goes (y : Walk) : Prop := ∃ t, exec (.walkReadReturn w) s = .next t ∧ mfind t.walks w = some y ∧
      (∃ at_, (at_, Instr.walkStep w) ∈ t.agenda ∨ (at_, Instr.walkInstall w) ∈ t.agenda) ∧
      t.mem = s.mem ∧ t.groups = s.groups ∧ t.l2 = s.l2
    pteReason level e = none →
    (x.leaf2 = none → 1 ≤ x.level2 → x.level2 ≤ 2 → (x.level2 = 2 → e.getLsbD 1 = false) →
      goes { x with data := none, level2 := x.level2 + 1, table2 := ext e 16 36 * 65536 }) ∧
    (x.leaf2.isSome = true → x.level1 ≤ 2 → (x.level1 = 2 → e.getLsbD 1 = false) → s.dieTlb = [] →
      goes { x with data := none, level1 := x.level1 + 1, level2 := 1, leaf2 := none, table2 := s2Root s x.owner
                    gpa := entryAddr (ext e 16 36 * 65536) (x.level1 + 1) x.va }) ∧
    (level = 3 → e.getLsbD 6 = true → goes { x with data := none, run := lineEntries d }) ∧
    (x.leaf2 = none → (x.level2 = 3 ∧ e.getLsbD 6 = false) ∨ (x.level2 = 2 ∧ e.getLsbD 1 = true) →
      goes { x with data := none, leaf2 := some (leafOf x.level2 e [] x.gpa) }) ∧
    (x.leaf2.isSome = true → (x.level1 = 3 ∧ e.getLsbD 6 = false) ∨ (x.level1 = 2 ∧ e.getLsbD 1 = true) → s.dieTlb = [] →
      goes { x with
        data := none, leaf1 := some (leafOf x.level1 e [] x.va), level1 := 4, level2 := 1, leaf2 := none
        gpa := paOf (leafOf x.level1 e [] x.va) x.va, table2 := s2Root s x.owner })) ∧
  (∀ w s x y, mfind s.walks w = some x → vacant s x.owner 8 = false → x.fault = none → x.avoid = [] → walkNext s x = .done y → s.misses = [] →
    cacheable s x.owner y = true → (owner s x.owner).dtlb ≠ 0 →
    ∃ t, exec (.walkInstall w) s = .next t ∧ mfind t.walks w = none ∧
      (∃ e ∈ t.dieTlb, e.x = y ∧ e.owner = x.owner ∧ e.at_ = x.die ∧ e.stage2 = false) ∧ t.mem = s.mem ∧ t.groups = s.groups)

/-- R65 to R67: the maintenance position refreshes in its first eight revolutions and scrubs in the others; an access of the
physical function takes a channel's; its write changes the 64 bytes of its unit and no other byte of memory.
Where the spec leaves a choice it rests on the model's own (log entry 48). -/
def Obligations.MaintenanceEvents : Prop :=
  (∀ d s, s.clock / 48 % 16 < 8 → ∃ t, exec (.refresh d) s = .next t ∧
    t = { s with agenda := insertEvent s.agenda (s.clock + 48) (.refresh d), refreshRow := t.refreshRow } ∧
    (let k := d * 8 + (15 + s.clock / 48 % 16) % 8
     mget t.refreshRow k = (mget s.refreshRow k + 1) % 16384 ∧ ∀ j, j ≠ k → mfind t.refreshRow j = mfind s.refreshRow j)) ∧
  (∀ d s, 8 ≤ s.clock / 48 % 16 → ∃ t, exec (.refresh d) s = .next t ∧ t = { s with agenda := t.agenda } ∧
    (s.clock + 48, Instr.refresh d) ∈ t.agenda ∧ (s.clock, Instr.scrubStep d 0) ∈ t.agenda ∧
    (∀ a ∈ s.pfQueue, a.die = d → (s.clock, Instr.pfMemoryAccess d a.channel) ∈ t.agenda)) ∧
  (∀ d c s, s.poison = [] → s.errors = [] → ∃ t, exec (.scrubStep d c) s = .next t ∧ t = { s with scrub := t.scrub, pf := t.pf } ∧
    mget t.scrub d = mget s.scrub d + 1) ∧
  (∀ d c s, s.pfQueue.find? (fun a => a.die == d && a.channel == c) = none → idles (.pfMemoryAccess d c) s) ∧
  (∀ d c s a, s.pfQueue.find? (fun a => a.die == d && a.channel == c) = some a → ∀ x, a.write = some x →
    Memory.wf s.mem = true →
    let u := unitAt d c a.unit
    ∃ t, exec (.pfMemoryAccess d c) s = .next t ∧
      (∀ i, i < 64 → memGet t.mem (u * 64 + i) = BitVec.ofNat 8 (x.toNat / 2 ^ (8 * i))) ∧
      (∀ i, i < u * 64 ∨ u * 64 + 64 ≤ i → memGet t.mem i = memGet s.mem i) ∧ t.groups = s.groups ∧ t.blocks = s.blocks ∧ t.l2 = s.l2) ∧
  (∀ d c s a, s.pfQueue.find? (fun a => a.die == d && a.channel == c) = some a → a.write = none →
    ∃ t, exec (.pfMemoryAccess d c) s = .next t ∧ t.pfReply = s.pfReply ++ [stackUnit s none (unitAt d c a.unit)] ∧ t.mem = s.mem ∧
      t.groups = s.groups ∧ t.blocks = s.blocks) ∧
  (∀ d c u w x s, ∃ t, exec (.pfMemoryRequest d c u w x) s = .next t ∧
    t = { s with pfQueue := s.pfQueue ++ [⟨d, c, u % 2 ^ 23, if w then some x else none⟩] })

namespace Sys2Proof.Claims

/-- Queue `q` of an owner stands at its own command `c`, with nothing else in progress for it. -/
def AtCommand (s : State) (o q : Nat) (c : BitVec 512) : Prop :=
  (queue s o q).cmd = some c ∧ (queue s o q).replay = none ∧ (queue s o q).watcher = none ∧ (queue s o q).fence = none ∧
  (queue s o q).inval = none ∧ (queue s o q).halted = false

/-- Memory, caches and registers stand as they did. -/
def StaysPut (s t : State) : Prop := t.mem = s.mem ∧ t.l2 = s.l2 ∧ t.groups = s.groups

/-- The queue's command waits for an access that has begun: its requests, what it holds to write, and the lines it has still to
write. -/
def Asks (s t : State) (o q id : Nat) (reqs : List LaneReq) (got : List (Nat × BitVec 1024)) (writes : Nat) : Prop :=
  (queue t o q).acc = some id ∧ (queue t o q).cmd = (queue s o q).cmd ∧ StaysPut s t ∧
  ∃ a, mfind t.accs id = some a ∧ a.kind = .queue (queueKey o q) ∧ a.owner = o ∧ a.die = queueDie s o ∧ a.reqs = reqs ∧ a.got = got ∧
    a.unperformed = writes

/-- The queue's command has completed, without an error. -/
def Completed (t : State) (o q : Nat) : Prop :=
  (queue t o q).cmd = none ∧ (queue t o q).replay = none ∧ (queue t o q).launch = none ∧ (queue t o q).halted = false

/-- The queue has halted with an error (R352): kind, cause and reason, with the index of its command. -/
def Errored (t : State) (o q kind reason index : Nat) : Prop :=
  (queue t o q).halted = true ∧ (queue t o q).cmd = none ∧
  vfGet t o (queueReg q 24) = BitVec.ofNat 64 (2 ^ 63 + reason * 2 ^ 40 + kind * 2 ^ 24 + index % 2 ^ 16)

/-- A command that has been read starts: QHEAD moves past it, and its event is due; one that is malformed halts the queue. -/
def Starts (s t : State) (o q : Nat) (c : BitVec 512) : Prop :=
  let head := (queue s o q).head
  vfGet t o (queueReg q 16) = BitVec.ofNat 64 ((head + 1) % queueSize s o q) ∧ (queue t o q).head = (head + 1) % queueSize s o q ∧
  (queue t o q).reading = false ∧ t.mem = s.mem ∧ t.groups = s.groups ∧ t.l2 = s.l2 ∧
  (malformed c false = true → Errored t o q 3 0 head) ∧
  (malformed c false = false → (queue t o q).cmd = some c ∧ (queue t o q).index = head ∧
    ∃ e d, commandEvent o q (cmdField c 0 1) = some e ∧ s.clock ≤ d ∧ (d, e) ∈ t.agenda)

end Sys2Proof.Claims

/-- R14, R145, R352, R353, R409: a command is read and starts, or halts its queue; a LAUNCH samples the root, reads its
descriptor, and is refused with the lowest reason or is in flight.
Where the spec leaves a choice it rests on the model's own (log entries 59, 60, 61, 71 and 97). -/
def Obligations.QueueCommandsStart : Prop :=
  (∀ o q s, (queue s o q).reading = false → idles (.commandRead o q) s) ∧
  (∀ o q s, (queue s o q).reading = true → (owner s o).running = true → (owner s o).saving = false → (owner s o).saved = false →
    (owner s o).discarding = false → (owner s o).halting = false →
    let gpa := ext (vfGet s o (queueReg q 0)) 12 40 * 4096 + 64 * ((queue s o q).head % queueSize s o q)
    (queueState s o q = some .later → idles (.commandRead o q) s) ∧
    (∀ x, queueState s o q = some (.got x) → counts (owner s o) = true →
      ∃ t, exec (.commandRead o q) s = .next t ∧ Starts s t o q (BitVec.ofNat 512 x)) ∧
    (∀ y u, queueState s o q = none → stage2Now s o (some (queueDie s o)) gpa = (some (.ok y), u) →
      let pa := y.pa + (gpa - y.va)
      paReason u o pa = none → spaceOf pa = 0 → accessCircuit u o (queueDie u o) pa = none →
      ∃ t, exec (.commandRead o q) s = .next t ∧
        Asks u t o q u.nextId [⟨0, BitVec.ofNat 64 gpa, BitVec.ofNat 128 (pa % 128), 64⟩] [] 0 ∧
        (queue t o q).reading = (queue u o q).reading ∧
        ∃ r, mfind t.reqs (u.nextId + 1) = some r ∧ r.owner = o ∧ r.line = lineNo pa ∧ r.home = homeOf pa ∧ r.kind = .read [0] ∧
          r.agent = .acc u.nextId)) ∧
  (∀ o q s, (queue s o q).cmd = none → idles (.launch o q) s ∧ idles (.launchStart o q) s) ∧
  (∀ o q s c, (queue s o q).cmd = some c → counts (owner s o) = true →
    let root := vfGet s o 0x400
    (rootAhead s o q = false → (owner s o).root = root ∨ inFlight s o q = false →
      ∃ t, exec (.launch o q) s = .next t ∧ (owner t o).root = root ∧ (queue t o q).launch = some 0 ∧ (queue t o q).cmd = some c ∧
        (∃ d, s.clock ≤ d ∧ (d, Instr.launchStart o q) ∈ t.agenda) ∧ t.mem = s.mem ∧ t.groups = s.groups ∧ t.l2 = s.l2) ∧
    (rootAhead s o q = true ∨ ((owner s o).root ≠ root ∧ inFlight s o q = true) →
      ∃ t, exec (.launch o q) s = .next t ∧ (queue t o q).rootWait = some root ∧ (queue t o q).cmd = some c ∧ t = { s with queues := t.queues })) ∧
  (∀ o q s c, (queue s o q).cmd = some c → cmdField c 8 8 % 64 ≠ 0 →
    ∃ t, exec (.launchStart o q) s = .next t ∧ Errored t o q 4 1 (queue s o q).index ∧ t.mem = s.mem ∧ t.groups = s.groups) ∧
  (∀ o q s c d, (queue s o q).cmd = some c → cmdField c 8 8 % 64 = 0 →
    (queueRead s o q (BitVec.ofNat 64 (cmdField c 8 8)) 64).1 = .got d →
    let s' := (queueRead s o q (BitVec.ofNat 64 (cmdField c 8 8)) 64).2
    let word := entry s' o 0x20
    (∀ r, descriptorReason s' o word (BitVec.ofNat 512 d) = some r →
      ∃ t, exec (.launchStart o q) s = .next t ∧ Errored t o q 4 r (queue s' o q).index ∧ t.mem = s'.mem ∧ t.groups = s'.groups) ∧
    (descriptorReason s' o word (BitVec.ofNat 512 d) = none → counts (owner s' o) = true →
      ∃ t, exec (.launchStart o q) s = .next t ∧ (queue t o q).launch = some s'.nextId ∧ (queue t o q).cmd = (queue s' o q).cmd ∧
        (∃ l, mfind t.launches s'.nextId = some l ∧ { l with nextCluster := 0 } = launchOf o q (queue s' o q) (BitVec.ofNat 512 d)) ∧
        (owner t o).storage = word ∧ (s'.clock + 4096, Instr.launchStartEnd s'.nextId) ∈ t.agenda ∧ t.mem = s'.mem ∧ t.l2 = s'.l2))

/-- R133, R138, R353, R354: SIGNAL, once the earlier writes it covers are performed, sends its eight bytes and completes when they
are; WAIT's address is translated, its line armed and then read, and it completes when its comparison holds; INVAL's address is
translated and the removal starts on every live die; a REPLAY reads its graph, then runs its commands in order; a FENCE
completes when no earlier command of another queue is left.
Where the spec leaves a choice it rests on the model's own (log entries 62, 63, 64 and 65). -/
def Obligations.QueueCommandsAct : Prop :=
  (∀ o q s, (queue s o q).cmd = none → idles (.signal o q) s ∧ idles (.wait o q) s ∧ idles (.inval o q) s ∧ idles (.fenceCommand o q) s ∧
    ((queue s o q).replay = none → idles (.replay o q) s)) ∧
  (∀ o q s c, AtCommand s o q c → (queue s o q).acc = none → counts (owner s o) = true →
    let va := BitVec.ofNat 64 (cmdField c 8 8)
    let first := va.toNat % 128
    (queueOwes s o (cmdField c 0x18 1) = true →
      ∃ t, exec (.signal o q) s = .next t ∧ t = { s with agenda := insertEvent s.agenda (s.clock + 1) (.signal o q) }) ∧
    (queueOwes s o (cmdField c 0x18 1) = false → canonical va = true → inWindow va = false →
      ∃ t, exec (.signal o q) s = .next t ∧ Asks s t o q s.nextId [⟨8, va, 0, 0⟩]
        [(8, BitVec.ofNat 1024 (cmdField c 0x10 8 * 2 ^ (8 * first))), (9, bitMask (byteMask first 8))] 1)) ∧
  (∀ o q s c id a, AtCommand s o q c → (queue s o q).acc = some id → mfind s.accs id = some a → lineTrap a = none →
    (a.unperformed = 0 → ∃ t, exec (.signal o q) s = .next t ∧ Completed t o q ∧ StaysPut s t) ∧ (a.unperformed ≠ 0 → idles (.signal o q) s)) ∧
  (∀ o q s c, AtCommand s o q c → (owner s o).saving = false → (owner s o).saved = false →
    let va := BitVec.ofNat 64 (cmdField c 8 8)
    (queue s o q).acc = none → canonical va = true → inWindow va = false → va.toNat % 128 + 8 ≤ 128 →
    ∃ t, exec (.wait o q) s = .next t ∧ Asks s t o q s.nextId [⟨0, va, BitVec.ofNat 128 (va.toNat % 128), 8⟩] [] 0) ∧
  (∀ o q s c a, AtCommand s o q c → queueAcc s o q = some a → queueState s o q = some .later → a.checked = true → a.passes = [] →
    a.waiting = 0 → a.got = [] → spaceOf (lanePa a (reqOf a 0)) = 0 →
    ∃ t, exec (.wait o q) s = .next t ∧ (queue t o q).cmd = some c ∧ (queue t o q).watcher = some s.nextId ∧ StaysPut s t ∧
      ∃ w, mfind t.watchers s.nextId = some w ∧ w.owner = o ∧ w.queue = some (queueKey o q) ∧ w.die = homeOf (lanePa a (reqOf a 0)) ∧
        w.line = lineNo (lanePa a (reqOf a 0)) ∧ w.installed = false) ∧
  (∀ o q s c x, (queue s o q).cmd = some c → (queue s o q).replay = none → (queue s o q).halted = false → queueState s o q = some (.got x) →
    (waitHolds (cmdField c 0x18 1) x (cmdField c 0x10 8) = true →
      ∃ t, exec (.wait o q) s = .next t ∧ Completed t o q ∧ StaysPut s t ∧ (∀ w ∈ t.watchers, w.2.queue ≠ some (queueKey o q))) ∧
    (waitHolds (cmdField c 0x18 1) x (cmdField c 0x10 8) = false → (queue s o q).watcher.isSome = true →
      ∃ t, exec (.wait o q) s = .next t ∧ (queue t o q).cmd = some c ∧ (queue t o q).watcher = (queue s o q).watcher ∧
        (queue t o q).acc = none ∧ StaysPut s t)) ∧
  (∀ o q s c, AtCommand s o q c → (queue s o q).acc = none → cmdField c 0x10 8 ≠ 0 →
    let va := BitVec.ofNat 64 (cmdField c 8 8)
    canonical va = true → inWindow va = false →
    ∃ t, exec (.inval o q) s = .next t ∧ (queue t o q).acc = some s.nextId ∧ StaysPut s t ∧
      ∃ id v, (queue t o q).inval = some id ∧ mfind t.invals id = some v ∧ v.owner = o ∧ v.queue = some q ∧ v.stage2 = false ∧
        v.base = va.toNat ∧ v.len = cmdField c 0x10 8 ∧ v.dies = List.range s.fuses.dies ∧ v.accs = [s.nextId]) ∧
  (∀ o q s c, AtCommand s o q c → (queue s o q).acc = none → cmdField c 0x10 8 = 0 → counts (owner s o) = true →
    ∃ t, exec (.inval o q) s = .next t ∧ (queue t o q).inval = some s.nextId ∧
      mfind t.invals s.nextId = some ⟨o, some q, false, cmdField c 8 8, 0, List.range s.fuses.dies, [], []⟩ ∧
      (∀ d, d < s.fuses.dies → ∃ n, s.clock ≤ n ∧ (n, Instr.invalRemoval s.nextId d) ∈ t.agenda) ∧
      t = { s with queues := t.queues, invals := t.invals, agenda := t.agenda, nextId := s.nextId + 1 }) ∧
  (∀ o q s c, AtCommand s o q c → counts (owner s o) = true → graphBusy s o q (BitVec.ofNat 64 (cmdField c 8 8)) = false →
    ∃ t, exec (.replay o q) s = .next t ∧ (queue t o q).replay =
        some ⟨c, BitVec.ofNat 64 (cmdField c 8 8), BitVec.ofNat 64 (cmdField c 0x10 8), none, none, [], 0, false, 0⟩ ∧
      (s.clock, Instr.replay o q) ∈ t.agenda ∧ t = { s with queues := t.queues, agenda := t.agenda }) ∧
  (∀ o q s r va n, (queue s o q).replay = some r → (queue s o q).cmd ≠ none → r.ready = false → replayPiece r = some (va, n) →
    (owner s o).saving = false → (owner s o).saved = false →
    (queueState s o q = none → canonical va = true → inWindow va = false → va.toNat % 128 + n ≤ 128 → n ≤ 64 →
      ∃ t, exec (.replay o q) s = .next t ∧ Asks s t o q s.nextId [⟨0, va, BitVec.ofNat 128 (va.toNat % 128), BitVec.ofNat 64 n⟩] [] 0 ∧
        (queue t o q).replay = some r) ∧
    (∀ x r', queueState s o q = some (.got x) → replayTake r x = some r' →
      ∃ t, exec (.replay o q) s = .next t ∧ (queue t o q).replay = some r' ∧ (queue t o q).acc = none ∧ StaysPut s t)) ∧
  (∀ o q s r c, (queue s o q).replay = some r → (queue s o q).cmd ≠ none → r.ready = false → r.next = 0 → replayPiece r = none → r.cmds[0]? = some c →
    r.cmds.any (fun c => malformed c true) = false → (owner s o).saving = false → (owner s o).saved = false → counts (owner s o) = true →
    ∃ t, exec (.replay o q) s = .next t ∧ (queue t o q).cmd = some c ∧ (queue t o q).replay = some { r with ready := true, next := 1 } ∧
      (∃ e, commandEvent o q (cmdField c 0 1) = some e ∧ (s.clock, e) ∈ t.agenda) ∧ t = { s with queues := t.queues, agenda := t.agenda }) ∧
  (∀ o q s c, AtCommand s o q c →
    let others := (List.range 64).filter (fun p => p != q)
    let owed (p : Nat) : Nat := ((queue s o p).tail + queueSize s o p - (queue s o p).head) % queueSize s o p +
      (if (queue s o p).cmd.isSome ∨ (queue s o p).replay.isSome then 1 else 0)
    ((∀ p ∈ others, owed p = 0) → ∃ t, exec (.fenceCommand o q) s = .next t ∧ Completed t o q ∧ t.mem = s.mem ∧ t.groups = s.groups ∧ t.l2 = s.l2) ∧
    (∀ p ∈ others, owed p ≠ 0 → ∃ t, exec (.fenceCommand o q) s = .next t ∧ (queue t o q).cmd = some c ∧
      (∃ l, (queue t o q).fence = some l ∧ (p, owed p) ∈ l) ∧ t = { s with queues := t.queues }))

/-- R141, R143, R146, R409: at the end of their time placed blocks begin: a block's first group stands at the launch's entry with
its thread indices, argument and block index; an ended block's room is freed; a launch that is performed completes after 1024
clocks, and its command with it.
Where the spec leaves a choice it rests on the model's own (log entries 30, 66 and 114). -/
def Obligations.LaunchProgress : Prop :=
  let begins (s t : State) (b : Nat) (x : Block) (l : Launch) (part slot stage : Nat) : Prop :=
    let k := gkey x.die x.core part slot
    (block t b).begun = true ∧ (group t k).live = true ∧ (group t k).owner = x.owner ∧ (group t k).launch = x.launch ∧ (group t k).block = b ∧
    (group t k).stage = stage ∧ (group t k).budget = l.budgets.getD stage 0 ∧ (group t k).scount = l.scount ∧
    (∃ f, (group t k).frags = [f] ∧ f.pc = l.entry ∧ f.mask = BitVec.allOnes 32 ∧ f.status = .run ∧ f.notBefore = (s.clock + 7) / 8) ∧
    (∀ i, i < 32 → rv (group t k) 0 i = BitVec.ofNat 32 i ∧ rv (group t k) 1 i = BitVec.ofNat 32 i ∧ mget (group t k).tid i = i) ∧
    rs (group t k) 0 = l.arg ∧ rs (group t k) 1 = BitVec.ofNat 64 x.index ∧ rs (group t k) 2 = BitVec.ofNat 64 (l.gx * l.gy * l.gz) ∧
    rs (group t k) 3 = BitVec.ofNat 64 x.rank ∧ (∀ j, j ≠ k → mfind t.groups j = mfind s.groups j) ∧
    (∀ j, j ≠ x.launch → mfind t.launches j = mfind s.launches j) ∧
    t = { s with blocks := t.blocks, groups := t.groups, formations := t.formations, launches := t.launches }
  (∀ l s, s.blocks = [] → idles (.launchStartEnd l) s ∧ ∀ c, idles (.laterPlacementEnd l c) s) ∧
  (∀ s b x y part slot stage, s.blocks = [(b, x)] → x.begun = false → x.ended = false → x.slots = [(part, slot, stage)] → launch s x.launch = y →
    (placedLater s x.owner x.launch x.cluster = false → ∃ t, exec (.launchStartEnd x.launch) s = .next t ∧ begins s t b x y part slot stage) ∧
    (∃ t, exec (.laterPlacementEnd x.launch x.cluster) s = .next t ∧ begins s t b x y part slot stage)) ∧
  (∀ b s, mfind s.blocks b = none → idles (.blockEndTimeEnd b) s) ∧
  (∀ b s x, mfind s.blocks b = some x → x.ended = false → idles (.blockEndTimeEnd b) s) ∧
  (∀ b s x, s.blocks = [(b, x)] → x.ended = true → s.launches = [] → moreBlockEnds s x.owner = false → slotsDraining s b x = [] →
    ∃ t, exec (.blockEndTimeEnd b) s = .next t ∧ t = { s with blocks := [], groups := t.groups, badRegs := t.badRegs } ∧
      (∀ k, k ∉ blockSlots x ∨ (group s k).block ≠ b → mfind t.groups k = mfind s.groups k)) ∧
  (∀ b s x, s.blocks = [(b, x)] → x.ended = true → s.launches = [] → moreBlockEnds s x.owner = false → slotsDraining s b x = x.slots → x.slots ≠ [] →
    ∃ t, exec (.blockEndTimeEnd b) s = .next t ∧ (block t b).released = true ∧ (block t b).slots = x.slots ∧ (block t b).ntiles = [] ∧
      (block t b).wants = [] ∧ ∀ k, mfind t.groups k = mfind s.groups k) ∧
  (∀ l s, mfind s.launches l = none → idles (.launchCompletion l) s ∧ idles (.launchCompletionEnd l) s) ∧
  (∀ l s x, mfind s.launches l = some x → x.completing = true → counts (owner s x.owner) = true →
    ∃ t, exec (.launchCompletion l) s = .next t ∧ t = { s with agenda := insertEvent s.agenda (s.clock + 1024) (.launchCompletionEnd l) }) ∧
  (∀ l s x, mfind s.launches l = some x → x.completing = false → idles (.launchCompletion l) s) ∧
  (∀ l s x, mfind s.launches l = some x → (queue s x.owner x.queue).replay = none → (queue s x.owner x.queue).halted = false →
    (∀ p, p < 64 → (queue s x.owner p).rootWait = none) →
    ∃ t, exec (.launchCompletionEnd l) s = .next t ∧ mfind t.launches l = none ∧ Completed t x.owner x.queue ∧
      t.l2 = s.l2.filter (fun y => !(y.owner == x.owner && y.replica && y.launch == l)) ∧ t.mem = s.mem ∧ t.groups = s.groups ∧ t.blocks = s.blocks)

namespace Sys2Proof.Claims

/-- A register write that the device ignores changes nothing. -/
def ignored (e : Instr) (s : State) : Prop := deviceReady s = false → idles e s

/-- CFGERR records a refusal (R50), unless one is recorded. -/
def Refused (s t : State) (o word reason : Nat) : Prop :=
  t = { s with pf := t.pf } ∧
  pfGet t 0x80 = if (pfGet s 0x80).getLsbD 31 then pfGet s 0x80 else BitVec.ofNat 64 (2 ^ 31 + reason * 2 ^ 16 + word * 256 + o)

/-- Only one word of BAR0 of the physical function has changed. -/
def onlyPf (s t : State) (off : Nat) (v : BitVec 64) : Prop :=
  t = { s with pf := t.pf } ∧ pfGet t off = v ∧ ∀ x, x ≠ off → pfGet t x = pfGet s x

end Sys2Proof.Claims

/-- R170, R351, R352, R355, R359, R360: a write of a VF's register is stored while the owner is in RUN and taken in at its
turn; the notify register moves a queue's tail, a restart clears a halt, the doorbell gives the ring's consumer index, an epoch
forgets the logged pages, and a held event record reaches its slot.
Where the spec leaves a choice it rests on the model's own (log entries 28, 29, 70, 94, 95 and 107). -/
def Obligations.VfRegisterEvents : Prop :=
  (∀ o q v s, ignored (.notify o q v) s ∧ ∀ fn off, ignored (.registerWrite fn off v) s) ∧
  (∀ o q v s, deviceReady s = true → o < 32 → q < 64 → (owner s o).running = true →
    (∃ t, exec (.notify o q v) s = .next t ∧ (owner t o).stored = (owner s o).stored ++ [(8 * q, v)] ∧
      t = { s with owners := t.owners, agenda := t.agenda } ∧ (counts (owner s o) = true → (s.clock, Instr.vfWriteTakeIn o) ∈ t.agenda)) ∧
    (∀ off, ∃ t, exec (.registerWrite (o + 1) off v) s = .next t ∧ (owner t o).stored = (owner s o).stored ++ [(off, v)] ∧
      t = { s with owners := t.owners, agenda := t.agenda })) ∧
  (∀ off v s, deviceReady s = true → ∀ fn, 32 < fn → idles (.registerWrite fn off v) s) ∧
  (∀ v s, deviceReady s = true → ∃ t, exec (.registerWrite 0 0xA0 v) s = .next t ∧ onlyPf s t 0xA0 (BitVec.ofNat 64 (ext v 12 36 * 4096))) ∧
  (∀ o s, counts (owner s o) = false ∨ (owner s o).stored = [] → idles (.vfWriteTakeIn o) s) ∧
  (∀ o s v, counts (owner s o) = true → (owner s o).stored = [(0xA18, v)] →
    ∃ t, exec (.vfWriteTakeIn o) s = .next t ∧ t = { s with owners := t.owners, vf := t.vf } ∧ (owner t o).stored = [] ∧
      vfGet t o 0xA18 = BitVec.ofNat 64 (ext v 0 32) ∧ ∀ p x, p * 65536 + x ≠ o * 65536 + 0xA18 → vfGet t p x = vfGet s p x) ∧
  (∀ o s q v, q < 64 → counts (owner s o) = true → (owner s o).stored = [(8 * q, v)] → (owner s o).saving = false → (owner s o).saved = false →
    (vfGet s o (queueReg q 8)).getLsbD 0 = false →
    ∃ t, exec (.vfWriteTakeIn o) s = .next t ∧ t = { s with owners := t.owners, vf := t.vf, queues := t.queues } ∧ (owner t o).stored = [] ∧
      (queue t o q).tail = ext v 0 16 % queueSize s o q ∧ (queue t o q).head = (queue s o q).head ∧ (queue t o q).cmd = (queue s o q).cmd) ∧
  (∀ o q s, (queue s o q).halted = false ∨ (vfGet s o (queueReg q 24)).getLsbD 63 = true → idles (.queueRestart o q) s) ∧
  (∀ o q s, (queue s o q).halted = true → (vfGet s o (queueReg q 24)).getLsbD 63 = false → (queue s o q).head = (queue s o q).tail →
    ∃ t, exec (.queueRestart o q) s = .next t ∧ t = { s with queues := t.queues } ∧ queue t o q = { queue s o q with halted := false } ∧
      ∀ j, j ≠ queueKey o q → mfind t.queues j = mfind s.queues j) ∧
  (∀ o v s, ∃ t, exec (.eventRingDoorbell o v) s = .next t ∧ t = { s with owners := t.owners } ∧
    ((owner t o).consumer).setWidth 32 = v.setWidth 32 ∧ { owner t o with consumer := (owner s o).consumer } = owner s o ∧
    ∀ j, j ≠ o → mfind t.owners j = mfind s.owners j) ∧
  (∀ o s, ∃ t, exec (.dirtyLogEpoch o) s = .next t ∧ t = { s with owners := t.owners } ∧ owner t o = { owner s o with logged := [] } ∧
    ∀ j, j ≠ o → mfind t.owners j = mfind s.owners j) ∧
  (∀ o s, (owner s o).delayed = [] → idles (.eventRecordSlot o) s) ∧
  (∀ o s r, (owner s o).delayed = [r] → (recentRecords s o).length < 64 →
    ∃ t, exec (.eventRecordSlot o) s = .next t ∧ t = { s with owners := t.owners, sent := t.sent } ∧ (owner t o).delayed = [] ∧
      ((vfGet s o 0x808).getLsbD 0 = false → t.sent = s.sent) ∧
      ((vfGet s o 0x808).getLsbD 0 = true →
        ((owner s o).producer - (owner s o).consumer).toNat + r.length / 16 ≤ ringCapacity s o →
        (owner t o).producer = (owner s o).producer + BitVec.ofNat 64 (r.length / 16)) ∧
      ((vfGet s o 0x808).getLsbD 0 = true →
        ringCapacity s o < ((owner s o).producer - (owner s o).consumer).toNat + r.length / 16 →
        (owner t o).producer = (owner s o).producer ∧ (owner t o).overflow = (owner s o).overflow + 1)) ∧
  (∀ o s, (owner s o).delayed ≠ [] → 64 ≤ (recentRecords s o).length →
    ∃ t, exec (.eventRecordSlot o) s = .next t ∧ t = { s with agenda := t.agenda } ∧ ∃ d, s.clock < d ∧ (d, Instr.eventRecordSlot o) ∈ t.agenda)

/-- R49, R50, R79, R80, R158, R163, R350, R393: the host's writes of the physical function's tables: an accepted word is
stored, a refused one leaves the table as it was and is recorded with the lowest reason.
Where the spec leaves a choice it rests on the model's own (log entries 76, 77 and 78). -/
def Obligations.PfRegisterWrites : Prop :=
  (∀ s o off v, ignored (.partitionEntryWrite o off v) s ∧ ignored (.seatWordWrite o v) s ∧ ignored (.pwrlimWrite v) s ∧
    ignored (.slotTableWrite o off v) s ∧ ignored (.connectionTableWrite o v) s ∧ ignored (.stage2Invalidation o v) s ∧
    ignored (.ownctlRun o) s ∧ ignored (.ownctlUnlock o) s) ∧
  (∀ o w v s, deviceReady s = true → o < 32 → w = 0x20 ∨ w = 0x30 ∨ w = 0x38 → locked s o = false →
    let s' := pfSet s (entryOff o w) (entryMask w v)
    let why := lowestReason [(1, overlaps s' o w), (2, oversubscribed s'), (3, outOfRange s' o),
      (4, owState s o == 2 && !runFields s' o), (7, imageTooLong s' o)]
    (why = none → ∃ t, exec (.partitionEntryWrite o w v) s = .next t ∧ onlyPf s t (entryOff o w) (entryMask w v)) ∧
    (∀ r, why = some r → ∃ t, exec (.partitionEntryWrite o w v) s = .next t ∧ Refused s t o w r)) ∧
  (∀ o w v s, deviceReady s = true → o < 32 → w = 0x20 ∨ w = 0x28 ∨ w = 0x30 ∨ w = 0x38 → locked s o = true → entryMask w v = entry s o w →
    idles (.partitionEntryWrite o w v) s) ∧
  (∀ o v s, deviceReady s = true → o < 32 → locked s o = false →
    let s' := pfSet s (entryOff o 0x48) (entryMask 0x48 v)
    let q := ext v 32 32
    let why := lowestReason [(3, q != 0 && q < 7680), (4, holdsWays s o && !mayHoldWays s' o),
      (5, seated s' o && ((seatOwners s' (seatOf s' o)).any (fun p => p != o && turnWord s' p == turnWord s' o))),
      (6, owState s o == 2 && ext (entryMask 0x48 v) 0 32 != ext (entry s o 0x48) 0 32)]
    (why = none → ∃ t, exec (.seatWordWrite o v) s = .next t ∧ onlyPf s t (entryOff o 0x48) (entryMask 0x48 v)) ∧
    (∀ r, why = some r → ∃ t, exec (.seatWordWrite o v) s = .next t ∧ Refused s t o 0x48 r)) ∧
  (∀ v s, deviceReady s = true →
    (600 ≤ ext v 0 16 ∧ ext v 0 16 ≤ 2000 → ∃ t, exec (.pwrlimWrite v) s = .next t ∧ t = { s with pf := t.pf } ∧
      ext (pfGet t 0x50) 0 16 = ext v 0 16 ∧ ext (pfGet t 0x50) 16 48 = ext (pfGet s 0x50) 16 48) ∧
    (ext v 0 16 < 600 ∨ 2000 < ext v 0 16 → idles (.pwrlimWrite v) s)) ∧
  (∀ t' half v s, deviceReady s = true → t' < 10 → half < 2 → (t' = 9 → half = 1 → ext v 56 8 = 0) → (∀ o, o < 32 → locked s o = false) → (∀ i, i < 8 → ext v (8 * i + 4) 3 = 0) →
    let off := 0x30000 + 16 * t' + 8 * half
    (∀ k, k < 16 → seatStarved (pfSet s off v) k = false) →
      ∃ t, exec (.slotTableWrite t' half v) s = .next t ∧ pfGet t off = v ∧ (∀ x, x ≠ off → pfGet t x = pfGet s x) ∧
        t.mem = s.mem ∧ t.groups = s.groups ∧ t.l2 = s.l2) ∧
  (∀ v s, exec (.slotTableWrite 9 1 v) s = exec (.slotTableWrite 9 1 (v &&& 0x00FFFFFFFFFFFFFF)) s) ∧
  (∀ t' half v s i, deviceReady s = true → t' < 10 → half < 2 → (t' = 9 → half = 1 → ext v 56 8 = 0) → (∀ o, o < 32 → locked s o = false) → i < 8 →
    ext v (8 * i + 4) 3 ≠ 0 → (∀ j, j < i → ext v (8 * j + 4) 3 = 0) →
      ∃ t, exec (.slotTableWrite t' half v) s = .next t ∧ Refused s t (ext v (8 * i) 4) (0xC0 + 2 * t' + half) 3) ∧
  (∀ e v s, deviceReady s = true → e < 1536 → (∀ o, o < 32 → locked s o = false) → connState s e = 0 → v.getLsbD 33 = true →
    let w := BitVec.ofNat 64 (ext v 20 14 * 2 ^ 20 + ext v 0 19)
    (lowestReason (setupReasons s e w) = none →
      ∃ t, exec (.connectionTableWrite e v) s = .next t ∧ connWord t e = w ∧ connState t e = 1 ∧
        t = { s with pf := t.pf, agenda := insertEvent s.agenda (s.clock + setupClocks s) (.circuitSetupElapsed e) }) ∧
    (∀ r, lowestReason (setupReasons s e w) = some r → (pfGet s 0x88).getLsbD 31 = false →
      ∃ t, exec (.connectionTableWrite e v) s = .next t ∧ onlyPf s t 0x88 (BitVec.ofNat 64 (2 ^ 31 + r * 2 ^ 24 + e)))) ∧
  (∀ e s, connState s e = 1 → ∃ t, exec (.circuitSetupElapsed e) s = .next t ∧ onlyPf s t (0x20008 + 16 * e) 2) ∧
  (∀ e s, connState s e = 3 → ∃ t, exec (.circuitSetupElapsed e) s = .next t ∧ onlyPf s t (0x20008 + 16 * e) 0) ∧
  (∀ e s, connState s e = 0 ∨ connState s e = 2 → idles (.circuitSetupElapsed e) s) ∧
  (∀ o v s, deviceReady s = true → o < 32 → locked s o = false →
    ((entry s o 0x10).getLsbD 0 = true → ∃ t, exec (.stage2Invalidation o v) s = .next t ∧ Refused s t o 0x18 8) ∧
    ((entry s o 0x10).getLsbD 0 = false → ∃ t, exec (.stage2Invalidation o v) s = .next t ∧ entry t o 0x18 = BitVec.ofNat 64 (ext v 0 32) ∧
      (entry t o 0x10).getLsbD 0 = true ∧
      mfind t.invals s.nextId = some ⟨o, none, true, ext (entry s o 0x10) 16 36 * 65536, ext v 0 32 * 65536, List.range s.fuses.dies, [], []⟩ ∧
      t.mem = s.mem ∧ t.groups = s.groups)) ∧
  (∀ o s, deviceReady s = true → o < 32 → owTdisp s o = false → owState s o = 0 →
    (mayRun s o = true → ∃ t, exec (.ownctlRun o) s = .next t ∧ owState t o = 2 ∧ (owner t o).entering = true ∧ t = { s with pf := t.pf, owners := t.owners }) ∧
    (mayRun s o = false → ∃ t, exec (.ownctlRun o) s = .next t ∧ Refused s t o 0x08 9)) ∧
  (∀ o s, deviceReady s = true → o < 32 → owTdisp s o = false → owState s o = 2 → (owner s o).running = true → counts (owner s o) = true →
    (owner s o).saved = false → (owner s o).halting = false → (owner s o).discarding = false → (owner s o).wiping = false →
    ∃ t, exec (.ownctlUnlock o) s = .next t ∧ t = { s with owners := t.owners, agenda := t.agenda } ∧ (owner t o).discarding = true ∧
      (∃ d, s.clock < d ∧ (d, Instr.haltComplete o) ∈ t.agenda))

/-- R341, R343, R345 to R348: a save or a restore is refused with its status or begins; a save is taken in, halts when
everything issued has ended, and its image reaches the host's buffer.
Where the spec leaves a choice it rests on the model's own (log entries 79, 80, 81 and 103). -/
def Obligations.ContextOperations : Prop :=
  (∀ o v s, ignored (.contextSave o) s ∧ ignored (.contextRestore o v) s) ∧
  (∀ o v s, (pfGet s 0x90).getLsbD 5 = true → deviceReady s = true → idles (.contextSave o) s ∧ idles (.contextRestore o v) s) ∧
  (∀ o s, deviceReady s = true → o < 32 → (pfGet s 0x90).getLsbD 5 = false →
    owState s o ≠ 2 ∨ (owner s o).saved = true ∨ (owner s o).discarding = true ∨ (owner s o).wiping = true ∨ regionFree s o = false →
    ∃ t, exec (.contextSave o) s = .next t ∧ t = { s with pf := t.pf, owners := t.owners } ∧ pfGet t 0x98 = 0x83 ∧ (pfGet t 0x90).getLsbD 5 = false) ∧
  (∀ o s, deviceReady s = true → o < 32 → (pfGet s 0x90).getLsbD 5 = false → owState s o = 2 → (owner s o).saved = false →
    (owner s o).discarding = false → (owner s o).wiping = false → regionFree s o = true →
    ∃ t, exec (.contextSave o) s = .next t ∧ t = { s with pf := t.pf, owners := t.owners, agenda := t.agenda } ∧
      pfGet t 0x90 = BitVec.ofNat 64 (96 + o) ∧ (owner t o).buffer = contextBuffer s ∧ (owner t o).regions = true ∧
      (counts (owner s o) = true → (s.clock, Instr.saveRequestTakeIn o) ∈ t.agenda)) ∧
  (∀ o v s, deviceReady s = true → o < 32 → (pfGet s 0x90).getLsbD 5 = false → owState s o ≠ 2 ∨ (owner s o).saved = false →
    ∃ t, exec (.contextRestore o v) s = .next t ∧ t = { s with pf := t.pf, owners := t.owners } ∧ pfGet t 0x98 = 0x83) ∧
  (∀ o v s, deviceReady s = true → o < 32 → (pfGet s 0x90).getLsbD 5 = false → owState s o = 2 → (owner s o).saved = true →
    (owner s o).discarding = false → regionFree s o = true →
    (mfind s.images (contextBuffer s) = none →
      ∃ t, exec (.contextRestore o v) s = .next t ∧ t = { s with pf := t.pf, owners := t.owners } ∧ pfGet t 0x98 = 0x84) ∧
    (∀ x, mfind s.images (contextBuffer s) = some x → v = 0 → x.owner = o → x.diemask.toNat = owDies s o → x.prot = owTdisp s o →
      x.length = imageLength s o → x.counter = (owner s o).saveCount →
      ∃ t, exec (.contextRestore o v) s = .next t ∧ t = { s with pf := t.pf, owners := t.owners } ∧ pfGet t 0x90 = BitVec.ofNat 64 (160 + o) ∧
        (owner t o).restoring = true ∧ (owner t o).image = some x ∧ (owner t o).saveCount = (owner s o).saveCount + 1) ∧
    (∀ x, mfind s.images (contextBuffer s) = some x → v = 0 → x.owner = o → x.diemask.toNat = owDies s o → x.prot = owTdisp s o →
      x.length = imageLength s o → x.counter ≠ (owner s o).saveCount →
      ∃ t, exec (.contextRestore o v) s = .next t ∧ t = { s with pf := t.pf, owners := t.owners } ∧ pfGet t 0x98 = 0x81)) ∧
  (∀ o s, s.migs = [] → counts (owner s o) = true → ∃ t, exec (.saveRequestTakeIn o) s = .next t ∧
    t = { s with owners := t.owners, agenda := insertEvent s.agenda (s.clock + (8 - s.clock % 8)) (.preemptionHaltDone o) } ∧
    owner t o = { owner s o with saving := true, savingFrom := s.clock }) ∧
  (∀ o s, (owner s o).saving = false ∨ (owner s o).halted = true → idles (.preemptionHaltDone o) s) ∧
  (∀ o s, s.migs = [] → (owner s o).saving = true → (owner s o).halted = false → counts (owner s o) = true →
    (quiescent s o = true → ∃ t, exec (.preemptionHaltDone o) s = .next t ∧ t = { s with owners := t.owners } ∧ (owner t o).halted = true) ∧
    (quiescent s o = false → ∃ t, exec (.preemptionHaltDone o) s = .next t ∧ t = { s with agenda := t.agenda } ∧
      (s.clock + 8, Instr.preemptionHaltDone o) ∈ t.agenda)) ∧
  (∀ k s, (∀ o, o < 32 → (owner s o).image = none) → idles (.worldSwitchEnd k) s) ∧
  (∀ k s o, o < 32 → contextOf s o = true → (owner s o).saved = true → (owner s o).image.isSome = true → seated s o = true → seatOf s o = k →
    ∃ t, exec (.worldSwitchEnd k) s = .next t ∧ t = { s with agenda := insertEvent s.agenda s.clock (.imageDrained o) }) ∧
  (∀ o s, (owner s o).image = none ∨ (owner s o).saved = false → idles (.imageDrained o) s) ∧
  (∀ o s x, (owner s o).image = some x → (owner s o).saved = true →
    ∃ t, exec (.imageDrained o) s = .next t ∧ t = { s with images := mset s.images (owner s o).buffer x, owners := t.owners, pf := t.pf, sent := t.sent } ∧
      pfGet t 0x98 = 0x80 ∧ (pfGet t 0x90).getLsbD 5 = false ∧ (owner t o).image = none ∧ (owner t o).regions = false)

/-- R52, R159, R164, R413: an empty seat looks for an owner at every boundary of 768 clocks; at a quantum boundary the owner's
cycles stop and the next owner's switch begins; a residency starts the owner's cycles; a drain step visits as many lines as the
owner's positions let it, waits at a quantum boundary, and the last gives the ways up.
Where the spec leaves a choice it rests on the model's own (log entries 72, 73, 74 and 75). -/
def Obligations.SeatEvents : Prop :=
  (∀ k s, (seat s k).resident.isSome = true ∨ (seat s k).switching.isSome = true → idles (.seatBoundary k) s) ∧
  (∀ k s, (seat s k).resident = none → (seat s k).switching = none → s.moves = [] → nextResident s k none = none →
    ∃ t, exec (.seatBoundary k) s = .next t ∧ t = { s with seats := t.seats, agenda := insertEvent s.agenda ((s.clock / 768 + 1) * 768) (.seatBoundary k) } ∧
      seat t k = { seat s k with at_ := s.clock } ∧ ∀ j, j ≠ k → mfind t.seats j = mfind s.seats j) ∧
  (∀ k s, (seat s k).resident = none → idles (.quantumBoundary k) s) ∧
  (∀ k s o p, (seat s k).resident = some o → (s.agenda.any (fun e => e.1 ≤ s.clock && e.2 == Instr.drainStep o)) = false → s.moves = [] →
    (∀ e, e < 1536 → connState s e ≠ 3) → (owner s o).halted = false → (owner s o).resident = true → (owner s o).drain = none →
    nextResident s k (some (seat s k).turn) = some p → p ≠ o →
    ∃ t, exec (.quantumBoundary k) s = .next t ∧ (seat t k).resident = none ∧ (seat t k).switching = some p ∧ (owner t o).resident = false ∧
      (owner t o).ocyc = (owner s o).ocyc + (s.clock - (owner s o).since) ∧
      (s.clock + 16920, Instr.worldSwitchEnd k) ∈ t.agenda ∧ (s.clock + 17664, Instr.residencyStart k) ∈ t.agenda ∧
      t.mem = s.mem ∧ t.groups = s.groups ∧ t.l2 = s.l2) ∧
  (∀ k s, (seat s k).switching = none → idles (.residencyStart k) s) ∧
  (∀ k s o, (seat s k).switching = some o → (owner s o).saved = true → (owner s o).restoring = false →
    ∃ t, exec (.residencyStart k) s = .next t ∧ (seat t k).resident = some o ∧
      t = { s with seats := t.seats, agenda := insertEvent s.agenda (s.clock + quantumOf s o) (.quantumBoundary k) }) ∧
  (∀ k s o, (seat s k).switching = some o → (owner s o).saved = false → (owner s o).restoring = false → (owner s o).image = none →
    (owner s o).drain = none → (owner s o).entering = true → (owner s o).rotaChanged = false → (owner s o).stored = [] → (owner s o).held = [] → (owner s o).back = 0 →
    (∀ e, e < 1536 → connState s e ≠ 2 ∧ connState s e ≠ 3) → s.reqs = [] → s.accs = [] → s.migs = [] → s.arrived = [] →
    s.inbound = [] → s.groups = [] → s.queues = [] →
    ∃ t, exec (.residencyStart k) s = .next t ∧ (seat t k).resident = some o ∧ (seat t k).switching = none ∧
      (owner t o).running = true ∧ (owner t o).resident = true ∧ (owner t o).entering = false ∧ (owner t o).ocyc = 0 ∧ (owner t o).since = s.clock ∧
      (s.clock + quantumOf s o, Instr.quantumBoundary k) ∈ t.agenda ∧ t.mem = s.mem ∧ t.groups = s.groups ∧ t.l2 = s.l2) ∧
  (∀ o s, (owner s o).drain = none → idles (.drainStep o) s) ∧
  (∀ o s d, (owner s o).drain = some d →
    let y := { d with lines := d.lines + d.stepLines, sets := d.sets + d.stepSets, stepLines := 0, stepSets := 0 }
    let whole := 512 * popcount d.l2 ≤ y.lines ∧ (d.l1 ≠ 0 → 64 ≤ y.sets)
    let n := min (drainRate s o).1 (512 * popcount d.l2 - y.lines)
    (¬ whole → boundaryNow s o = true →
      ∃ t, exec (.drainStep o) s = .next t ∧ t = { s with owners := t.owners, pf := t.pf } ∧ owner t o = { owner s o with drain := some y }) ∧
    (¬ whole → boundaryNow s o = false →
      ∃ t, exec (.drainStep o) s = .next t ∧
        (owner t o).drain = some { y with stepLines := n, stepSets := min (drainRate s o).2 ((if d.l1 = 0 then 0 else 64) - y.sets) } ∧
        (s.clock + 384, Instr.drainStep o) ∈ t.agenda ∧
        (∀ l ∈ t.l2, ¬ (l.owner = o ∧ d.l2.getLsbD l.way = true ∧ y.lines ≤ drainPlace d l ∧ drainPlace d l < y.lines + n)) ∧
        (∀ l ∈ s.l2, l.owner ≠ o → l ∈ t.l2) ∧ t.mem = s.mem ∧ t.groups = s.groups ∧ t.blocks = s.blocks) ∧
    (whole → (owner s o).stored = [] → (owner s o).held = [] → (owner s o).rotaChanged = false → (owner s o).back = 0 → s.reqs = [] →
      s.accs = [] → s.migs = [] → s.arrived = [] → s.inbound = [] →
      ∃ t, exec (.drainStep o) s = .next t ∧ (owner t o).drain = none ∧ (owner t o).l2ways = (owner s o).l2ways &&& ~~~d.l2 ∧
        (owner t o).l1ways = (owner s o).l1ways &&& ~~~d.l1 ∧ (∀ l ∈ t.l2, ¬ (l.owner = o ∧ d.l2.getLsbD l.way = true)) ∧
        (∀ l ∈ t.l1, ¬ (l.owner = o ∧ d.l1.getLsbD l.way = true)) ∧ (∀ l ∈ s.l2, l.owner ≠ o → l ∈ t.l2) ∧ t.mem = s.mem))

/-- R183, R338, R362, R387 to R394: a halt waits for open speculation windows and for the stores that have begun; when it
completes the owner's work is gone; a wipe leaves zeros and the owner's
lifecycle state; a reset clears everything but memory, which the full wipe clears; a lifecycle transition needs a signed request and unlocked
owners; the clock moves in steps of 20 MHz, and heat holds it down.
Where the spec leaves a choice it rests on the model's own (log entries 69, 85, 89 and 91). -/
def Obligations.HaltsWipesAndResets : Prop :=
  (∀ o s, (owner s o).halting = false → (owner s o).discarding = false → idles (.haltComplete o) s) ∧
  (∀ o s, (owner s o).halting = true →
    storesOpen s o = true ∨ s.groups.any (fun e => e.2.owner == o && e.2.live && inWindowPhase e.2) = true →
    ∃ t, exec (.haltComplete o) s = .next t ∧ (owner t o).halting = true ∧ t = { s with owners := t.owners, agenda := t.agenda } ∧
      (counts (owner s o) = true → ∃ d, s.clock < d ∧ (d, Instr.haltComplete o) ∈ t.agenda)) ∧
  (∀ o s, (owner s o).halting = true → (owner s o).discarding = false → (owner s o).after = 0 → storesOpen s o = false →
    s.groups.any (fun e => e.2.owner == o && e.2.live && inWindowPhase e.2) = false →
    ∃ t, exec (.haltComplete o) s = .next t ∧ (owner t o).halting = false ∧ (∀ e ∈ t.groups, e.2.owner ≠ o) ∧ (∀ e ∈ t.launches, e.2.owner ≠ o) ∧
      (∀ id a, mfind t.accs id = some a → a.owner = o → ∃ key, a.kind = .queue key) ∧ (∀ e ∈ t.ops, e.2.owner ≠ o)) ∧
  (∀ o s, (owner s o).wiping = false → idles (.memoryWipeComplete o) s) ∧
  (∀ o s, (owner s o).wiping = true → Memory.wf s.mem = true →
    let pages := (writablePages s o).1
    let inside (a : Nat) : Prop := ∃ p ∈ pages, p.1 ≤ a ∧ a < p.1 + p.2
    ∃ t, exec (.memoryWipeComplete o) s = .next t ∧ (owner t o).wiping = false ∧ owState t o = (owner s o).wipeTo.toNat ∧
      (∀ a, inside a → memGet t.mem a = 0) ∧ (∀ a, ¬ inside a → memGet t.mem a = memGet s.mem a) ∧
      t.l2 = s.l2.filter (fun l => l.owner != o) ∧ t.groups = s.groups) ∧
  (∀ s, ∃ t, exec .fullWipeComplete s = .next t ∧ t.mem = [] ∧ t.l2 = [] ∧ t.l1 = [] ∧ t.l0 = [] ∧ t.groups = [] ∧ t.blocks = [] ∧ t.launches = [] ∧
    t.coreTlb = [] ∧ t.dieTlb = [] ∧ t.wiping = false ∧ t.vf = s.vf ∧
    (deviceReady s = false → deviceReady t = true) ∧ (deviceReady s = true → (pfGet t 0x40).getLsbD 2 = false)) ∧
  (∀ s, ∃ t, exec (.reset true) s = .next t ∧ t.clock = 0 ∧ t.wiping = true ∧ t.groups = [] ∧ t.launches = [] ∧ t.l2 = [] ∧ t.vf = [] ∧ t.mem = s.mem ∧
    t.fuses = s.fuses ∧ t.boots = s.boots + 1 ∧ deviceReady t = false ∧ (26843568, Instr.fullWipeComplete) ∈ t.agenda ∧
    packageMHz t = (if s.hot then 400 else 940)) ∧
  (∀ s, ∃ t, exec (.reset false) s = .next t ∧ t.groups = [] ∧ t.mem = s.mem ∧ t.fuses = s.fuses ∧ deviceReady t = false ∧ ext (pfGet t 0x48) 8 4 = 1 ∧
    ∀ d, (d, Instr.fullWipeComplete) ∉ t.agenda) ∧
  (∀ s, ignored .pfFlr s) ∧
  (∀ s, deviceReady s = true → ∃ t, exec .pfFlr s = .next t ∧ t.clock = 0 ∧ t.wiping = true ∧ t.groups = [] ∧ t.vf = [] ∧ t.mem = s.mem ∧ t.fuses = s.fuses ∧
    deviceReady t = false ∧ (26843568, Instr.fullWipeComplete) ∈ t.agenda) ∧
  (∀ o s, ignored (.vfFlr o) s) ∧
  (∀ o s, deviceReady s = true → o < 32 → (owner s o).running = true → counts (owner s o) = true → (owner s o).saved = false → (owner s o).halting = false →
    (owner s o).discarding = false → (owner s o).wiping = false →
    ∃ t, exec (.vfFlr o) s = .next t ∧ t = { s with owners := t.owners, agenda := t.agenda } ∧ (owner t o).discarding = true ∧ (owner t o).flr = true ∧
      (owner t o).wipeTo = 0 ∧ (∃ d, s.clock < d ∧ (d, Instr.haltComplete o) ∈ t.agenda)) ∧
  (∀ g n s, ignored (.lifecycleToBlank g n) s ∧ ignored (.lifecycleToProvisioned g n) s ∧ ignored (.lifecycleToDeployed g n) s ∧ ignored (.lifecycleToRma g n) s) ∧
  (∀ g n s, deviceReady s = true → (pfGet s 0x40).getLsbD 2 = false → s.fuses.lifecycle < 4 →
    let row : List (Nat × Instr) := [(0, .lifecycleToBlank g n), (1, .lifecycleToProvisioned g n), (2, .lifecycleToDeployed g n), (3, .lifecycleToRma g n)]
    ∀ e ∈ row,
      (g = true → n = s.fuses.serial → allUnlocked s = true → (s.fuses.lifecycle, e.1) ∈ [(0, 1), (1, 2), (2, 3), (1, 3)] →
        ∃ t, exec e.2 s = .next t ∧ t.fuses.lifecycle = e.1 ∧ t.fuses.count = s.fuses.count + 1 ∧ t.fuses.root = (e.1 != 3 && (e.1 == 1 || s.fuses.root)) ∧
          (pfGet t 0x40).getLsbD 2 = true ∧ t.wiping = true ∧
          t = { s with fuses := t.fuses, wiping := t.wiping, pf := t.pf, agenda := insertEvent s.agenda (s.clock + 26843568) .fullWipeComplete }) ∧
      (g = false ∨ n ≠ s.fuses.serial ∨ allUnlocked s = false ∨ (s.fuses.lifecycle, e.1) ∉ [(0, 1), (1, 2), (2, 3), (1, 3)] →
        ∃ t, exec e.2 s = .next t ∧ t = { s with pf := t.pf } ∧ ext (pfGet t 0x48) 8 4 = 2 ∧ (pfGet t 0x40).getLsbD 2 = false)) ∧
  (∀ up x s, ∃ t, exec (.clockStep up x) s = .next t ∧ t = { s with pf := t.pf } ∧
    packageMHz t = (if up then (if s.hot then packageMHz s else min 940 (packageMHz s + 20)) else max 400 (packageMHz s - 20)) ∧
    ext (pfGet t 0x50) 0 16 = ext (pfGet s 0x50) 0 16) ∧
  (∀ s, ∃ t, exec .thermalThrottle s = .next t ∧ t = { s with pf := t.pf, hot := true } ∧ packageMHz t = 400) ∧
  (∀ s, ∃ t, exec .thermalRecover s = .next t ∧ t = { s with hot := false }) ∧
  (∀ s, ∃ t, exec .thermalShutdown s = .next t ∧ t.powered = false ∧ t.shutdown = true ∧ t.groups = [] ∧ t.l2 = [] ∧ t.mem = [] ∧ t.vf = [] ∧ t.fuses = s.fuses)

/-- R362 to R365: an interface of a TDISP owner answers its messages; a lock and a start move it between its states, a stop discards
its work; a message to an owner that is not under TDISP is an error. That a mailbox's first byte tells the message, and its
value, is the model's choice (log entry 44). -/
def Obligations.InterfaceMessages : Prop :=
  let rows (o : Nat) : List Instr := [.getTdispVersion o, .getTdispCapabilities o, .lockInterfaceRequest o, .getDeviceInterfaceReport o,
    .getDeviceInterfaceState o, .startInterfaceRequest o, .stopInterfaceRequest o]
  (∀ o s, ∀ e ∈ rows o, ignored e s) ∧
  (∀ o s, deviceReady s = true → o < 32 → owTdisp s o = false → ∀ e ∈ rows o,
    ∃ t, exec e s = .next t ∧ t = { s with mailbox := [0x7F] }) ∧
  (∀ o s, deviceReady s = true → o < 32 → owTdisp s o = true →
    (∃ t, exec (.getTdispVersion o) s = .next t ∧ t = { s with mailbox := t.mailbox } ∧ t.mailbox.length = 3) ∧
    (∃ t, exec (.getTdispCapabilities o) s = .next t ∧ t = { s with mailbox := t.mailbox } ∧ t.mailbox.length = 17) ∧
    (∃ t, exec (.getDeviceInterfaceReport o) s = .next t ∧ t = { s with mailbox := t.mailbox } ∧
      t.mailbox.length = 1 + 0x300 + 8 * (activeConns s o).length ∧ numOf ((t.mailbox.drop 3).take 2) = 0x300 + 8 * (activeConns s o).length % 65536) ∧
    (∃ t, exec (.getDeviceInterfaceState o) s = .next t ∧ t = { s with mailbox := [0x05, BitVec.ofNat 8 (owState s o)] }) ∧
    (owState s o = 0 → (owner s o).wiping = false → (owner s o).discarding = false →
      ∃ t, exec (.lockInterfaceRequest o) s = .next t ∧ t = { s with mailbox := t.mailbox, pf := t.pf, owners := t.owners } ∧ owState t o = 1 ∧
        (owner t o).lockCount = (owner s o).lockCount + 1 ∧ (owner t o).key = some ((owner s o).lockCount + 1)) ∧
    (owState s o ≠ 0 → ∃ t, exec (.lockInterfaceRequest o) s = .next t ∧ t = { s with mailbox := [0x7F] }) ∧
    (owState s o = 1 → mayRun s o = true → (owner s o).wiping = false →
      ∃ t, exec (.startInterfaceRequest o) s = .next t ∧ t = { s with mailbox := t.mailbox, pf := t.pf, owners := t.owners } ∧ owState t o = 2 ∧
        (owner t o).entering = true) ∧
    (owState s o ≠ 1 ∨ mayRun s o = false → ∃ t, exec (.startInterfaceRequest o) s = .next t ∧ t = { s with mailbox := [0x7F] }) ∧
    ((owner s o).running = true → counts (owner s o) = true → (owner s o).saved = false → (owner s o).halting = false → (owner s o).discarding = false →
      (owner s o).wiping = false →
      ∃ t, exec (.stopInterfaceRequest o) s = .next t ∧ t = { s with owners := t.owners, agenda := t.agenda } ∧ (owner t o).discarding = true ∧
        (owner t o).stopping = true ∧ (owner t o).wipeTo = 0 ∧ (∃ d, s.clock < d ∧ (d, Instr.haltComplete o) ∈ t.agenda))) ∧
  (∀ c s, ignored (.spdmMessage c) s) ∧
  (∀ c s, deviceReady s = true → ∃ t, exec (.spdmMessage c) s = .next t ∧ t = { s with mailbox := t.mailbox } ∧
    (s.fuses.root = true → t.mailbox.length = 64) ∧ (s.fuses.root = false → t.mailbox = [0x7F]))

/-- R366 to R370: the debug port obeys in PROVISIONED or under a valid token, and otherwise changes nothing and reads as 0.
Where the spec leaves a choice it rests on the model's own (log entries 15, 87 and 88). -/
def Obligations.DebugPort : Prop :=
  let refused (e : Instr) (s : State) : Prop := ∃ t, exec e s = .next t ∧ t = { s with readout := [0] }
  (∀ g n m x s, ignored (.debugToken g n m x) s) ∧
  (∀ g n m x s, deviceReady s = true →
    (g = true → n = s.fuses.serial → s.fuses.count.toNat < x.toNat →
      ∃ t, exec (.debugToken g n m x) s = .next t ∧ t = { s with tokens := t.tokens } ∧ (∃ k, t.tokens = some k ∧ k.owners = m ∧ k.expiry = x)) ∧
    (g = false ∨ n ≠ s.fuses.serial ∨ x.toNat ≤ s.fuses.count.toNat → refused (.debugToken g n m x) s)) ∧
  (∀ o d c k s, deviceReady s = true →
    (named s o (debugKey d c k) = true →
      (∃ t, exec (.hold o d c k) s = .next t ∧ t = { s with groups := t.groups, readout := [] } ∧
        group t (debugKey d c k) = { group s (debugKey d c k) with held := true } ∧ (∀ j, j ≠ debugKey d c k → mfind t.groups j = mfind s.groups j)) ∧
      (∃ t, exec (.release o d c k) s = .next t ∧ t = { s with groups := t.groups, readout := [] } ∧
        group t (debugKey d c k) = { group s (debugKey d c k) with held := false, stepFrag := none } ∧
        (∀ j, j ≠ debugKey d c k → mfind t.groups j = mfind s.groups j)) ∧
      (∀ l f, (group s (debugKey d c k)).frags.find? (fun f => f.mask.getLsbD l) = some f → unparked s (debugKey d c k) f = true →
        ∃ t, exec (.step o d c k l) s = .next t ∧ t = { s with groups := t.groups, readout := [], stepping := some (debugKey d c k, f.mask) } ∧
          group t (debugKey d c k) = { group s (debugKey d c k) with held := true, stepFrag := some f.id })) ∧
    (named s o (debugKey d c k) = false → refused (.hold o d c k) s ∧ refused (.release o d c k) s ∧ ∀ l, refused (.step o d c k l) s)) ∧
  (∀ o c n a m e s, deviceReady s = true →
    (portAllows s o = true → n < 4 → ∃ t, exec (.bpset o c n a m e) s = .next t ∧ t = { s with breakpoints := t.breakpoints, readout := [] } ∧
      mfind t.breakpoints (bpKey o c n) = some ⟨a, m, e⟩ ∧ ∀ j, j ≠ bpKey o c n → mfind t.breakpoints j = mfind s.breakpoints j) ∧
    (portAllows s o = false ∨ 4 ≤ n → refused (.bpset o c n a m e) s)) ∧
  (∀ o k i s, i < 2 ^ 20 →
    (named s o k = true → ∃ t, exec (.read o 1 (k * 2 ^ 20 + i)) s = .next t ∧ t = { s with readout := [rs (group s k) i] }) ∧
    (named s o k = true → ∃ t, exec (.read o 0 (k * 2 ^ 20 + i)) s = .next t ∧ t = { s with readout := [(rv (group s k) (i / 32) (i % 32)).setWidth 64] }) ∧
    (∀ x, x ≠ 11 → named s o k = false → refused (.read o x (k * 2 ^ 20 + i)) s)) ∧
  (∀ s, portOpen s = true → (∃ t, exec .freeze s = .next t ∧ t = { s with frozen := true, readout := [] }) ∧
    (∃ t, exec .thaw s = .next t ∧ t = { s with frozen := false, readout := [] })) ∧
  (∀ s, portOpen s = false → refused .freeze s ∧ refused .thaw s) ∧
  (∀ s, (s.fuses.lifecycle < 2 ∨ (validToken s).isSome = true → ∃ t, exec .frzNLow s = .next t ∧ t = { s with pinLow := true }) ∧
    (2 ≤ s.fuses.lifecycle → validToken s = none → idles .frzNLow s) ∧ ∃ t, exec .frzNHigh s = .next t ∧ t = { s with pinLow := false })

namespace Sys2Proof.Claims

/-- The address lies in a scratchpad window and reaches offset `off` of block `b`. -/
def WindowAt (s : State) (own : Nat) (va : BitVec 64) (b off : Nat) : Prop := inWindow va = true ∧ windowTarget s own va = some (b, off)

/-- Bytes `xs` stand at an offset of a block's scratchpad, and no other byte of it, and no other block, has changed. -/
def SpadWritten (s t : State) (b off : Nat) (xs : List (BitVec 8)) : Prop :=
  (∀ i x, xs[i]? = some x → spadByte t b (off + i) = x) ∧ (∀ i, i < off ∨ off + xs.length ≤ i → spadByte t b i = spadByte s b i) ∧
  (∀ j, j ≠ b → mfind t.blocks j = mfind s.blocks j)

/-- An operation's group and block go on when the operation ends: the group and the block hold threads and no saggar waits. -/
def StaysLive (s : State) (x : EngOp) : Prop :=
  (group s x.g).block = x.block ∧ threads (group s x.g) ≠ 0 ∧ groupThreads s x.block ≠ 0 ∧ (block s x.block).saggars = []

end Sys2Proof.Claims

/-- R10, R53, R54, R68, R69, R90, R91, R410: requests, replies and links from outside the package: a request waits for
its owner, fails with a completion error, or enters its home slice's stream; a reply reaches what asked; errors strike stored
words, one bit held until the word's next access, and a second before it, or more bits at once, beyond correction.
Where the spec leaves a choice it rests on the model's own (log entries 82, 83, 84, 93 and 109). -/
def Obligations.OutsideInputs : Prop :=
  (∀ p d s, ignored (.peerLinkUp p d) s) ∧
  (∀ p d s, deviceReady s = true → p < 4 → ∃ t, exec (.peerLinkUp p d) s = .next t ∧ t = { s with pf := t.pf, owners := t.owners } ∧
    pfGet t (0x480 + 8 * p) = BitVec.ofNat 64 (65536 + d.toNat) ∧ (∀ o, o < 32 → counts (owner s o) = true → (p, d) ∈ (owner t o).peers) ∧
    (∀ o, counts (owner s o) = false → owner t o = owner s o)) ∧
  (∀ p s, p < 4 → s.exts = [] → ∃ t, exec (.peerLinkDown p) s = .next t ∧ t = { s with pf := t.pf, owners := t.owners, inbound := t.inbound } ∧
    pfGet t (0x480 + 8 * p) = 0 ∧ (∀ e ∈ t.inbound, e.2.port ≠ p + 1 ∨ e.2.taken = true) ∧ (∀ e ∈ s.inbound, e.2.port ≠ p + 1 → e ∈ t.inbound)) ∧
  (∀ p s i r, p < 4 → s.exts = [(i, r)] → r.space = p + 2 → r.posted = false → counts (owner s r.owner) = false →
    ∃ t, exec (.peerLinkDown p) s = .next t ∧ t.arrived = s.arrived ++ [(i, false, 0)] ∧ t.groups = s.groups ∧ t.mem = s.mem) ∧
  (∀ o w a n x r i s, ignored (.hostMemoryRequest o w a n x r i) s) ∧
  (∀ o w a n x r i s, deviceReady s = true → o < 32 → n ≤ 64 →
    let q : Inbound := ⟨o, 0, a, w, n, x, r, i, false⟩
    let v : State := { s with inbound := mset s.inbound s.nextId q, nextId := s.nextId + 1 }
    (servesInbound s o = false → ∃ t, exec (.hostMemoryRequest o w a n x r i) s = .next t ∧ t = v) ∧
    (∀ u, servesInbound s o = true → inboundPlace v q = (none, u) → ∃ t, exec (.hostMemoryRequest o w a n x r i) s = .next t ∧
      t.returned = u.returned ++ [(s.nextId, 0, true)] ∧ mfind t.inbound s.nextId = none ∧ t.mem = u.mem ∧ t.l2 = u.l2 ∧ t.groups = u.groups) ∧
    (∀ pa y u, servesInbound s o = true → inboundPlace v q = (some (pa, y), u) → ∃ t, exec (.hostMemoryRequest o w a n x r i) s = .next t ∧
      (∃ e, mfind t.reqs u.nextId = some e ∧ e.owner = o ∧ e.home = homeOf pa ∧ e.line = pa / 128 ∧ e.agent = .inbound s.nextId ∧
        (w = false → e.kind = .read [])) ∧
      (∃ d, u.clock ≤ d ∧ (d, Instr.l2Access u.nextId) ∈ t.agenda) ∧ t.mem = u.mem ∧ t.l2 = u.l2 ∧ t.groups = u.groups)) ∧
  (∀ p l w a n x s, p < 4 → portUp s p = false → idles (.peerRequest p l w a n x) s) ∧
  (∀ p l w a n x s, p < 4 → l < 16 → portUp s p = true → (∀ o, o < 32 → (owner s o).lanes.contains (16 * p + l) = false) →
    ∃ t, exec (.peerRequest p l w a n x) s = .next t ∧ t = { s with returned := s.returned ++ [(s.nextId, 0, true)], nextId := s.nextId + 1 }) ∧
  (∀ p l w a n x s o, p < 4 → l < 16 → n ≤ 64 → deviceReady s = true → portUp s p = true →
    (List.range 32).find? (fun o => (owner s o).lanes.contains (16 * p + l)) = some o → servesInbound s o = false →
    ∃ t, exec (.peerRequest p l w a n x) s = .next t ∧
      t = { s with inbound := mset s.inbound s.nextId ⟨o, p + 1, a, w, n, x, false, false, false⟩, nextId := s.nextId + 1 }) ∧
  (∀ i ok x s, mfind s.exts i = none → idles (.externalReply i ok x) s) ∧
  (∀ i ok x s r, mfind s.exts i = some r → counts (owner s r.owner) = false →
    ∃ t, exec (.externalReply i ok x) s = .next t ∧ t = { s with arrived := s.arrived ++ [(i, ok, x)] }) ∧
  (∀ i ok x s r, mfind s.exts i = some r → counts (owner s r.owner) = true → r.who = .nobody →
    ∃ t, exec (.externalReply i ok x) s = .next t ∧ t = { s with exts := mdel s.exts i }) ∧
  (∀ i x s r j lane a key, mfind s.exts i = some r → counts (owner s r.owner) = true → r.who = .acc j lane → mfind s.accs j = some a →
    a.kind = .queue key → r.write = none → a.passes = [] →
    ∃ t, exec (.externalReply i true x) s = .next t ∧ t = { s with exts := mdel s.exts i, accs := t.accs, agenda := t.agenda } ∧
      mfind t.accs j = some { a with
        waiting := a.waiting - 1, got := a.got ++ [(lane, BitVec.ofNat 1024 (x.toNat % 2 ^ (8 * r.bytes) * 2 ^ (8 * (r.addr % 128))))] } ∧
      (∀ e, queueEvent s key = some e → (s.clock, e) ∈ t.agenda)) ∧
  (∀ k i n s, ∃ t, exec (.softError 9 k i n) s = .next t ∧ t = { s with errors := t.errors } ∧ mget t.errors k = mget s.errors k + n ∧
    ∀ j, j ≠ k → mfind t.errors j = mfind s.errors j) ∧
  (∀ p k i s, p ≠ 9 → idles (.softError p k i 0) s) ∧
  (∀ p k i s c, p ≠ 9 → lastAccess s p k i = some c → (p, k, i, c) ∉ s.weak → ∃ t, exec (.softError p k i 1) s = .next t ∧
    t = { s with weak := t.weak } ∧ (p, k, i, c) ∈ t.weak) ∧
  (∀ k i n s c, lastAccess s 2 k i = some c → 2 ≤ n ∨ (n = 1 ∧ (2, k, i, c) ∈ s.weak) → i < (block s k).spadSize →
    ∃ t, exec (.softError 2 k i n) s = .next t ∧ t = { s with blocks := t.blocks, weak := t.weak } ∧
    block t k = { block s k with spadBad := i :: (block s k).spadBad } ∧ (2, k, i, c) ∉ t.weak) ∧
  (∀ k i n s l, 2 ≤ n ∨ (n = 1 ∧ (4, k, i, l.used) ∈ s.weak) → s.l2 = [l] → l.die = k → l.line = i → ∃ t, exec (.softError 4 k i n) s = .next t ∧
    t = { s with weak := t.weak, l2 := [if l.dirty ≠ 0#128 ∨ (l.hc = true ∧ l.replica = false) then { l with poisoned := true } else { l with bad := true }] })

/-- R89, R118, R287, R288, R291: an engine reads a line in its position and writes it when the data has come, in line order; a copy
whose writes are performed retires; a drain ends when its coil's tagged writes are acknowledged; an operation that has faulted does
nothing more (R340). Where the spec leaves a choice it rests on the model's own (log entries 13 and 51). -/
def Obligations.CopyLinesMove : Prop :=
  (∀ id s, mfind s.ops id = none → idles (.cpyLineRead id) s ∧ idles (.bcpyLineRead id) s ∧ idles (.engineWritePresent id) s ∧ idles (.coilDrainComplete id) s) ∧
  (∀ id s x (bulk : Bool), mfind s.ops id = some x → claimAt s x.owner 6 (32 * x.die + x.core) s.clock ≠ s.clock →
    let ev : Instr := if bulk then .bcpyLineRead id else .cpyLineRead id
    ∃ t, exec ev s = .next t ∧ t = { s with agenda := insertEvent s.agenda (claimAt s x.owner 6 (32 * x.die + x.core) s.clock) ev }) ∧
  (∀ id s x (bulk : Bool) lane d src n b off b' off' data, s.ops = [(id, x)] → s.accs = [] → (owner s x.owner).saving = false → x.dead = false →
    claimAt s x.owner 6 (32 * x.die + x.core) s.clock = s.clock → x.nextRead = 0 → x.nextWrite = 0 → x.half = 0 → x.left = 1 → x.cpybar = 0 → x.coil = 0 →
    x.pend = [] →
    let l : LineOp := ⟨[lane], [(d, src, n)]⟩
    (if bulk then x.kind = .bcpy ∧ bulkLine x 0 = l else x.kind = .cpy ∧ x.lines = [l]) →
    WindowAt s x.block src b off → WindowAt s x.block d b' off' → spadSource s b off l = some data →
    ∃ t, exec (if bulk then .bcpyLineRead id else .cpyLineRead id) s = .next t ∧
      t = { s with ops := t.ops, accs := t.accs, claims := t.claims, agenda := t.agenda, nextId := s.nextId + 1 } ∧
      mfind t.ops id = some { x with nextRead := 1 } ∧
      (∃ a, mfind t.accs s.nextId = some a ∧ a.kind = .line id 0 ∧ a.got = [(0, data)] ∧ a.checked = true ∧ a.faults = [] ∧ (reqOf a 8).va = d) ∧
      (s.clock + 2, Instr.engineWritePresent id) ∈ t.agenda) ∧
  (∀ id s x k a lane d src n b off data, s.ops = [(id, x)] → s.accs = [(k, a)] → x.kind = .cpy ∨ x.kind = .bcpy → x.dead = false → x.cpybar = 0 →
    x.nextRead = 1 → x.nextWrite = 0 → x.left = 2 →
    let l : LineOp := ⟨[lane], [(d, src, n)]⟩
    lineAt x 0 = l → a.kind = .line id 0 → a.block = x.block → a.spad = false → a.op = none → a.checked = true → a.faults = [] → a.unperformed = 0 →
    a.got = [(0, data)] → a.avail ≤ s.clock → (reqOf a 8).va = d → WindowAt s x.block d b off →
    let w := copyBytes x (2 ^ 60 + 2 ^ 20 * b + off / 128 * 128) l [data]
    ∃ t, exec (.engineWritePresent id) s = .next t ∧ t.blocks = (spadMerge s b (off / 128 * 128) w.2 (bitMask w.1)).blocks ∧ onlyBlock s t b ∧
      t.mem = s.mem ∧ t.l2 = s.l2 ∧ t.groups = s.groups ∧ t.accs = [] ∧
      (∃ y, mfind t.ops id = some y ∧ y.nextWrite = 1 ∧ y.bytes = x.bytes + n ∧ y.left = 2)) ∧
  (∀ id s x, mfind s.ops id = some x → x.kind = .cpy ∨ x.kind = .bcpy → x.dead = false → s.accs = [] → x.nextWrite < x.left →
    ∃ t, exec (.engineWritePresent id) s = .next t ∧ t = { s with agenda := t.agenda }) ∧
  (∀ id s x, s.ops = [(id, x)] → x.kind = .cpy ∨ x.kind = .bcpy → x.dead = false → s.accs = [] → x.left ≤ x.nextWrite → x.coil = 0 →
    (owner s x.owner).halting = false → StaysLive s x →
    ∃ t, exec (.engineWritePresent id) s = .next t ∧ t.ops = [] ∧ t.mem = s.mem ∧ t.l2 = s.l2) ∧
  (∀ id s x, mfind s.ops id = some x → x.dead = true → idles (.engineWritePresent id) s ∧ idles (.tldDataArrival id) s) ∧
  (∀ id s x q, mfind s.ops id = some x → x.kind = .drain q → x.coil = 0 → StaysLive s x → (mfind (block s x.block).coils q).isSome = true →
    ∃ t, exec (.coilDrainComplete id) s = .next t ∧ mfind t.ops id = none ∧
      (mget (block t x.block).coils q).drains = (mget (block s x.block).coils q).drains.filter (fun i => i != id) ∧
      (mget (block t x.block).coils q).die = (mget (block s x.block).coils q).die ∧ t.mem = s.mem ∧ t.l2 = s.l2)

/-- R123, R192, R301 to R306: a tile transfer starts by clearing its tile, asks for its lines in request order, takes each as it
comes, and retires with padding in place; an `mma` writes its result at its last position; a freed tile is wiped and given back.
Where the spec leaves a choice it rests on the model's own (log entries 13, 54 and 56). -/
def Obligations.TileOperationsRun : Prop :=
  (∀ id s, mfind s.ops id = none → idles (.tileTransferStart id) s ∧ idles (.tldDataArrival id) s ∧ idles (.tldRetire id) s ∧ idles (.mmaPosition id) s) ∧
  (∀ id s x, mfind s.ops id = some x → rota s x.owner 5 = 0 →
    (∃ t, exec (.tileTransferStart id) s = .next t ∧ t = { s with agenda := insertEvent s.agenda ((s.clock / 768 + 1) * 768) (.tileTransferStart id) }) ∧
    (∃ t, exec (.mmaPosition id) s = .next t ∧ t = { s with agenda := insertEvent s.agenda ((s.clock / 768 + 1) * 768) (.mmaPosition id) })) ∧
  (∀ id s x key, mfind s.ops id = some x → rota s x.owner 5 ≠ 0 → x.kind = .tld → x.tiles = [key] →
    (x.lines = [] → ∃ t, exec (.tileTransferStart id) s = .next t ∧ t = { s with blocks := t.blocks, agenda := insertEvent s.agenda (s.clock + 16) (.tldRetire id) } ∧
      tileAt (block t x.block) key = { tileAt (block s x.block) key with data := 0, side := 0, poisoned := false } ∧ onlyBlock s t x.block ∧
      (∀ j, j ≠ key → mfind (block t x.block).tiles j = mfind (block s x.block).tiles j)) ∧
    (∀ l, x.lines = [⟨[], [(l, l, 128)]⟩] → ∃ t, exec (.tileTransferStart id) s = .next t ∧
      t = { s with blocks := t.blocks, accs := t.accs, nextId := s.nextId + 1, agenda := insertEvent s.agenda s.clock (.coreTlbLookup s.nextId) } ∧
      tileAt (block t x.block) key = { tileAt (block s x.block) key with data := 0, side := 0, poisoned := false } ∧ onlyBlock s t x.block ∧
      (∃ a, mfind t.accs s.nextId = some a ∧ a.kind = .line id 0 ∧ a.reqs = [readReq 0 l 0 128] ∧ a.owner = x.owner ∧ a.avail = s.clock))) ∧
  (∀ id s x key l, mfind s.ops id = some x → rota s x.owner 5 ≠ 0 → x.kind = .tst → x.tiles = [key] →
    x.lines = [⟨[], [(l, l, 128)]⟩] → (tileAt (block s x.block) key).poisoned = false →
    let p := storeLine x (tileAt (block s x.block) key).data (l.toNat / 128)
    ∃ t, exec (.tileTransferStart id) s = .next t ∧
      t = { s with accs := t.accs, nextId := s.nextId + 1, agenda := insertEvent s.agenda s.clock (.coreTlbLookup s.nextId) } ∧
      (∃ a, mfind t.accs s.nextId = some a ∧ a.kind = .line id 0 ∧ a.reqs = [⟨8, l, 0, 0⟩] ∧ a.got = [(8, p.1), (9, p.2)] ∧ a.unperformed = 1)) ∧
  (∀ id s x, s.ops = [(id, x)] → s.accs = [] → x.kind = .tst → x.dead = false → x.coil = 0 → (owner s x.owner).halting = false → StaysLive s x →
    s.blocks = [(x.block, block s x.block)] → (∀ p, mget (block s x.block).freeing p = []) →
    ∃ t, exec (.engineWritePresent id) s = .next t ∧ t.ops = [] ∧ t.mem = s.mem) ∧
  (∀ id s x, mfind s.ops id = some x → s.accs = [] → idles (.tldDataArrival id) s) ∧
  (∀ id s x k a key l data, s.ops = [(id, x)] → s.accs = [(k, a)] → x.dead = false → x.nextWrite = 0 → x.left = 1 → x.tiles = [key] →
    x.lines = [⟨[], [(l, l, 128)]⟩] → a.kind = .line id 0 → a.faults = [] → a.op = none → a.got = [(0, data)] →
    let xs := bytesOf 128 data.toNat
    let y := tileAt (block s x.block) key
    ∃ t, exec (.tldDataArrival id) s = .next t ∧
      tileAt (block t x.block) key = { y with data := readLineOf x y.data (l.toNat / 128) xs, side := loadSide x y.side (l.toNat / 128) xs } ∧
      mfind t.ops id = some { x with nextWrite := 1 } ∧ t.accs = [] ∧ (s.clock + 2, Instr.tldRetire id) ∈ t.agenda ∧ onlyBlock s t x.block ∧ t.mem = s.mem) ∧
  (∀ id s x key, s.ops = [(id, x)] → x.tiles = [key] → x.coil = 0 → (owner s x.owner).halting = false → StaysLive s x → s.blocks = [(x.block, block s x.block)] →
    (∀ p, mget (block s x.block).freeing p = []) →
    ∃ t, exec (.tldRetire id) s = .next t ∧ t.ops = [] ∧
      tileAt (block t x.block) key = { tileAt (block s x.block) key with
        data := padGroups x (tileAt (block s x.block) key).data (tileAt (block s x.block) key).side } ∧ t.mem = s.mem) ∧
  (∀ id s x, mfind s.ops id = some x → rota s x.owner 5 ≠ 0 → 1 < x.left →
    ∃ t, exec (.mmaPosition id) s = .next t ∧ t = { s with ops := t.ops } ∧ mfind t.ops id = some { x with left := x.left - 1 } ∧
      ∀ j, j ≠ id → mfind t.ops j = mfind s.ops j) ∧
  (∀ id s x d a b, s.ops = [(id, x)] → x.kind = .mma → rota s x.owner 5 ≠ 0 → x.left = 1 → x.tiles = [d, a, b] → x.coil = 0 →
    (owner s x.owner).halting = false → StaysLive s x → s.blocks = [(x.block, block s x.block)] → (∀ p, mget (block s x.block).freeing p = []) →
    let y (k : Nat) : Tile := tileAt (block s x.block) k
    (y d).poisoned = false → (y a).poisoned = false → (y b).poisoned = false →
    ∀ r, mmaResult x.semiring [(y d).data] (y a).data (y b).data (y b).side (x.shapes.getD 1 0) (x.shapes.getD 2 0) = [r] →
    ∃ t, exec (.mmaPosition id) s = .next t ∧ t.ops = [] ∧ tileAt (block t x.block) d = { y d with data := r } ∧
      (∀ k, k ≠ d → mfind (block t x.block).tiles k = mfind (block s x.block).tiles k) ∧ t.mem = s.mem) ∧
  (∀ b p s, mget (block s b).freeing p = [] → idles (.tfreeWipe b p) s) ∧
  (∀ b p s x k, s.blocks = [(b, x)] → mget x.freeing p = [k] → rota s x.owner 5 ≠ 0 → x.wants = [] →
    ∃ t, exec (.tfreeWipe b p) s = .next t ∧ t = { s with blocks := t.blocks } ∧ mget (block t b).freeing p = [] ∧
      mfind (block t b).tiles k = none ∧ (∀ j, j ≠ k → mfind (block t b).tiles j = mfind x.tiles j))

/-- A line lies in a window (R5). -/
def WindowLine (s : State) (o : EngOp) (l : Nat) : Prop := ∃ b off, WindowAt s o.block (BitVec.ofNat 64 (l * 128)) b off

/-- All that a run's operation has in flight are lines that its step has read. -/
def ReadsHere (s : State) (op : Nat) : Prop := ∀ e ∈ s.accs, e.2.kind = .line op 0 ∧ e.2.unperformed = 0 ∧ e.2.has 0 = true ∧ e.2.faults = []

/-- The one line that holds a run's out fields, as they are written with an exit code (R319). -/
def OutLine (s : State) (o : EngOp) (x : RefRun) (code l : Nat) (mask : BitVec 128) (data : BitVec 1024) : Prop :=
  writtenLines s o ((outFields x code).zipIdx.map (fun b => ((outVa x).toNat + b.2, b.1))) = [(l, mask, data)] ∧ mask ≠ 0 ∧ WindowLine s o l

/-- A run has left its steps, and the write of its out fields is on its way. -/
def Leaves (s t : State) (id : Nat) (x : RefRun) (code act l : Nat) (mask : BitVec 128) (data : BitVec 1024) : Prop :=
  (∃ y, mfind t.runs id = some y ∧ y.phase = .leave code act ∧ y.issLeft = 0 ∧ y.rung = x.rung ∧ y.eta = x.eta ∧ y.total = x.total ∧ y.state = x.state) ∧
  (∃ a, mfind t.accs s.nextId = some a ∧ a.kind = .line x.op 0 ∧ a.reqs = [⟨8, BitVec.ofNat 64 (l * 128), 0, 0⟩] ∧
    a.got = [(8, data), (9, bitMask mask)] ∧ a.unperformed = 1) ∧ t.mem = s.mem ∧ t.groups = s.groups ∧ t.blocks = s.blocks

/-- R85, R86, R139, R314, R319, R320, R322 to R324: a queued Refire run starts and presents its first reads; when they have come its
step takes its positions; then it computes, and writes, exits, stops for a save or goes on; an abort or a save stops it at a step
boundary, and an exit writes its fields and retires the run, with a pending trap under the trap action; a landing request is granted a
free slot, the group's state is shipped, and it stands in the landing slot with its registers; an invalidation removes its entries on
each die, then completes. Where the spec leaves a choice it rests on the model's own (log entries 13, 40, 42, 57 and 105). -/
def Obligations.RunsAndMigrationsMove : Prop :=
  (∀ id s y, mget s.runs id = y → runsIn s y.owner (32 * y.die + y.core) 2 ≠ [] ∨ oldestRun s y.owner (32 * y.die + y.core) = none →
    idles (.refireRunStart id) s) ∧
  (∀ id s x o l, s.runs = [(id, x)] → x.state = 1 → s.ops = [(x.op, o)] → s.accs = [] → o.kind = .rfire → o.pend = [] → o.coil = 0 →
    linesOf (stepReads { x with state := 2, phase := .start }) = [l] → WindowLine s o l → (o.nextRead = s.clock → o.half < 4) →
    ∃ t, exec (.refireRunStart id) s = .next t ∧ mfind t.runs id = some { x with state := 2, phase := .start } ∧
      (∃ p, mfind t.ops x.op = some p ∧ p.pend = [] ∧ p.started = true) ∧
      (∃ a, mfind t.accs s.nextId = some a ∧ a.kind = .line x.op 0 ∧ a.reqs = [readReq 0 (BitVec.ofNat 64 (l * 128)) 0 128]) ∧
      t.groups = s.groups ∧ t.blocks = s.blocks ∧ t.mem = s.mem) ∧
  (∀ id s x o, s.runs = [(id, x)] → s.ops = [(x.op, o)] → o.kind = .rfire → o.dead = false → o.pend = [] → o.started = true → ReadsHere s x.op →
    (∀ a b, x.phase ≠ .leave a b) → x.issLeft = 0 →
    ∃ t, exec (.engineWritePresent x.op) s = .next t ∧
      (∃ i b, mfind t.runs id = some { x with issLeft := i, issTaken := (stepPositions x).1, tilEnd := b, tilLeft := (stepPositions x).2 }) ∧
      (∃ p, mfind t.ops x.op = some p ∧ p.started = false) ∧ (∃ d, (d, Instr.refireStep id) ∈ t.agenda) ∧ t.accs = s.accs ∧ t.mem = s.mem) ∧
  (∀ id s, mfind s.runs id = none → idles (.refireStep id) s) ∧
  (∀ id s x, mfind s.runs id = some x → x.state ≠ 2 → x.state ≠ 4 → idles (.refireStep id) s) ∧
  (∀ id s x o, mfind s.runs id = some x → mfind s.ops x.op = some o → o.dead = true → idles (.refireStep id) s) ∧
  (∀ id s x o y ws e, s.runs = [(id, x)] → x.state = 2 ∨ x.state = 4 → s.ops = [(x.op, o)] → o.dead = false → o.pend = [] → o.started = false → o.coil = 0 →
    ReadsHere s x.op → (∀ a b, x.phase ≠ .leave a b) → x.issLeft = 0 → rota s x.owner x.part ≠ 0 → rota s x.owner 5 ≠ 0 →
    refStep x (stepLines s x.op) = (y, ws, e) → y.op = x.op → (∀ a b, y.phase ≠ .leave a b) → writtenLines s o (elemBytes ws) = [] →
    (o.nextRead = s.clock → o.half < 4) →
    (e = none → x.abort = false → (owner s y.owner).saving = true →
      ∃ t, exec (.refireStep id) s = .next t ∧ mfind t.runs id = some { y with abort := false } ∧ t.accs = [] ∧ t.agenda = s.agenda ∧ t.mem = s.mem) ∧
    (e = none → x.abort = false → (owner s y.owner).saving = false → stepReads y = [] →
      ∃ t, exec (.refireStep id) s = .next t ∧ t.accs = [] ∧ (∃ d, (d, Instr.refireStep id) ∈ t.agenda) ∧ t.mem = s.mem ∧
        ∃ i n b k, mfind t.runs id = some { y with abort := false, issLeft := i, issTaken := n, tilEnd := b, tilLeft := k }) ∧
    (∀ z act l mask data, e = some (z, act) ∨ (e = none ∧ x.abort = true ∧ z = .aborted ∧ act = 0) →
      OutLine s o y z.code l mask data → ∃ t, exec (.refireStep id) s = .next t ∧ Leaves s t id y z.code act l mask data)) ∧
  (∀ id s x o, s.runs = [(id, x)] → x.state = 2 ∨ x.state = 4 → s.ops = [(x.op, o)] → o.dead = false → o.pend = [] → o.coil = 0 → ReadsHere s x.op →
    hasInner x = true → x.issLeft ≠ 0 → rota s x.owner x.part ≠ 0 → rota s x.owner 5 ≠ 0 → (o.nextRead = s.clock → o.half < 4) →
    (let p := (stepPositions x).1 - x.issLeft
     (∀ l mask data, x.abort = true → breakable x p false = true → OutLine s o x 5 l mask data →
       ∃ t, exec (.refireStep id) s = .next t ∧ Leaves s t id x 5 0 l mask data) ∧
     (x.abort = false → (owner s x.owner).saving = true → breakable x p true = true →
       ∃ t, exec (.refireStep id) s = .next t ∧ t = { s with runs := t.runs, accs := [] } ∧ ∃ n, mfind t.runs id = some { x with tilLeft := n }) ∧
     ((x.abort = false ∧ (owner s x.owner).saving = false) ∨ breakable x p true = false →
       ∃ t, exec (.refireStep id) s = .next t ∧ mfind t.runs id = some { x with issLeft := x.issLeft - 1 } ∧
         (∃ d, (d, Instr.refireStep id) ∈ t.agenda) ∧ t = { s with runs := t.runs, agenda := t.agenda }))) ∧
  (∀ id s x o code act, mfind s.runs id = some x → x.state = 2 ∨ x.state = 4 → x.phase = .leave code act → s.ops = [(x.op, o)] → o.dead = false → o.pend = [] →
    s.accs = [] → o.coil = 0 → StaysLive s o → x.g = o.g →
    ∃ t, exec (.refireStep id) s = .next t ∧ t.ops = [] ∧ mfind t.runs id = some { x with state := 3, exit := BitVec.ofNat 8 code } ∧ t.mem = s.mem ∧
      (group t x.g).exits = (group s x.g).exits ++ (if act = 2 then [exitInfo x code] else [])) ∧
  (∀ m s, mfind s.migs m = none → idles (.landingRequestArrival m) s ∧ idles (.landingGrantArrival m) s ∧ idles (.landingInstall m) s) ∧
  (∀ m s x, mfind s.migs m = some x → x.slot = none → mget s.landings (32 * x.dst + x.owner) = [] →
    ((landingSlots s x.owner x.dst).find? (landingFree s) = none →
      ∃ t, exec (.landingRequestArrival m) s = .next t ∧ t = { s with landings := t.landings } ∧ mget t.landings (32 * x.dst + x.owner) = [m]) ∧
    (∀ k, (landingSlots s x.owner x.dst).find? (landingFree s) = some k →
      ∃ t, exec (.landingRequestArrival m) s = .next t ∧ mfind t.migs m = some { x with slot := some k } ∧ mget t.landings (32 * x.dst + x.owner) = [] ∧
        (∃ e, mfind t.messages s.nextId = some e ∧ e.payload = .landGrant m ∧ e.src = x.dst ∧ e.dst = x.src) ∧ t.groups = s.groups ∧ t.mem = s.mem)) ∧
  (∀ m s x, mfind s.migs m = some x → x.cargo = none → s.results = [] →
    ∃ t, exec (.landingGrantArrival m) s = .next t ∧ mfind t.ops x.op = none ∧
      mfind t.migs m = some { x with cargo := some (shipped (finishOp (group s x.g) 1 x.op)) } ∧
      (∃ e, mfind t.messages s.nextId = some e ∧ e.payload = .groupState m ∧ e.src = x.src ∧ e.dst = x.dst) ∧
      (∃ d, (d, Instr.landingGrantArrival m) ∈ t.agenda) ∧ t.mem = s.mem ∧ t.blocks = s.blocks) ∧
  (∀ m s x c, mfind s.migs m = some x → x.cargo = some c → (group s x.g).migrated = true → mget s.landings (32 * dieOf x.g + (group s x.g).owner) = [] →
    ∃ t, exec (.landingGrantArrival m) s = .next t ∧ t = { s with groups := t.groups } ∧ (group t x.g).live = false ∧ (group t x.g).frags = [] ∧
      ∀ j, j ≠ x.g → mfind t.groups j = mfind s.groups j) ∧
  (∀ m s, ∃ t, exec (.migrationStateArrival m) s = .next t ∧ t = { s with agenda := insertEvent s.agenda (s.clock + 8) (.landingInstall m) }) ∧
  (∀ m s x k g, mfind s.migs m = some x → x.slot = some k → x.cargo = some g →
    ∃ t, exec (.landingInstall m) s = .next t ∧ t = { s with groups := t.groups, migs := mdel s.migs m, l1 := t.l1 } ∧
      (group t k).v = g.v ∧ (group t k).s = g.s ∧ (group t k).p = g.p ∧ (group t k).k = g.k ∧ (group t k).owner = g.owner ∧
      (∀ j, j ≠ k → mfind t.groups j = mfind s.groups j) ∧ (∀ l ∈ t.l1, ¬ (l.owner = x.owner ∧ l.at_ = coreKey k))) ∧
  (∀ v d s, mfind s.invals v = none → idles (.invalRemoval v d) s ∧ idles (.invalComplete v) s) ∧
  (∀ v d s x, mfind s.invals v = some x → x.dies = [d] → s.walks = [] → counts (owner s x.owner) = true →
    ∃ t, exec (.invalRemoval v d) s = .next t ∧
      t = { s with coreTlb := t.coreTlb, dieTlb := t.dieTlb, l2 := t.l2, l1 := t.l1, invals := t.invals, agenda := t.agenda } ∧
      t.coreTlb = s.coreTlb.filter (fun e => !(e.at_ / 32 == d && x.drops e)) ∧ t.dieTlb = s.dieTlb.filter (fun e => !(e.at_ == d && x.drops e)) ∧
      t.l2 = s.l2.filter (fun l => !(l.owner == x.owner && l.die == d && l.replica && x.hits l.page)) ∧
      t.l1 = s.l1.filter (fun l => !(l.owner == x.owner && l.at_ / 32 == d && l.replica && x.hits l.page)) ∧ (s.clock + 8, Instr.invalComplete v) ∈ t.agenda) ∧
  (∀ v s x, mfind s.invals v = some x →
    x.accs.any (fun a => (mfind s.accs a).isSome) = true ∨ x.walks.any (fun w => (mfind s.walks w).isSome) = true → counts (owner s x.owner) = true →
    ∃ t, exec (.invalComplete v) s = .next t ∧ t = { s with agenda := insertEvent s.agenda (s.clock + 8) (.invalComplete v) }) ∧
  (∀ v s x, mfind s.invals v = some x → x.accs.any (fun a => (mfind s.accs a).isSome) = false → x.walks.any (fun w => (mfind s.walks w).isSome) = false →
    let kept := s.l2.filter (fun l => !(l.owner == x.owner && l.replica && x.hits l.page))
    let near := s.l1.filter (fun l => !(l.owner == x.owner && l.replica && x.hits l.page))
    (x.queue = none → ∃ t, exec (.invalComplete v) s = .next t ∧ t = { s with invals := mdel s.invals v, l2 := kept, l1 := near, pf := t.pf } ∧
      (entry t x.owner 0x10).getLsbD 0 = false) ∧
    (∀ q, x.queue = some q → (queue s x.owner q).inval = some v → (queue s x.owner q).replay = none → (queue s x.owner q).halted = false →
      ∃ t, exec (.invalComplete v) s = .next t ∧ Completed t x.owner q ∧ mfind t.invals v = none ∧ t.mem = s.mem ∧ t.groups = s.groups ∧ t.l2 = kept ∧ t.l1 = near))

namespace Sys2Proof.Claims

/-- Nothing stands before the choice of an instruction: the clock runs, no prefix is pending, no event is due, and no fragment's
wait is over or makes it gain priority, and no group's running fragment is to be chosen anew. -/
structure Quiet (s : State) : Prop where
  pfx : s.pfx = none
  powered : s.powered = true
  going : stopped s = false
  events : takeEvent (fun _ => true) s.clock s.agenda = none
  released : released s = none
  owed : owedStep s = none
  overdue : overdue s (turnOf s.clock) = none
  chosen : toChoose s = none

/-- A header with no stall, no latch bit and the always-true guard. -/
def bare : Hdr := ⟨7, 0, 0⟩

end Sys2Proof.Claims

/-- R200, R201, R210: words of the spec's listings, with the instruction and the operands that it gives for each. -/
def Obligations.DecodeWords : Prop :=
  decode (halves 0x0C2053F1) = .ok (.vadd bare 3 2 1) ∧ decode (halves 0x14429CF3) = .ok (.vmadwN ⟨7, 0, 1⟩ 5 4 10) ∧
  decode (halves 0x185124F9) = .ok (.vffma ⟨7, 1, 0⟩ 6 5 4) ∧ decode (halves 0x0881EAF5) = .ok (.vfunary ⟨7, 0, 2⟩ 2 8 7) ∧
  decode (halves 0x2CA247F1) = .ok (.smulhN bare 11 10 9) ∧ decode (halves 0xEC71CE71) = .ok (.saddi bare 0x3B 7 7) ∧
  decode (halves 0xFFE000F1) = .ok (.bra bare 0x3FF80) ∧ decode (halves 0x8850F371) = .ok (.vst bare 4 2 5 3) ∧
  decode (halves 0x8421B3F1) = .ok (.lds bare 4 1 2 6) ∧ decode (halves 0x0842B4F1) = .ok (.sld bare 2 4 10) ∧
  decode (halves 0x03600071) = .ok (.xp 0x036 0 0 0) ∧ decode (halves 0x94613A71) = .ok (.cpy bare 2 1 1 6 4) ∧
  decode (halves 0x0404BDF1) = .ok (.mma bare 1 0 1 2) ∧ decode (halves 0x04C3BF71) = .ok (.rfireStat bare 12 14) ∧
  decode (halves 0x0100D1F1) = .ok (.swr bare 0x010 3) ∧ decode (half 0x08F4) = .ok (.vaddi16 1 7) ∧ decode (half 0x007C) = .ok .exit16 ∧
  decode (half 0xFF9E) = .ok (.jmpS 0x7FC)

/-- R200, R210 to R214: what is encoded is decoded: an instruction that is well formed and has an encoding is read back from it with every
operand, and no event of the machine has an encoding. -/
def Obligations.DecodeEncode : Prop :=
  (∀ i, WellFormed i = true → encode i ≠ [] → decode (encode i) = .ok i) ∧
  (∀ i, encode i = [] → ∀ ws, decode ws ≠ .ok i)

/-- R172, R205, R211: a step runs the event that is due, or the instruction that the fetched halfwords of the chosen fragment decode to,
a prefix before what it extends; the halfwords are those of memory at the translated address; every instruction answers a
next state, and a step stops only while the package is off.
Where the spec leaves a choice it rests on the model's own (log entries 12, 26 and 108). -/
def Obligations.StepRunsDecoded : Prop :=
  (∀ s e rest, s.pfx = none → s.powered = true → stopped s = false → takeEvent (fun _ => true) s.clock s.agenda = some (e, rest) →
    step s = exec e { s with agenda := rest }) ∧
  (∀ s k path f x i s', Quiet s → startOf s = some (k, path, f, .ok x, s') → x.pfx = none → x.instr = .ok i →
    step s = exec i (begin_ s' k path f x)) ∧
  (∀ s k path f x p s', Quiet s → startOf s = some (k, path, f, .ok x, s') → x.pfx = some p →
    step s = exec (.xp p.x p.hc p.hb p.ha) { begin_ s' k path f x with pfx := none }) ∧
  (∀ s x i s', s.pfx.isSome = true → s.powered = true → stopped s = false → nextInstr s s.cur.g s.cur.frag = (.ok x, s') → x.instr = .ok i →
    step s = exec i (setCursor s' s.cur.g s.cur.frag s.cur.turn x)) ∧
  (∀ s k f ws s' i, failedFetch (group s k) (frag (group s k) f) = none →
    fetchWord s k (frag (group s k) f) (standsAt (group s k) (frag (group s k) f)) = (.ok ws, s') →
    decode ws = .ok i → (∀ a b c d, i ≠ .xp a b c d) →
    ∃ x, nextInstr s k f = (.ok x, s') ∧ x.instr = .ok i ∧ x.pfx = none ∧ x.hdr = wordHdr ws ∧
      x.pc = standsAt (group s k) (frag (group s k) f) ∧ x.next = x.pc + BitVec.ofNat 64 (2 * ws.length)) ∧
  (∀ s k f va e, fromLoop (group s k) f va = false → canonical va = true → inWindow va = false →
    tlbFind s.coreTlb (group s k).owner (coreKey k) va.toNat false = some e →
    let pa := paOf e.x va.toNat
    let u := tick { s with coreTlb := tlbTouch s.coreTlb e s.nextId }
    accessReason u (group s k).owner 2 (launchFlag u (group s k) 2) e.x pa = none → spaceOf pa = 0 →
    l0Find u (group s k).owner (partKey k) (lineNo pa) = none →
    (∀ xs, (readHome u (group s k).owner (lineNo pa * 128) 128).1 = some xs →
      (fetchHalf s k f va).1 = .half (BitVec.ofNat 16 ((BitVec.ofNat 1024 (numOf xs)).toNat / 2 ^ (8 * (pa % 128))))) ∧
    ((readHome u (group s k).owner (lineNo pa * 128) 128).1 = none → (fetchHalf s k f va).1 = .fault ⟨.uncorrectable, 0, 0, va⟩)) ∧
  (∀ i s, ∃ t, exec i s = .next t) ∧
  (∀ s f, step s = .fault f → s.powered = false) ∧ (∀ s r, step s ≠ .refused r)

/-- R388, R389: right after reset memory lists nothing, in its canonical form, and every byte of it reads 0; no register of a
group holds anything but 0, no owner is in RUN, and the device is ready.
Where the spec leaves a choice it rests on the model's own (log entries 1, 2 and 3). -/
def Obligations.ResetState : Prop :=
  Memory.wf State.reset.mem = true ∧ (∀ a, memGet State.reset.mem a = 0) ∧ (∀ k r i, rv (group State.reset k) r i = 0) ∧
  (∀ k n, rs (group State.reset k) n = 0) ∧ (∀ k, (group State.reset k).fmode = 0 ∧ (group State.reset k).fflags = 0 ∧ (group State.reset k).frags = []) ∧
  (∀ o, owState State.reset o = 0 ∧ (owner State.reset o).running = false) ∧ deviceReady State.reset = true ∧ State.reset.clock = 0 ∧
  packageMHz State.reset = 940

/-- Memory keeps its canonical form over every step: addresses rise and no listed byte is 0. The list is the model's way to hold the
bytes of R56 and R389. -/
def Obligations.MemoryStaysCanonical : Prop :=
  ∀ s t, Memory.wf s.mem = true → step s = .next t → Memory.wf t.mem = true

/-- R187, R189: a magnitude m × 2^e rounds to a whole number of units 2^q as the mode says, inexact exactly where bits are lost; and an
operation's NaN is the canonical one. -/
def Obligations.RoundingModes : Prop :=
  (∀ rm neg m (e q : Int), q ≤ e → quantize rm neg m e q false = (m * 2 ^ (e - q).toNat, false)) ∧
  (∀ rm neg m (e q : Int), e < q →
    let d := 2 ^ (q - e).toNat
    let n := (quantize rm neg m e q false).1
    (quantize rm neg m e q false).2 = (m % d != 0) ∧
    (rm = 0 → 2 * n * d ≤ 2 * m + d ∧ 2 * m ≤ 2 * n * d + d ∧ (2 * n * d = 2 * m + d ∨ 2 * m = 2 * n * d + d → n % 2 = 0)) ∧
    (rm = 1 → n * d ≤ m ∧ m < n * d + d) ∧
    (rm = 2 → if neg then m ≤ n * d ∧ n * d < m + d else n * d ≤ m ∧ m < n * d + d) ∧
    (rm = 3 → if neg then n * d ≤ m ∧ m < n * d + d else m ≤ n * d ∧ n * d < m + d) ∧
    (rm = 4 → 2 * n * d ≤ 2 * m + d ∧ 2 * m < 2 * n * d + d)) ∧
  (∀ rm a b, (Fp.of fp32 a).isNan = true ∨ (Fp.of fp32 b).isNan = true →
    (fAdd fp32 rm a b).bits = 0x7FC00000 ∧ (fMul fp32 rm a b).bits = 0x7FC00000)
end

