-- ==== Sys2Proof/Laws/State.lean ====
section
/-! SUPPORT. What each named update of the state does to each of its fields. -/

namespace Sys2Proof.Machine

@[simp] theorem post_clock (s : State) (due : Nat) (e : Instr) : (post s due e).clock = s.clock := rfl
@[simp] theorem post_agenda (s : State) (due : Nat) (e : Instr) : (post s due e).agenda = insertEvent s.agenda due e := rfl
@[simp] theorem post_cur (s : State) (due : Nat) (e : Instr) : (post s due e).cur = s.cur := rfl
@[simp] theorem post_pfx (s : State) (due : Nat) (e : Instr) : (post s due e).pfx = s.pfx := rfl
@[simp] theorem post_fuses (s : State) (due : Nat) (e : Instr) : (post s due e).fuses = s.fuses := rfl
@[simp] theorem post_powered (s : State) (due : Nat) (e : Instr) : (post s due e).powered = s.powered := rfl
@[simp] theorem post_frozen (s : State) (due : Nat) (e : Instr) : (post s due e).frozen = s.frozen := rfl
@[simp] theorem post_pinLow (s : State) (due : Nat) (e : Instr) : (post s due e).pinLow = s.pinLow := rfl
@[simp] theorem post_hot (s : State) (due : Nat) (e : Instr) : (post s due e).hot = s.hot := rfl
@[simp] theorem post_shutdown (s : State) (due : Nat) (e : Instr) : (post s due e).shutdown = s.shutdown := rfl
@[simp] theorem post_wiping (s : State) (due : Nat) (e : Instr) : (post s due e).wiping = s.wiping := rfl
@[simp] theorem post_pf (s : State) (due : Nat) (e : Instr) : (post s due e).pf = s.pf := rfl
@[simp] theorem post_vf (s : State) (due : Nat) (e : Instr) : (post s due e).vf = s.vf := rfl
@[simp] theorem post_owners (s : State) (due : Nat) (e : Instr) : (post s due e).owners = s.owners := rfl
@[simp] theorem post_seats (s : State) (due : Nat) (e : Instr) : (post s due e).seats = s.seats := rfl
@[simp] theorem post_positions (s : State) (due : Nat) (e : Instr) : (post s due e).positions = s.positions := rfl
@[simp] theorem post_moves (s : State) (due : Nat) (e : Instr) : (post s due e).moves = s.moves := rfl
@[simp] theorem post_launches (s : State) (due : Nat) (e : Instr) : (post s due e).launches = s.launches := rfl
@[simp] theorem post_blocks (s : State) (due : Nat) (e : Instr) : (post s due e).blocks = s.blocks := rfl
@[simp] theorem post_groups (s : State) (due : Nat) (e : Instr) : (post s due e).groups = s.groups := rfl
@[simp] theorem post_formations (s : State) (due : Nat) (e : Instr) : (post s due e).formations = s.formations := rfl
@[simp] theorem post_results (s : State) (due : Nat) (e : Instr) : (post s due e).results = s.results := rfl
@[simp] theorem post_accs (s : State) (due : Nat) (e : Instr) : (post s due e).accs = s.accs := rfl
@[simp] theorem post_reqs (s : State) (due : Nat) (e : Instr) : (post s due e).reqs = s.reqs := rfl
@[simp] theorem post_walks (s : State) (due : Nat) (e : Instr) : (post s due e).walks = s.walks := rfl
@[simp] theorem post_misses (s : State) (due : Nat) (e : Instr) : (post s due e).misses = s.misses := rfl
@[simp] theorem post_seen (s : State) (due : Nat) (e : Instr) : (post s due e).seen = s.seen := rfl
@[simp] theorem post_coreTlb (s : State) (due : Nat) (e : Instr) : (post s due e).coreTlb = s.coreTlb := rfl
@[simp] theorem post_dieTlb (s : State) (due : Nat) (e : Instr) : (post s due e).dieTlb = s.dieTlb := rfl
@[simp] theorem post_l0 (s : State) (due : Nat) (e : Instr) : (post s due e).l0 = s.l0 := rfl
@[simp] theorem post_l1 (s : State) (due : Nat) (e : Instr) : (post s due e).l1 = s.l1 := rfl
@[simp] theorem post_l2 (s : State) (due : Nat) (e : Instr) : (post s due e).l2 = s.l2 := rfl
@[simp] theorem post_channels (s : State) (due : Nat) (e : Instr) : (post s due e).channels = s.channels := rfl
@[simp] theorem post_ops (s : State) (due : Nat) (e : Instr) : (post s due e).ops = s.ops := rfl
@[simp] theorem post_runs (s : State) (due : Nat) (e : Instr) : (post s due e).runs = s.runs := rfl
@[simp] theorem post_messages (s : State) (due : Nat) (e : Instr) : (post s due e).messages = s.messages := rfl
@[simp] theorem post_migs (s : State) (due : Nat) (e : Instr) : (post s due e).migs = s.migs := rfl
@[simp] theorem post_landings (s : State) (due : Nat) (e : Instr) : (post s due e).landings = s.landings := rfl
@[simp] theorem post_watchers (s : State) (due : Nat) (e : Instr) : (post s due e).watchers = s.watchers := rfl
@[simp] theorem post_waiters (s : State) (due : Nat) (e : Instr) : (post s due e).waiters = s.waiters := rfl
@[simp] theorem post_queues (s : State) (due : Nat) (e : Instr) : (post s due e).queues = s.queues := rfl
@[simp] theorem post_invals (s : State) (due : Nat) (e : Instr) : (post s due e).invals = s.invals := rfl
@[simp] theorem post_exts (s : State) (due : Nat) (e : Instr) : (post s due e).exts = s.exts := rfl
@[simp] theorem post_arrived (s : State) (due : Nat) (e : Instr) : (post s due e).arrived = s.arrived := rfl
@[simp] theorem post_sent (s : State) (due : Nat) (e : Instr) : (post s due e).sent = s.sent := rfl
@[simp] theorem post_inbound (s : State) (due : Nat) (e : Instr) : (post s due e).inbound = s.inbound := rfl
@[simp] theorem post_returned (s : State) (due : Nat) (e : Instr) : (post s due e).returned = s.returned := rfl
@[simp] theorem post_preds (s : State) (due : Nat) (e : Instr) : (post s due e).preds = s.preds := rfl
@[simp] theorem post_mphit (s : State) (due : Nat) (e : Instr) : (post s due e).mphit = s.mphit := rfl
@[simp] theorem post_mpmiss (s : State) (due : Nat) (e : Instr) : (post s due e).mpmiss = s.mpmiss := rfl
@[simp] theorem post_claims (s : State) (due : Nat) (e : Instr) : (post s due e).claims = s.claims := rfl
@[simp] theorem post_images (s : State) (due : Nat) (e : Instr) : (post s due e).images = s.images := rfl
@[simp] theorem post_pfQueue (s : State) (due : Nat) (e : Instr) : (post s due e).pfQueue = s.pfQueue := rfl
@[simp] theorem post_pfReply (s : State) (due : Nat) (e : Instr) : (post s due e).pfReply = s.pfReply := rfl
@[simp] theorem post_scrub (s : State) (due : Nat) (e : Instr) : (post s due e).scrub = s.scrub := rfl
@[simp] theorem post_refreshRow (s : State) (due : Nat) (e : Instr) : (post s due e).refreshRow = s.refreshRow := rfl
@[simp] theorem post_poison (s : State) (due : Nat) (e : Instr) : (post s due e).poison = s.poison := rfl
@[simp] theorem post_errors (s : State) (due : Nat) (e : Instr) : (post s due e).errors = s.errors := rfl
@[simp] theorem post_badRegs (s : State) (due : Nat) (e : Instr) : (post s due e).badRegs = s.badRegs := rfl
@[simp] theorem post_weak (s : State) (due : Nat) (e : Instr) : (post s due e).weak = s.weak := rfl
@[simp] theorem post_sealedUnits (s : State) (due : Nat) (e : Instr) : (post s due e).sealedUnits = s.sealedUnits := rfl
@[simp] theorem post_tokens (s : State) (due : Nat) (e : Instr) : (post s due e).tokens = s.tokens := rfl
@[simp] theorem post_breakpoints (s : State) (due : Nat) (e : Instr) : (post s due e).breakpoints = s.breakpoints := rfl
@[simp] theorem post_readout (s : State) (due : Nat) (e : Instr) : (post s due e).readout = s.readout := rfl
@[simp] theorem post_stepping (s : State) (due : Nat) (e : Instr) : (post s due e).stepping = s.stepping := rfl
@[simp] theorem post_mailbox (s : State) (due : Nat) (e : Instr) : (post s due e).mailbox = s.mailbox := rfl
@[simp] theorem post_boots (s : State) (due : Nat) (e : Instr) : (post s due e).boots = s.boots := rfl
@[simp] theorem post_mem (s : State) (due : Nat) (e : Instr) : (post s due e).mem = s.mem := rfl
@[simp] theorem post_started (s : State) (due : Nat) (e : Instr) : (post s due e).started = s.started := rfl
@[simp] theorem post_nextId (s : State) (due : Nat) (e : Instr) : (post s due e).nextId = s.nextId := rfl
@[simp] theorem post_freeCtr (s : State) (due : Nat) (e : Instr) : (post s due e).freeCtr = s.freeCtr := rfl

@[simp] theorem tick_clock (s : State) : (tick s).clock = s.clock := rfl
@[simp] theorem tick_agenda (s : State) : (tick s).agenda = s.agenda := rfl
@[simp] theorem tick_cur (s : State) : (tick s).cur = s.cur := rfl
@[simp] theorem tick_pfx (s : State) : (tick s).pfx = s.pfx := rfl
@[simp] theorem tick_fuses (s : State) : (tick s).fuses = s.fuses := rfl
@[simp] theorem tick_powered (s : State) : (tick s).powered = s.powered := rfl
@[simp] theorem tick_frozen (s : State) : (tick s).frozen = s.frozen := rfl
@[simp] theorem tick_pinLow (s : State) : (tick s).pinLow = s.pinLow := rfl
@[simp] theorem tick_hot (s : State) : (tick s).hot = s.hot := rfl
@[simp] theorem tick_shutdown (s : State) : (tick s).shutdown = s.shutdown := rfl
@[simp] theorem tick_wiping (s : State) : (tick s).wiping = s.wiping := rfl
@[simp] theorem tick_pf (s : State) : (tick s).pf = s.pf := rfl
@[simp] theorem tick_vf (s : State) : (tick s).vf = s.vf := rfl
@[simp] theorem tick_owners (s : State) : (tick s).owners = s.owners := rfl
@[simp] theorem tick_seats (s : State) : (tick s).seats = s.seats := rfl
@[simp] theorem tick_positions (s : State) : (tick s).positions = s.positions := rfl
@[simp] theorem tick_moves (s : State) : (tick s).moves = s.moves := rfl
@[simp] theorem tick_launches (s : State) : (tick s).launches = s.launches := rfl
@[simp] theorem tick_blocks (s : State) : (tick s).blocks = s.blocks := rfl
@[simp] theorem tick_groups (s : State) : (tick s).groups = s.groups := rfl
@[simp] theorem tick_formations (s : State) : (tick s).formations = s.formations := rfl
@[simp] theorem tick_results (s : State) : (tick s).results = s.results := rfl
@[simp] theorem tick_accs (s : State) : (tick s).accs = s.accs := rfl
@[simp] theorem tick_reqs (s : State) : (tick s).reqs = s.reqs := rfl
@[simp] theorem tick_walks (s : State) : (tick s).walks = s.walks := rfl
@[simp] theorem tick_misses (s : State) : (tick s).misses = s.misses := rfl
@[simp] theorem tick_seen (s : State) : (tick s).seen = s.seen := rfl
@[simp] theorem tick_coreTlb (s : State) : (tick s).coreTlb = s.coreTlb := rfl
@[simp] theorem tick_dieTlb (s : State) : (tick s).dieTlb = s.dieTlb := rfl
@[simp] theorem tick_l0 (s : State) : (tick s).l0 = s.l0 := rfl
@[simp] theorem tick_l1 (s : State) : (tick s).l1 = s.l1 := rfl
@[simp] theorem tick_l2 (s : State) : (tick s).l2 = s.l2 := rfl
@[simp] theorem tick_channels (s : State) : (tick s).channels = s.channels := rfl
@[simp] theorem tick_ops (s : State) : (tick s).ops = s.ops := rfl
@[simp] theorem tick_runs (s : State) : (tick s).runs = s.runs := rfl
@[simp] theorem tick_messages (s : State) : (tick s).messages = s.messages := rfl
@[simp] theorem tick_migs (s : State) : (tick s).migs = s.migs := rfl
@[simp] theorem tick_landings (s : State) : (tick s).landings = s.landings := rfl
@[simp] theorem tick_watchers (s : State) : (tick s).watchers = s.watchers := rfl
@[simp] theorem tick_waiters (s : State) : (tick s).waiters = s.waiters := rfl
@[simp] theorem tick_queues (s : State) : (tick s).queues = s.queues := rfl
@[simp] theorem tick_invals (s : State) : (tick s).invals = s.invals := rfl
@[simp] theorem tick_exts (s : State) : (tick s).exts = s.exts := rfl
@[simp] theorem tick_arrived (s : State) : (tick s).arrived = s.arrived := rfl
@[simp] theorem tick_sent (s : State) : (tick s).sent = s.sent := rfl
@[simp] theorem tick_inbound (s : State) : (tick s).inbound = s.inbound := rfl
@[simp] theorem tick_returned (s : State) : (tick s).returned = s.returned := rfl
@[simp] theorem tick_preds (s : State) : (tick s).preds = s.preds := rfl
@[simp] theorem tick_mphit (s : State) : (tick s).mphit = s.mphit := rfl
@[simp] theorem tick_mpmiss (s : State) : (tick s).mpmiss = s.mpmiss := rfl
@[simp] theorem tick_claims (s : State) : (tick s).claims = s.claims := rfl
@[simp] theorem tick_images (s : State) : (tick s).images = s.images := rfl
@[simp] theorem tick_pfQueue (s : State) : (tick s).pfQueue = s.pfQueue := rfl
@[simp] theorem tick_pfReply (s : State) : (tick s).pfReply = s.pfReply := rfl
@[simp] theorem tick_scrub (s : State) : (tick s).scrub = s.scrub := rfl
@[simp] theorem tick_refreshRow (s : State) : (tick s).refreshRow = s.refreshRow := rfl
@[simp] theorem tick_poison (s : State) : (tick s).poison = s.poison := rfl
@[simp] theorem tick_errors (s : State) : (tick s).errors = s.errors := rfl
@[simp] theorem tick_badRegs (s : State) : (tick s).badRegs = s.badRegs := rfl
@[simp] theorem tick_weak (s : State) : (tick s).weak = s.weak := rfl
@[simp] theorem tick_sealedUnits (s : State) : (tick s).sealedUnits = s.sealedUnits := rfl
@[simp] theorem tick_tokens (s : State) : (tick s).tokens = s.tokens := rfl
@[simp] theorem tick_breakpoints (s : State) : (tick s).breakpoints = s.breakpoints := rfl
@[simp] theorem tick_readout (s : State) : (tick s).readout = s.readout := rfl
@[simp] theorem tick_stepping (s : State) : (tick s).stepping = s.stepping := rfl
@[simp] theorem tick_mailbox (s : State) : (tick s).mailbox = s.mailbox := rfl
@[simp] theorem tick_boots (s : State) : (tick s).boots = s.boots := rfl
@[simp] theorem tick_mem (s : State) : (tick s).mem = s.mem := rfl
@[simp] theorem tick_started (s : State) : (tick s).started = s.started := rfl
@[simp] theorem tick_nextId (s : State) : (tick s).nextId = s.nextId + 1 := rfl
@[simp] theorem tick_freeCtr (s : State) : (tick s).freeCtr = s.freeCtr := rfl

@[simp] theorem modGroup_clock (s : State) (k : Nat) (f : Group → Group) : (modGroup s k f).clock = s.clock := rfl
@[simp] theorem modGroup_agenda (s : State) (k : Nat) (f : Group → Group) : (modGroup s k f).agenda = s.agenda := rfl
@[simp] theorem modGroup_cur (s : State) (k : Nat) (f : Group → Group) : (modGroup s k f).cur = s.cur := rfl
@[simp] theorem modGroup_pfx (s : State) (k : Nat) (f : Group → Group) : (modGroup s k f).pfx = s.pfx := rfl
@[simp] theorem modGroup_fuses (s : State) (k : Nat) (f : Group → Group) : (modGroup s k f).fuses = s.fuses := rfl
@[simp] theorem modGroup_powered (s : State) (k : Nat) (f : Group → Group) : (modGroup s k f).powered = s.powered := rfl
@[simp] theorem modGroup_frozen (s : State) (k : Nat) (f : Group → Group) : (modGroup s k f).frozen = s.frozen := rfl
@[simp] theorem modGroup_pinLow (s : State) (k : Nat) (f : Group → Group) : (modGroup s k f).pinLow = s.pinLow := rfl
@[simp] theorem modGroup_hot (s : State) (k : Nat) (f : Group → Group) : (modGroup s k f).hot = s.hot := rfl
@[simp] theorem modGroup_shutdown (s : State) (k : Nat) (f : Group → Group) : (modGroup s k f).shutdown = s.shutdown := rfl
@[simp] theorem modGroup_wiping (s : State) (k : Nat) (f : Group → Group) : (modGroup s k f).wiping = s.wiping := rfl
@[simp] theorem modGroup_pf (s : State) (k : Nat) (f : Group → Group) : (modGroup s k f).pf = s.pf := rfl
@[simp] theorem modGroup_vf (s : State) (k : Nat) (f : Group → Group) : (modGroup s k f).vf = s.vf := rfl
@[simp] theorem modGroup_owners (s : State) (k : Nat) (f : Group → Group) : (modGroup s k f).owners = s.owners := rfl
@[simp] theorem modGroup_seats (s : State) (k : Nat) (f : Group → Group) : (modGroup s k f).seats = s.seats := rfl
@[simp] theorem modGroup_positions (s : State) (k : Nat) (f : Group → Group) : (modGroup s k f).positions = s.positions := rfl
@[simp] theorem modGroup_moves (s : State) (k : Nat) (f : Group → Group) : (modGroup s k f).moves = s.moves := rfl
@[simp] theorem modGroup_launches (s : State) (k : Nat) (f : Group → Group) : (modGroup s k f).launches = s.launches := rfl
@[simp] theorem modGroup_blocks (s : State) (k : Nat) (f : Group → Group) : (modGroup s k f).blocks = s.blocks := rfl
@[simp] theorem modGroup_groups (s : State) (k : Nat) (f : Group → Group) : (modGroup s k f).groups = mmod s.groups k f := rfl
@[simp] theorem modGroup_formations (s : State) (k : Nat) (f : Group → Group) : (modGroup s k f).formations = s.formations := rfl
@[simp] theorem modGroup_results (s : State) (k : Nat) (f : Group → Group) : (modGroup s k f).results = s.results := rfl
@[simp] theorem modGroup_accs (s : State) (k : Nat) (f : Group → Group) : (modGroup s k f).accs = s.accs := rfl
@[simp] theorem modGroup_reqs (s : State) (k : Nat) (f : Group → Group) : (modGroup s k f).reqs = s.reqs := rfl
@[simp] theorem modGroup_walks (s : State) (k : Nat) (f : Group → Group) : (modGroup s k f).walks = s.walks := rfl
@[simp] theorem modGroup_misses (s : State) (k : Nat) (f : Group → Group) : (modGroup s k f).misses = s.misses := rfl
@[simp] theorem modGroup_seen (s : State) (k : Nat) (f : Group → Group) : (modGroup s k f).seen = s.seen := rfl
@[simp] theorem modGroup_coreTlb (s : State) (k : Nat) (f : Group → Group) : (modGroup s k f).coreTlb = s.coreTlb := rfl
@[simp] theorem modGroup_dieTlb (s : State) (k : Nat) (f : Group → Group) : (modGroup s k f).dieTlb = s.dieTlb := rfl
@[simp] theorem modGroup_l0 (s : State) (k : Nat) (f : Group → Group) : (modGroup s k f).l0 = s.l0 := rfl
@[simp] theorem modGroup_l1 (s : State) (k : Nat) (f : Group → Group) : (modGroup s k f).l1 = s.l1 := rfl
@[simp] theorem modGroup_l2 (s : State) (k : Nat) (f : Group → Group) : (modGroup s k f).l2 = s.l2 := rfl
@[simp] theorem modGroup_channels (s : State) (k : Nat) (f : Group → Group) : (modGroup s k f).channels = s.channels := rfl
@[simp] theorem modGroup_ops (s : State) (k : Nat) (f : Group → Group) : (modGroup s k f).ops = s.ops := rfl
@[simp] theorem modGroup_runs (s : State) (k : Nat) (f : Group → Group) : (modGroup s k f).runs = s.runs := rfl
@[simp] theorem modGroup_messages (s : State) (k : Nat) (f : Group → Group) : (modGroup s k f).messages = s.messages := rfl
@[simp] theorem modGroup_migs (s : State) (k : Nat) (f : Group → Group) : (modGroup s k f).migs = s.migs := rfl
@[simp] theorem modGroup_landings (s : State) (k : Nat) (f : Group → Group) : (modGroup s k f).landings = s.landings := rfl
@[simp] theorem modGroup_watchers (s : State) (k : Nat) (f : Group → Group) : (modGroup s k f).watchers = s.watchers := rfl
@[simp] theorem modGroup_waiters (s : State) (k : Nat) (f : Group → Group) : (modGroup s k f).waiters = s.waiters := rfl
@[simp] theorem modGroup_queues (s : State) (k : Nat) (f : Group → Group) : (modGroup s k f).queues = s.queues := rfl
@[simp] theorem modGroup_invals (s : State) (k : Nat) (f : Group → Group) : (modGroup s k f).invals = s.invals := rfl
@[simp] theorem modGroup_exts (s : State) (k : Nat) (f : Group → Group) : (modGroup s k f).exts = s.exts := rfl
@[simp] theorem modGroup_arrived (s : State) (k : Nat) (f : Group → Group) : (modGroup s k f).arrived = s.arrived := rfl
@[simp] theorem modGroup_sent (s : State) (k : Nat) (f : Group → Group) : (modGroup s k f).sent = s.sent := rfl
@[simp] theorem modGroup_inbound (s : State) (k : Nat) (f : Group → Group) : (modGroup s k f).inbound = s.inbound := rfl
@[simp] theorem modGroup_returned (s : State) (k : Nat) (f : Group → Group) : (modGroup s k f).returned = s.returned := rfl
@[simp] theorem modGroup_preds (s : State) (k : Nat) (f : Group → Group) : (modGroup s k f).preds = s.preds := rfl
@[simp] theorem modGroup_mphit (s : State) (k : Nat) (f : Group → Group) : (modGroup s k f).mphit = s.mphit := rfl
@[simp] theorem modGroup_mpmiss (s : State) (k : Nat) (f : Group → Group) : (modGroup s k f).mpmiss = s.mpmiss := rfl
@[simp] theorem modGroup_claims (s : State) (k : Nat) (f : Group → Group) : (modGroup s k f).claims = s.claims := rfl
@[simp] theorem modGroup_images (s : State) (k : Nat) (f : Group → Group) : (modGroup s k f).images = s.images := rfl
@[simp] theorem modGroup_pfQueue (s : State) (k : Nat) (f : Group → Group) : (modGroup s k f).pfQueue = s.pfQueue := rfl
@[simp] theorem modGroup_pfReply (s : State) (k : Nat) (f : Group → Group) : (modGroup s k f).pfReply = s.pfReply := rfl
@[simp] theorem modGroup_scrub (s : State) (k : Nat) (f : Group → Group) : (modGroup s k f).scrub = s.scrub := rfl
@[simp] theorem modGroup_refreshRow (s : State) (k : Nat) (f : Group → Group) : (modGroup s k f).refreshRow = s.refreshRow := rfl
@[simp] theorem modGroup_poison (s : State) (k : Nat) (f : Group → Group) : (modGroup s k f).poison = s.poison := rfl
@[simp] theorem modGroup_errors (s : State) (k : Nat) (f : Group → Group) : (modGroup s k f).errors = s.errors := rfl
@[simp] theorem modGroup_badRegs (s : State) (k : Nat) (f : Group → Group) : (modGroup s k f).badRegs = s.badRegs := rfl
@[simp] theorem modGroup_weak (s : State) (k : Nat) (f : Group → Group) : (modGroup s k f).weak = s.weak := rfl
@[simp] theorem modGroup_sealedUnits (s : State) (k : Nat) (f : Group → Group) : (modGroup s k f).sealedUnits = s.sealedUnits := rfl
@[simp] theorem modGroup_tokens (s : State) (k : Nat) (f : Group → Group) : (modGroup s k f).tokens = s.tokens := rfl
@[simp] theorem modGroup_breakpoints (s : State) (k : Nat) (f : Group → Group) : (modGroup s k f).breakpoints = s.breakpoints := rfl
@[simp] theorem modGroup_readout (s : State) (k : Nat) (f : Group → Group) : (modGroup s k f).readout = s.readout := rfl
@[simp] theorem modGroup_stepping (s : State) (k : Nat) (f : Group → Group) : (modGroup s k f).stepping = s.stepping := rfl
@[simp] theorem modGroup_mailbox (s : State) (k : Nat) (f : Group → Group) : (modGroup s k f).mailbox = s.mailbox := rfl
@[simp] theorem modGroup_boots (s : State) (k : Nat) (f : Group → Group) : (modGroup s k f).boots = s.boots := rfl
@[simp] theorem modGroup_mem (s : State) (k : Nat) (f : Group → Group) : (modGroup s k f).mem = s.mem := rfl
@[simp] theorem modGroup_started (s : State) (k : Nat) (f : Group → Group) : (modGroup s k f).started = s.started := rfl
@[simp] theorem modGroup_nextId (s : State) (k : Nat) (f : Group → Group) : (modGroup s k f).nextId = s.nextId := rfl
@[simp] theorem modGroup_freeCtr (s : State) (k : Nat) (f : Group → Group) : (modGroup s k f).freeCtr = s.freeCtr := rfl

@[simp] theorem modBlock_clock (s : State) (b : Nat) (f : Block → Block) : (modBlock s b f).clock = s.clock := rfl
@[simp] theorem modBlock_agenda (s : State) (b : Nat) (f : Block → Block) : (modBlock s b f).agenda = s.agenda := rfl
@[simp] theorem modBlock_cur (s : State) (b : Nat) (f : Block → Block) : (modBlock s b f).cur = s.cur := rfl
@[simp] theorem modBlock_pfx (s : State) (b : Nat) (f : Block → Block) : (modBlock s b f).pfx = s.pfx := rfl
@[simp] theorem modBlock_fuses (s : State) (b : Nat) (f : Block → Block) : (modBlock s b f).fuses = s.fuses := rfl
@[simp] theorem modBlock_powered (s : State) (b : Nat) (f : Block → Block) : (modBlock s b f).powered = s.powered := rfl
@[simp] theorem modBlock_frozen (s : State) (b : Nat) (f : Block → Block) : (modBlock s b f).frozen = s.frozen := rfl
@[simp] theorem modBlock_pinLow (s : State) (b : Nat) (f : Block → Block) : (modBlock s b f).pinLow = s.pinLow := rfl
@[simp] theorem modBlock_hot (s : State) (b : Nat) (f : Block → Block) : (modBlock s b f).hot = s.hot := rfl
@[simp] theorem modBlock_shutdown (s : State) (b : Nat) (f : Block → Block) : (modBlock s b f).shutdown = s.shutdown := rfl
@[simp] theorem modBlock_wiping (s : State) (b : Nat) (f : Block → Block) : (modBlock s b f).wiping = s.wiping := rfl
@[simp] theorem modBlock_pf (s : State) (b : Nat) (f : Block → Block) : (modBlock s b f).pf = s.pf := rfl
@[simp] theorem modBlock_vf (s : State) (b : Nat) (f : Block → Block) : (modBlock s b f).vf = s.vf := rfl
@[simp] theorem modBlock_owners (s : State) (b : Nat) (f : Block → Block) : (modBlock s b f).owners = s.owners := rfl
@[simp] theorem modBlock_seats (s : State) (b : Nat) (f : Block → Block) : (modBlock s b f).seats = s.seats := rfl
@[simp] theorem modBlock_positions (s : State) (b : Nat) (f : Block → Block) : (modBlock s b f).positions = s.positions := rfl
@[simp] theorem modBlock_moves (s : State) (b : Nat) (f : Block → Block) : (modBlock s b f).moves = s.moves := rfl
@[simp] theorem modBlock_launches (s : State) (b : Nat) (f : Block → Block) : (modBlock s b f).launches = s.launches := rfl
@[simp] theorem modBlock_blocks (s : State) (b : Nat) (f : Block → Block) : (modBlock s b f).blocks = mmod s.blocks b f := rfl
@[simp] theorem modBlock_groups (s : State) (b : Nat) (f : Block → Block) : (modBlock s b f).groups = s.groups := rfl
@[simp] theorem modBlock_formations (s : State) (b : Nat) (f : Block → Block) : (modBlock s b f).formations = s.formations := rfl
@[simp] theorem modBlock_results (s : State) (b : Nat) (f : Block → Block) : (modBlock s b f).results = s.results := rfl
@[simp] theorem modBlock_accs (s : State) (b : Nat) (f : Block → Block) : (modBlock s b f).accs = s.accs := rfl
@[simp] theorem modBlock_reqs (s : State) (b : Nat) (f : Block → Block) : (modBlock s b f).reqs = s.reqs := rfl
@[simp] theorem modBlock_walks (s : State) (b : Nat) (f : Block → Block) : (modBlock s b f).walks = s.walks := rfl
@[simp] theorem modBlock_misses (s : State) (b : Nat) (f : Block → Block) : (modBlock s b f).misses = s.misses := rfl
@[simp] theorem modBlock_seen (s : State) (b : Nat) (f : Block → Block) : (modBlock s b f).seen = s.seen := rfl
@[simp] theorem modBlock_coreTlb (s : State) (b : Nat) (f : Block → Block) : (modBlock s b f).coreTlb = s.coreTlb := rfl
@[simp] theorem modBlock_dieTlb (s : State) (b : Nat) (f : Block → Block) : (modBlock s b f).dieTlb = s.dieTlb := rfl
@[simp] theorem modBlock_l0 (s : State) (b : Nat) (f : Block → Block) : (modBlock s b f).l0 = s.l0 := rfl
@[simp] theorem modBlock_l1 (s : State) (b : Nat) (f : Block → Block) : (modBlock s b f).l1 = s.l1 := rfl
@[simp] theorem modBlock_l2 (s : State) (b : Nat) (f : Block → Block) : (modBlock s b f).l2 = s.l2 := rfl
@[simp] theorem modBlock_channels (s : State) (b : Nat) (f : Block → Block) : (modBlock s b f).channels = s.channels := rfl
@[simp] theorem modBlock_ops (s : State) (b : Nat) (f : Block → Block) : (modBlock s b f).ops = s.ops := rfl
@[simp] theorem modBlock_runs (s : State) (b : Nat) (f : Block → Block) : (modBlock s b f).runs = s.runs := rfl
@[simp] theorem modBlock_messages (s : State) (b : Nat) (f : Block → Block) : (modBlock s b f).messages = s.messages := rfl
@[simp] theorem modBlock_migs (s : State) (b : Nat) (f : Block → Block) : (modBlock s b f).migs = s.migs := rfl
@[simp] theorem modBlock_landings (s : State) (b : Nat) (f : Block → Block) : (modBlock s b f).landings = s.landings := rfl
@[simp] theorem modBlock_watchers (s : State) (b : Nat) (f : Block → Block) : (modBlock s b f).watchers = s.watchers := rfl
@[simp] theorem modBlock_waiters (s : State) (b : Nat) (f : Block → Block) : (modBlock s b f).waiters = s.waiters := rfl
@[simp] theorem modBlock_queues (s : State) (b : Nat) (f : Block → Block) : (modBlock s b f).queues = s.queues := rfl
@[simp] theorem modBlock_invals (s : State) (b : Nat) (f : Block → Block) : (modBlock s b f).invals = s.invals := rfl
@[simp] theorem modBlock_exts (s : State) (b : Nat) (f : Block → Block) : (modBlock s b f).exts = s.exts := rfl
@[simp] theorem modBlock_arrived (s : State) (b : Nat) (f : Block → Block) : (modBlock s b f).arrived = s.arrived := rfl
@[simp] theorem modBlock_sent (s : State) (b : Nat) (f : Block → Block) : (modBlock s b f).sent = s.sent := rfl
@[simp] theorem modBlock_inbound (s : State) (b : Nat) (f : Block → Block) : (modBlock s b f).inbound = s.inbound := rfl
@[simp] theorem modBlock_returned (s : State) (b : Nat) (f : Block → Block) : (modBlock s b f).returned = s.returned := rfl
@[simp] theorem modBlock_preds (s : State) (b : Nat) (f : Block → Block) : (modBlock s b f).preds = s.preds := rfl
@[simp] theorem modBlock_mphit (s : State) (b : Nat) (f : Block → Block) : (modBlock s b f).mphit = s.mphit := rfl
@[simp] theorem modBlock_mpmiss (s : State) (b : Nat) (f : Block → Block) : (modBlock s b f).mpmiss = s.mpmiss := rfl
@[simp] theorem modBlock_claims (s : State) (b : Nat) (f : Block → Block) : (modBlock s b f).claims = s.claims := rfl
@[simp] theorem modBlock_images (s : State) (b : Nat) (f : Block → Block) : (modBlock s b f).images = s.images := rfl
@[simp] theorem modBlock_pfQueue (s : State) (b : Nat) (f : Block → Block) : (modBlock s b f).pfQueue = s.pfQueue := rfl
@[simp] theorem modBlock_pfReply (s : State) (b : Nat) (f : Block → Block) : (modBlock s b f).pfReply = s.pfReply := rfl
@[simp] theorem modBlock_scrub (s : State) (b : Nat) (f : Block → Block) : (modBlock s b f).scrub = s.scrub := rfl
@[simp] theorem modBlock_refreshRow (s : State) (b : Nat) (f : Block → Block) : (modBlock s b f).refreshRow = s.refreshRow := rfl
@[simp] theorem modBlock_poison (s : State) (b : Nat) (f : Block → Block) : (modBlock s b f).poison = s.poison := rfl
@[simp] theorem modBlock_errors (s : State) (b : Nat) (f : Block → Block) : (modBlock s b f).errors = s.errors := rfl
@[simp] theorem modBlock_badRegs (s : State) (b : Nat) (f : Block → Block) : (modBlock s b f).badRegs = s.badRegs := rfl
@[simp] theorem modBlock_weak (s : State) (b : Nat) (f : Block → Block) : (modBlock s b f).weak = s.weak := rfl
@[simp] theorem modBlock_sealedUnits (s : State) (b : Nat) (f : Block → Block) : (modBlock s b f).sealedUnits = s.sealedUnits := rfl
@[simp] theorem modBlock_tokens (s : State) (b : Nat) (f : Block → Block) : (modBlock s b f).tokens = s.tokens := rfl
@[simp] theorem modBlock_breakpoints (s : State) (b : Nat) (f : Block → Block) : (modBlock s b f).breakpoints = s.breakpoints := rfl
@[simp] theorem modBlock_readout (s : State) (b : Nat) (f : Block → Block) : (modBlock s b f).readout = s.readout := rfl
@[simp] theorem modBlock_stepping (s : State) (b : Nat) (f : Block → Block) : (modBlock s b f).stepping = s.stepping := rfl
@[simp] theorem modBlock_mailbox (s : State) (b : Nat) (f : Block → Block) : (modBlock s b f).mailbox = s.mailbox := rfl
@[simp] theorem modBlock_boots (s : State) (b : Nat) (f : Block → Block) : (modBlock s b f).boots = s.boots := rfl
@[simp] theorem modBlock_mem (s : State) (b : Nat) (f : Block → Block) : (modBlock s b f).mem = s.mem := rfl
@[simp] theorem modBlock_started (s : State) (b : Nat) (f : Block → Block) : (modBlock s b f).started = s.started := rfl
@[simp] theorem modBlock_nextId (s : State) (b : Nat) (f : Block → Block) : (modBlock s b f).nextId = s.nextId := rfl
@[simp] theorem modBlock_freeCtr (s : State) (b : Nat) (f : Block → Block) : (modBlock s b f).freeCtr = s.freeCtr := rfl

@[simp] theorem modLaunch_clock (s : State) (l : Nat) (f : Launch → Launch) : (modLaunch s l f).clock = s.clock := rfl
@[simp] theorem modLaunch_agenda (s : State) (l : Nat) (f : Launch → Launch) : (modLaunch s l f).agenda = s.agenda := rfl
@[simp] theorem modLaunch_cur (s : State) (l : Nat) (f : Launch → Launch) : (modLaunch s l f).cur = s.cur := rfl
@[simp] theorem modLaunch_pfx (s : State) (l : Nat) (f : Launch → Launch) : (modLaunch s l f).pfx = s.pfx := rfl
@[simp] theorem modLaunch_fuses (s : State) (l : Nat) (f : Launch → Launch) : (modLaunch s l f).fuses = s.fuses := rfl
@[simp] theorem modLaunch_powered (s : State) (l : Nat) (f : Launch → Launch) : (modLaunch s l f).powered = s.powered := rfl
@[simp] theorem modLaunch_frozen (s : State) (l : Nat) (f : Launch → Launch) : (modLaunch s l f).frozen = s.frozen := rfl
@[simp] theorem modLaunch_pinLow (s : State) (l : Nat) (f : Launch → Launch) : (modLaunch s l f).pinLow = s.pinLow := rfl
@[simp] theorem modLaunch_hot (s : State) (l : Nat) (f : Launch → Launch) : (modLaunch s l f).hot = s.hot := rfl
@[simp] theorem modLaunch_shutdown (s : State) (l : Nat) (f : Launch → Launch) : (modLaunch s l f).shutdown = s.shutdown := rfl
@[simp] theorem modLaunch_wiping (s : State) (l : Nat) (f : Launch → Launch) : (modLaunch s l f).wiping = s.wiping := rfl
@[simp] theorem modLaunch_pf (s : State) (l : Nat) (f : Launch → Launch) : (modLaunch s l f).pf = s.pf := rfl
@[simp] theorem modLaunch_vf (s : State) (l : Nat) (f : Launch → Launch) : (modLaunch s l f).vf = s.vf := rfl
@[simp] theorem modLaunch_owners (s : State) (l : Nat) (f : Launch → Launch) : (modLaunch s l f).owners = s.owners := rfl
@[simp] theorem modLaunch_seats (s : State) (l : Nat) (f : Launch → Launch) : (modLaunch s l f).seats = s.seats := rfl
@[simp] theorem modLaunch_positions (s : State) (l : Nat) (f : Launch → Launch) : (modLaunch s l f).positions = s.positions := rfl
@[simp] theorem modLaunch_moves (s : State) (l : Nat) (f : Launch → Launch) : (modLaunch s l f).moves = s.moves := rfl
@[simp] theorem modLaunch_launches (s : State) (l : Nat) (f : Launch → Launch) : (modLaunch s l f).launches = mmod s.launches l f := rfl
@[simp] theorem modLaunch_blocks (s : State) (l : Nat) (f : Launch → Launch) : (modLaunch s l f).blocks = s.blocks := rfl
@[simp] theorem modLaunch_groups (s : State) (l : Nat) (f : Launch → Launch) : (modLaunch s l f).groups = s.groups := rfl
@[simp] theorem modLaunch_formations (s : State) (l : Nat) (f : Launch → Launch) : (modLaunch s l f).formations = s.formations := rfl
@[simp] theorem modLaunch_results (s : State) (l : Nat) (f : Launch → Launch) : (modLaunch s l f).results = s.results := rfl
@[simp] theorem modLaunch_accs (s : State) (l : Nat) (f : Launch → Launch) : (modLaunch s l f).accs = s.accs := rfl
@[simp] theorem modLaunch_reqs (s : State) (l : Nat) (f : Launch → Launch) : (modLaunch s l f).reqs = s.reqs := rfl
@[simp] theorem modLaunch_walks (s : State) (l : Nat) (f : Launch → Launch) : (modLaunch s l f).walks = s.walks := rfl
@[simp] theorem modLaunch_misses (s : State) (l : Nat) (f : Launch → Launch) : (modLaunch s l f).misses = s.misses := rfl
@[simp] theorem modLaunch_seen (s : State) (l : Nat) (f : Launch → Launch) : (modLaunch s l f).seen = s.seen := rfl
@[simp] theorem modLaunch_coreTlb (s : State) (l : Nat) (f : Launch → Launch) : (modLaunch s l f).coreTlb = s.coreTlb := rfl
@[simp] theorem modLaunch_dieTlb (s : State) (l : Nat) (f : Launch → Launch) : (modLaunch s l f).dieTlb = s.dieTlb := rfl
@[simp] theorem modLaunch_l0 (s : State) (l : Nat) (f : Launch → Launch) : (modLaunch s l f).l0 = s.l0 := rfl
@[simp] theorem modLaunch_l1 (s : State) (l : Nat) (f : Launch → Launch) : (modLaunch s l f).l1 = s.l1 := rfl
@[simp] theorem modLaunch_l2 (s : State) (l : Nat) (f : Launch → Launch) : (modLaunch s l f).l2 = s.l2 := rfl
@[simp] theorem modLaunch_channels (s : State) (l : Nat) (f : Launch → Launch) : (modLaunch s l f).channels = s.channels := rfl
@[simp] theorem modLaunch_ops (s : State) (l : Nat) (f : Launch → Launch) : (modLaunch s l f).ops = s.ops := rfl
@[simp] theorem modLaunch_runs (s : State) (l : Nat) (f : Launch → Launch) : (modLaunch s l f).runs = s.runs := rfl
@[simp] theorem modLaunch_messages (s : State) (l : Nat) (f : Launch → Launch) : (modLaunch s l f).messages = s.messages := rfl
@[simp] theorem modLaunch_migs (s : State) (l : Nat) (f : Launch → Launch) : (modLaunch s l f).migs = s.migs := rfl
@[simp] theorem modLaunch_landings (s : State) (l : Nat) (f : Launch → Launch) : (modLaunch s l f).landings = s.landings := rfl
@[simp] theorem modLaunch_watchers (s : State) (l : Nat) (f : Launch → Launch) : (modLaunch s l f).watchers = s.watchers := rfl
@[simp] theorem modLaunch_waiters (s : State) (l : Nat) (f : Launch → Launch) : (modLaunch s l f).waiters = s.waiters := rfl
@[simp] theorem modLaunch_queues (s : State) (l : Nat) (f : Launch → Launch) : (modLaunch s l f).queues = s.queues := rfl
@[simp] theorem modLaunch_invals (s : State) (l : Nat) (f : Launch → Launch) : (modLaunch s l f).invals = s.invals := rfl
@[simp] theorem modLaunch_exts (s : State) (l : Nat) (f : Launch → Launch) : (modLaunch s l f).exts = s.exts := rfl
@[simp] theorem modLaunch_arrived (s : State) (l : Nat) (f : Launch → Launch) : (modLaunch s l f).arrived = s.arrived := rfl
@[simp] theorem modLaunch_sent (s : State) (l : Nat) (f : Launch → Launch) : (modLaunch s l f).sent = s.sent := rfl
@[simp] theorem modLaunch_inbound (s : State) (l : Nat) (f : Launch → Launch) : (modLaunch s l f).inbound = s.inbound := rfl
@[simp] theorem modLaunch_returned (s : State) (l : Nat) (f : Launch → Launch) : (modLaunch s l f).returned = s.returned := rfl
@[simp] theorem modLaunch_preds (s : State) (l : Nat) (f : Launch → Launch) : (modLaunch s l f).preds = s.preds := rfl
@[simp] theorem modLaunch_mphit (s : State) (l : Nat) (f : Launch → Launch) : (modLaunch s l f).mphit = s.mphit := rfl
@[simp] theorem modLaunch_mpmiss (s : State) (l : Nat) (f : Launch → Launch) : (modLaunch s l f).mpmiss = s.mpmiss := rfl
@[simp] theorem modLaunch_claims (s : State) (l : Nat) (f : Launch → Launch) : (modLaunch s l f).claims = s.claims := rfl
@[simp] theorem modLaunch_images (s : State) (l : Nat) (f : Launch → Launch) : (modLaunch s l f).images = s.images := rfl
@[simp] theorem modLaunch_pfQueue (s : State) (l : Nat) (f : Launch → Launch) : (modLaunch s l f).pfQueue = s.pfQueue := rfl
@[simp] theorem modLaunch_pfReply (s : State) (l : Nat) (f : Launch → Launch) : (modLaunch s l f).pfReply = s.pfReply := rfl
@[simp] theorem modLaunch_scrub (s : State) (l : Nat) (f : Launch → Launch) : (modLaunch s l f).scrub = s.scrub := rfl
@[simp] theorem modLaunch_refreshRow (s : State) (l : Nat) (f : Launch → Launch) : (modLaunch s l f).refreshRow = s.refreshRow := rfl
@[simp] theorem modLaunch_poison (s : State) (l : Nat) (f : Launch → Launch) : (modLaunch s l f).poison = s.poison := rfl
@[simp] theorem modLaunch_errors (s : State) (l : Nat) (f : Launch → Launch) : (modLaunch s l f).errors = s.errors := rfl
@[simp] theorem modLaunch_badRegs (s : State) (l : Nat) (f : Launch → Launch) : (modLaunch s l f).badRegs = s.badRegs := rfl
@[simp] theorem modLaunch_weak (s : State) (l : Nat) (f : Launch → Launch) : (modLaunch s l f).weak = s.weak := rfl
@[simp] theorem modLaunch_sealedUnits (s : State) (l : Nat) (f : Launch → Launch) : (modLaunch s l f).sealedUnits = s.sealedUnits := rfl
@[simp] theorem modLaunch_tokens (s : State) (l : Nat) (f : Launch → Launch) : (modLaunch s l f).tokens = s.tokens := rfl
@[simp] theorem modLaunch_breakpoints (s : State) (l : Nat) (f : Launch → Launch) : (modLaunch s l f).breakpoints = s.breakpoints := rfl
@[simp] theorem modLaunch_readout (s : State) (l : Nat) (f : Launch → Launch) : (modLaunch s l f).readout = s.readout := rfl
@[simp] theorem modLaunch_stepping (s : State) (l : Nat) (f : Launch → Launch) : (modLaunch s l f).stepping = s.stepping := rfl
@[simp] theorem modLaunch_mailbox (s : State) (l : Nat) (f : Launch → Launch) : (modLaunch s l f).mailbox = s.mailbox := rfl
@[simp] theorem modLaunch_boots (s : State) (l : Nat) (f : Launch → Launch) : (modLaunch s l f).boots = s.boots := rfl
@[simp] theorem modLaunch_mem (s : State) (l : Nat) (f : Launch → Launch) : (modLaunch s l f).mem = s.mem := rfl
@[simp] theorem modLaunch_started (s : State) (l : Nat) (f : Launch → Launch) : (modLaunch s l f).started = s.started := rfl
@[simp] theorem modLaunch_nextId (s : State) (l : Nat) (f : Launch → Launch) : (modLaunch s l f).nextId = s.nextId := rfl
@[simp] theorem modLaunch_freeCtr (s : State) (l : Nat) (f : Launch → Launch) : (modLaunch s l f).freeCtr = s.freeCtr := rfl

@[simp] theorem modOwner_clock (s : State) (o : Nat) (f : Owner → Owner) : (modOwner s o f).clock = s.clock := rfl
@[simp] theorem modOwner_agenda (s : State) (o : Nat) (f : Owner → Owner) : (modOwner s o f).agenda = s.agenda := rfl
@[simp] theorem modOwner_cur (s : State) (o : Nat) (f : Owner → Owner) : (modOwner s o f).cur = s.cur := rfl
@[simp] theorem modOwner_pfx (s : State) (o : Nat) (f : Owner → Owner) : (modOwner s o f).pfx = s.pfx := rfl
@[simp] theorem modOwner_fuses (s : State) (o : Nat) (f : Owner → Owner) : (modOwner s o f).fuses = s.fuses := rfl
@[simp] theorem modOwner_powered (s : State) (o : Nat) (f : Owner → Owner) : (modOwner s o f).powered = s.powered := rfl
@[simp] theorem modOwner_frozen (s : State) (o : Nat) (f : Owner → Owner) : (modOwner s o f).frozen = s.frozen := rfl
@[simp] theorem modOwner_pinLow (s : State) (o : Nat) (f : Owner → Owner) : (modOwner s o f).pinLow = s.pinLow := rfl
@[simp] theorem modOwner_hot (s : State) (o : Nat) (f : Owner → Owner) : (modOwner s o f).hot = s.hot := rfl
@[simp] theorem modOwner_shutdown (s : State) (o : Nat) (f : Owner → Owner) : (modOwner s o f).shutdown = s.shutdown := rfl
@[simp] theorem modOwner_wiping (s : State) (o : Nat) (f : Owner → Owner) : (modOwner s o f).wiping = s.wiping := rfl
@[simp] theorem modOwner_pf (s : State) (o : Nat) (f : Owner → Owner) : (modOwner s o f).pf = s.pf := rfl
@[simp] theorem modOwner_vf (s : State) (o : Nat) (f : Owner → Owner) : (modOwner s o f).vf = s.vf := rfl
@[simp] theorem modOwner_owners (s : State) (o : Nat) (f : Owner → Owner) : (modOwner s o f).owners = mmod s.owners o f := rfl
@[simp] theorem modOwner_seats (s : State) (o : Nat) (f : Owner → Owner) : (modOwner s o f).seats = s.seats := rfl
@[simp] theorem modOwner_positions (s : State) (o : Nat) (f : Owner → Owner) : (modOwner s o f).positions = s.positions := rfl
@[simp] theorem modOwner_moves (s : State) (o : Nat) (f : Owner → Owner) : (modOwner s o f).moves = s.moves := rfl
@[simp] theorem modOwner_launches (s : State) (o : Nat) (f : Owner → Owner) : (modOwner s o f).launches = s.launches := rfl
@[simp] theorem modOwner_blocks (s : State) (o : Nat) (f : Owner → Owner) : (modOwner s o f).blocks = s.blocks := rfl
@[simp] theorem modOwner_groups (s : State) (o : Nat) (f : Owner → Owner) : (modOwner s o f).groups = s.groups := rfl
@[simp] theorem modOwner_formations (s : State) (o : Nat) (f : Owner → Owner) : (modOwner s o f).formations = s.formations := rfl
@[simp] theorem modOwner_results (s : State) (o : Nat) (f : Owner → Owner) : (modOwner s o f).results = s.results := rfl
@[simp] theorem modOwner_accs (s : State) (o : Nat) (f : Owner → Owner) : (modOwner s o f).accs = s.accs := rfl
@[simp] theorem modOwner_reqs (s : State) (o : Nat) (f : Owner → Owner) : (modOwner s o f).reqs = s.reqs := rfl
@[simp] theorem modOwner_walks (s : State) (o : Nat) (f : Owner → Owner) : (modOwner s o f).walks = s.walks := rfl
@[simp] theorem modOwner_misses (s : State) (o : Nat) (f : Owner → Owner) : (modOwner s o f).misses = s.misses := rfl
@[simp] theorem modOwner_seen (s : State) (o : Nat) (f : Owner → Owner) : (modOwner s o f).seen = s.seen := rfl
@[simp] theorem modOwner_coreTlb (s : State) (o : Nat) (f : Owner → Owner) : (modOwner s o f).coreTlb = s.coreTlb := rfl
@[simp] theorem modOwner_dieTlb (s : State) (o : Nat) (f : Owner → Owner) : (modOwner s o f).dieTlb = s.dieTlb := rfl
@[simp] theorem modOwner_l0 (s : State) (o : Nat) (f : Owner → Owner) : (modOwner s o f).l0 = s.l0 := rfl
@[simp] theorem modOwner_l1 (s : State) (o : Nat) (f : Owner → Owner) : (modOwner s o f).l1 = s.l1 := rfl
@[simp] theorem modOwner_l2 (s : State) (o : Nat) (f : Owner → Owner) : (modOwner s o f).l2 = s.l2 := rfl
@[simp] theorem modOwner_channels (s : State) (o : Nat) (f : Owner → Owner) : (modOwner s o f).channels = s.channels := rfl
@[simp] theorem modOwner_ops (s : State) (o : Nat) (f : Owner → Owner) : (modOwner s o f).ops = s.ops := rfl
@[simp] theorem modOwner_runs (s : State) (o : Nat) (f : Owner → Owner) : (modOwner s o f).runs = s.runs := rfl
@[simp] theorem modOwner_messages (s : State) (o : Nat) (f : Owner → Owner) : (modOwner s o f).messages = s.messages := rfl
@[simp] theorem modOwner_migs (s : State) (o : Nat) (f : Owner → Owner) : (modOwner s o f).migs = s.migs := rfl
@[simp] theorem modOwner_landings (s : State) (o : Nat) (f : Owner → Owner) : (modOwner s o f).landings = s.landings := rfl
@[simp] theorem modOwner_watchers (s : State) (o : Nat) (f : Owner → Owner) : (modOwner s o f).watchers = s.watchers := rfl
@[simp] theorem modOwner_waiters (s : State) (o : Nat) (f : Owner → Owner) : (modOwner s o f).waiters = s.waiters := rfl
@[simp] theorem modOwner_queues (s : State) (o : Nat) (f : Owner → Owner) : (modOwner s o f).queues = s.queues := rfl
@[simp] theorem modOwner_invals (s : State) (o : Nat) (f : Owner → Owner) : (modOwner s o f).invals = s.invals := rfl
@[simp] theorem modOwner_exts (s : State) (o : Nat) (f : Owner → Owner) : (modOwner s o f).exts = s.exts := rfl
@[simp] theorem modOwner_arrived (s : State) (o : Nat) (f : Owner → Owner) : (modOwner s o f).arrived = s.arrived := rfl
@[simp] theorem modOwner_sent (s : State) (o : Nat) (f : Owner → Owner) : (modOwner s o f).sent = s.sent := rfl
@[simp] theorem modOwner_inbound (s : State) (o : Nat) (f : Owner → Owner) : (modOwner s o f).inbound = s.inbound := rfl
@[simp] theorem modOwner_returned (s : State) (o : Nat) (f : Owner → Owner) : (modOwner s o f).returned = s.returned := rfl
@[simp] theorem modOwner_preds (s : State) (o : Nat) (f : Owner → Owner) : (modOwner s o f).preds = s.preds := rfl
@[simp] theorem modOwner_mphit (s : State) (o : Nat) (f : Owner → Owner) : (modOwner s o f).mphit = s.mphit := rfl
@[simp] theorem modOwner_mpmiss (s : State) (o : Nat) (f : Owner → Owner) : (modOwner s o f).mpmiss = s.mpmiss := rfl
@[simp] theorem modOwner_claims (s : State) (o : Nat) (f : Owner → Owner) : (modOwner s o f).claims = s.claims := rfl
@[simp] theorem modOwner_images (s : State) (o : Nat) (f : Owner → Owner) : (modOwner s o f).images = s.images := rfl
@[simp] theorem modOwner_pfQueue (s : State) (o : Nat) (f : Owner → Owner) : (modOwner s o f).pfQueue = s.pfQueue := rfl
@[simp] theorem modOwner_pfReply (s : State) (o : Nat) (f : Owner → Owner) : (modOwner s o f).pfReply = s.pfReply := rfl
@[simp] theorem modOwner_scrub (s : State) (o : Nat) (f : Owner → Owner) : (modOwner s o f).scrub = s.scrub := rfl
@[simp] theorem modOwner_refreshRow (s : State) (o : Nat) (f : Owner → Owner) : (modOwner s o f).refreshRow = s.refreshRow := rfl
@[simp] theorem modOwner_poison (s : State) (o : Nat) (f : Owner → Owner) : (modOwner s o f).poison = s.poison := rfl
@[simp] theorem modOwner_errors (s : State) (o : Nat) (f : Owner → Owner) : (modOwner s o f).errors = s.errors := rfl
@[simp] theorem modOwner_badRegs (s : State) (o : Nat) (f : Owner → Owner) : (modOwner s o f).badRegs = s.badRegs := rfl
@[simp] theorem modOwner_weak (s : State) (o : Nat) (f : Owner → Owner) : (modOwner s o f).weak = s.weak := rfl
@[simp] theorem modOwner_sealedUnits (s : State) (o : Nat) (f : Owner → Owner) : (modOwner s o f).sealedUnits = s.sealedUnits := rfl
@[simp] theorem modOwner_tokens (s : State) (o : Nat) (f : Owner → Owner) : (modOwner s o f).tokens = s.tokens := rfl
@[simp] theorem modOwner_breakpoints (s : State) (o : Nat) (f : Owner → Owner) : (modOwner s o f).breakpoints = s.breakpoints := rfl
@[simp] theorem modOwner_readout (s : State) (o : Nat) (f : Owner → Owner) : (modOwner s o f).readout = s.readout := rfl
@[simp] theorem modOwner_stepping (s : State) (o : Nat) (f : Owner → Owner) : (modOwner s o f).stepping = s.stepping := rfl
@[simp] theorem modOwner_mailbox (s : State) (o : Nat) (f : Owner → Owner) : (modOwner s o f).mailbox = s.mailbox := rfl
@[simp] theorem modOwner_boots (s : State) (o : Nat) (f : Owner → Owner) : (modOwner s o f).boots = s.boots := rfl
@[simp] theorem modOwner_mem (s : State) (o : Nat) (f : Owner → Owner) : (modOwner s o f).mem = s.mem := rfl
@[simp] theorem modOwner_started (s : State) (o : Nat) (f : Owner → Owner) : (modOwner s o f).started = s.started := rfl
@[simp] theorem modOwner_nextId (s : State) (o : Nat) (f : Owner → Owner) : (modOwner s o f).nextId = s.nextId := rfl
@[simp] theorem modOwner_freeCtr (s : State) (o : Nat) (f : Owner → Owner) : (modOwner s o f).freeCtr = s.freeCtr := rfl

@[simp] theorem pfSet_clock (s : State) (off : Nat) (v : BitVec 64) : (pfSet s off v).clock = s.clock := rfl
@[simp] theorem pfSet_agenda (s : State) (off : Nat) (v : BitVec 64) : (pfSet s off v).agenda = s.agenda := rfl
@[simp] theorem pfSet_cur (s : State) (off : Nat) (v : BitVec 64) : (pfSet s off v).cur = s.cur := rfl
@[simp] theorem pfSet_pfx (s : State) (off : Nat) (v : BitVec 64) : (pfSet s off v).pfx = s.pfx := rfl
@[simp] theorem pfSet_fuses (s : State) (off : Nat) (v : BitVec 64) : (pfSet s off v).fuses = s.fuses := rfl
@[simp] theorem pfSet_powered (s : State) (off : Nat) (v : BitVec 64) : (pfSet s off v).powered = s.powered := rfl
@[simp] theorem pfSet_frozen (s : State) (off : Nat) (v : BitVec 64) : (pfSet s off v).frozen = s.frozen := rfl
@[simp] theorem pfSet_pinLow (s : State) (off : Nat) (v : BitVec 64) : (pfSet s off v).pinLow = s.pinLow := rfl
@[simp] theorem pfSet_hot (s : State) (off : Nat) (v : BitVec 64) : (pfSet s off v).hot = s.hot := rfl
@[simp] theorem pfSet_shutdown (s : State) (off : Nat) (v : BitVec 64) : (pfSet s off v).shutdown = s.shutdown := rfl
@[simp] theorem pfSet_wiping (s : State) (off : Nat) (v : BitVec 64) : (pfSet s off v).wiping = s.wiping := rfl
@[simp] theorem pfSet_pf (s : State) (off : Nat) (v : BitVec 64) : (pfSet s off v).pf = mset s.pf off v := rfl
@[simp] theorem pfSet_vf (s : State) (off : Nat) (v : BitVec 64) : (pfSet s off v).vf = s.vf := rfl
@[simp] theorem pfSet_owners (s : State) (off : Nat) (v : BitVec 64) : (pfSet s off v).owners = s.owners := rfl
@[simp] theorem pfSet_seats (s : State) (off : Nat) (v : BitVec 64) : (pfSet s off v).seats = s.seats := rfl
@[simp] theorem pfSet_positions (s : State) (off : Nat) (v : BitVec 64) : (pfSet s off v).positions = s.positions := rfl
@[simp] theorem pfSet_moves (s : State) (off : Nat) (v : BitVec 64) : (pfSet s off v).moves = s.moves := rfl
@[simp] theorem pfSet_launches (s : State) (off : Nat) (v : BitVec 64) : (pfSet s off v).launches = s.launches := rfl
@[simp] theorem pfSet_blocks (s : State) (off : Nat) (v : BitVec 64) : (pfSet s off v).blocks = s.blocks := rfl
@[simp] theorem pfSet_groups (s : State) (off : Nat) (v : BitVec 64) : (pfSet s off v).groups = s.groups := rfl
@[simp] theorem pfSet_formations (s : State) (off : Nat) (v : BitVec 64) : (pfSet s off v).formations = s.formations := rfl
@[simp] theorem pfSet_results (s : State) (off : Nat) (v : BitVec 64) : (pfSet s off v).results = s.results := rfl
@[simp] theorem pfSet_accs (s : State) (off : Nat) (v : BitVec 64) : (pfSet s off v).accs = s.accs := rfl
@[simp] theorem pfSet_reqs (s : State) (off : Nat) (v : BitVec 64) : (pfSet s off v).reqs = s.reqs := rfl
@[simp] theorem pfSet_walks (s : State) (off : Nat) (v : BitVec 64) : (pfSet s off v).walks = s.walks := rfl
@[simp] theorem pfSet_misses (s : State) (off : Nat) (v : BitVec 64) : (pfSet s off v).misses = s.misses := rfl
@[simp] theorem pfSet_seen (s : State) (off : Nat) (v : BitVec 64) : (pfSet s off v).seen = s.seen := rfl
@[simp] theorem pfSet_coreTlb (s : State) (off : Nat) (v : BitVec 64) : (pfSet s off v).coreTlb = s.coreTlb := rfl
@[simp] theorem pfSet_dieTlb (s : State) (off : Nat) (v : BitVec 64) : (pfSet s off v).dieTlb = s.dieTlb := rfl
@[simp] theorem pfSet_l0 (s : State) (off : Nat) (v : BitVec 64) : (pfSet s off v).l0 = s.l0 := rfl
@[simp] theorem pfSet_l1 (s : State) (off : Nat) (v : BitVec 64) : (pfSet s off v).l1 = s.l1 := rfl
@[simp] theorem pfSet_l2 (s : State) (off : Nat) (v : BitVec 64) : (pfSet s off v).l2 = s.l2 := rfl
@[simp] theorem pfSet_channels (s : State) (off : Nat) (v : BitVec 64) : (pfSet s off v).channels = s.channels := rfl
@[simp] theorem pfSet_ops (s : State) (off : Nat) (v : BitVec 64) : (pfSet s off v).ops = s.ops := rfl
@[simp] theorem pfSet_runs (s : State) (off : Nat) (v : BitVec 64) : (pfSet s off v).runs = s.runs := rfl
@[simp] theorem pfSet_messages (s : State) (off : Nat) (v : BitVec 64) : (pfSet s off v).messages = s.messages := rfl
@[simp] theorem pfSet_migs (s : State) (off : Nat) (v : BitVec 64) : (pfSet s off v).migs = s.migs := rfl
@[simp] theorem pfSet_landings (s : State) (off : Nat) (v : BitVec 64) : (pfSet s off v).landings = s.landings := rfl
@[simp] theorem pfSet_watchers (s : State) (off : Nat) (v : BitVec 64) : (pfSet s off v).watchers = s.watchers := rfl
@[simp] theorem pfSet_waiters (s : State) (off : Nat) (v : BitVec 64) : (pfSet s off v).waiters = s.waiters := rfl
@[simp] theorem pfSet_queues (s : State) (off : Nat) (v : BitVec 64) : (pfSet s off v).queues = s.queues := rfl
@[simp] theorem pfSet_invals (s : State) (off : Nat) (v : BitVec 64) : (pfSet s off v).invals = s.invals := rfl
@[simp] theorem pfSet_exts (s : State) (off : Nat) (v : BitVec 64) : (pfSet s off v).exts = s.exts := rfl
@[simp] theorem pfSet_arrived (s : State) (off : Nat) (v : BitVec 64) : (pfSet s off v).arrived = s.arrived := rfl
@[simp] theorem pfSet_sent (s : State) (off : Nat) (v : BitVec 64) : (pfSet s off v).sent = s.sent := rfl
@[simp] theorem pfSet_inbound (s : State) (off : Nat) (v : BitVec 64) : (pfSet s off v).inbound = s.inbound := rfl
@[simp] theorem pfSet_returned (s : State) (off : Nat) (v : BitVec 64) : (pfSet s off v).returned = s.returned := rfl
@[simp] theorem pfSet_preds (s : State) (off : Nat) (v : BitVec 64) : (pfSet s off v).preds = s.preds := rfl
@[simp] theorem pfSet_mphit (s : State) (off : Nat) (v : BitVec 64) : (pfSet s off v).mphit = s.mphit := rfl
@[simp] theorem pfSet_mpmiss (s : State) (off : Nat) (v : BitVec 64) : (pfSet s off v).mpmiss = s.mpmiss := rfl
@[simp] theorem pfSet_claims (s : State) (off : Nat) (v : BitVec 64) : (pfSet s off v).claims = s.claims := rfl
@[simp] theorem pfSet_images (s : State) (off : Nat) (v : BitVec 64) : (pfSet s off v).images = s.images := rfl
@[simp] theorem pfSet_pfQueue (s : State) (off : Nat) (v : BitVec 64) : (pfSet s off v).pfQueue = s.pfQueue := rfl
@[simp] theorem pfSet_pfReply (s : State) (off : Nat) (v : BitVec 64) : (pfSet s off v).pfReply = s.pfReply := rfl
@[simp] theorem pfSet_scrub (s : State) (off : Nat) (v : BitVec 64) : (pfSet s off v).scrub = s.scrub := rfl
@[simp] theorem pfSet_refreshRow (s : State) (off : Nat) (v : BitVec 64) : (pfSet s off v).refreshRow = s.refreshRow := rfl
@[simp] theorem pfSet_poison (s : State) (off : Nat) (v : BitVec 64) : (pfSet s off v).poison = s.poison := rfl
@[simp] theorem pfSet_errors (s : State) (off : Nat) (v : BitVec 64) : (pfSet s off v).errors = s.errors := rfl
@[simp] theorem pfSet_badRegs (s : State) (off : Nat) (v : BitVec 64) : (pfSet s off v).badRegs = s.badRegs := rfl
@[simp] theorem pfSet_weak (s : State) (off : Nat) (v : BitVec 64) : (pfSet s off v).weak = s.weak := rfl
@[simp] theorem pfSet_sealedUnits (s : State) (off : Nat) (v : BitVec 64) : (pfSet s off v).sealedUnits = s.sealedUnits := rfl
@[simp] theorem pfSet_tokens (s : State) (off : Nat) (v : BitVec 64) : (pfSet s off v).tokens = s.tokens := rfl
@[simp] theorem pfSet_breakpoints (s : State) (off : Nat) (v : BitVec 64) : (pfSet s off v).breakpoints = s.breakpoints := rfl
@[simp] theorem pfSet_readout (s : State) (off : Nat) (v : BitVec 64) : (pfSet s off v).readout = s.readout := rfl
@[simp] theorem pfSet_stepping (s : State) (off : Nat) (v : BitVec 64) : (pfSet s off v).stepping = s.stepping := rfl
@[simp] theorem pfSet_mailbox (s : State) (off : Nat) (v : BitVec 64) : (pfSet s off v).mailbox = s.mailbox := rfl
@[simp] theorem pfSet_boots (s : State) (off : Nat) (v : BitVec 64) : (pfSet s off v).boots = s.boots := rfl
@[simp] theorem pfSet_mem (s : State) (off : Nat) (v : BitVec 64) : (pfSet s off v).mem = s.mem := rfl
@[simp] theorem pfSet_started (s : State) (off : Nat) (v : BitVec 64) : (pfSet s off v).started = s.started := rfl
@[simp] theorem pfSet_nextId (s : State) (off : Nat) (v : BitVec 64) : (pfSet s off v).nextId = s.nextId := rfl
@[simp] theorem pfSet_freeCtr (s : State) (off : Nat) (v : BitVec 64) : (pfSet s off v).freeCtr = s.freeCtr := rfl

@[simp] theorem vfSet_clock (s : State) (o off : Nat) (v : BitVec 64) : (vfSet s o off v).clock = s.clock := rfl
@[simp] theorem vfSet_agenda (s : State) (o off : Nat) (v : BitVec 64) : (vfSet s o off v).agenda = s.agenda := rfl
@[simp] theorem vfSet_cur (s : State) (o off : Nat) (v : BitVec 64) : (vfSet s o off v).cur = s.cur := rfl
@[simp] theorem vfSet_pfx (s : State) (o off : Nat) (v : BitVec 64) : (vfSet s o off v).pfx = s.pfx := rfl
@[simp] theorem vfSet_fuses (s : State) (o off : Nat) (v : BitVec 64) : (vfSet s o off v).fuses = s.fuses := rfl
@[simp] theorem vfSet_powered (s : State) (o off : Nat) (v : BitVec 64) : (vfSet s o off v).powered = s.powered := rfl
@[simp] theorem vfSet_frozen (s : State) (o off : Nat) (v : BitVec 64) : (vfSet s o off v).frozen = s.frozen := rfl
@[simp] theorem vfSet_pinLow (s : State) (o off : Nat) (v : BitVec 64) : (vfSet s o off v).pinLow = s.pinLow := rfl
@[simp] theorem vfSet_hot (s : State) (o off : Nat) (v : BitVec 64) : (vfSet s o off v).hot = s.hot := rfl
@[simp] theorem vfSet_shutdown (s : State) (o off : Nat) (v : BitVec 64) : (vfSet s o off v).shutdown = s.shutdown := rfl
@[simp] theorem vfSet_wiping (s : State) (o off : Nat) (v : BitVec 64) : (vfSet s o off v).wiping = s.wiping := rfl
@[simp] theorem vfSet_pf (s : State) (o off : Nat) (v : BitVec 64) : (vfSet s o off v).pf = s.pf := rfl
@[simp] theorem vfSet_vf (s : State) (o off : Nat) (v : BitVec 64) : (vfSet s o off v).vf = mset s.vf (o * 65536 + off) v := rfl
@[simp] theorem vfSet_owners (s : State) (o off : Nat) (v : BitVec 64) : (vfSet s o off v).owners = s.owners := rfl
@[simp] theorem vfSet_seats (s : State) (o off : Nat) (v : BitVec 64) : (vfSet s o off v).seats = s.seats := rfl
@[simp] theorem vfSet_positions (s : State) (o off : Nat) (v : BitVec 64) : (vfSet s o off v).positions = s.positions := rfl
@[simp] theorem vfSet_moves (s : State) (o off : Nat) (v : BitVec 64) : (vfSet s o off v).moves = s.moves := rfl
@[simp] theorem vfSet_launches (s : State) (o off : Nat) (v : BitVec 64) : (vfSet s o off v).launches = s.launches := rfl
@[simp] theorem vfSet_blocks (s : State) (o off : Nat) (v : BitVec 64) : (vfSet s o off v).blocks = s.blocks := rfl
@[simp] theorem vfSet_groups (s : State) (o off : Nat) (v : BitVec 64) : (vfSet s o off v).groups = s.groups := rfl
@[simp] theorem vfSet_formations (s : State) (o off : Nat) (v : BitVec 64) : (vfSet s o off v).formations = s.formations := rfl
@[simp] theorem vfSet_results (s : State) (o off : Nat) (v : BitVec 64) : (vfSet s o off v).results = s.results := rfl
@[simp] theorem vfSet_accs (s : State) (o off : Nat) (v : BitVec 64) : (vfSet s o off v).accs = s.accs := rfl
@[simp] theorem vfSet_reqs (s : State) (o off : Nat) (v : BitVec 64) : (vfSet s o off v).reqs = s.reqs := rfl
@[simp] theorem vfSet_walks (s : State) (o off : Nat) (v : BitVec 64) : (vfSet s o off v).walks = s.walks := rfl
@[simp] theorem vfSet_misses (s : State) (o off : Nat) (v : BitVec 64) : (vfSet s o off v).misses = s.misses := rfl
@[simp] theorem vfSet_seen (s : State) (o off : Nat) (v : BitVec 64) : (vfSet s o off v).seen = s.seen := rfl
@[simp] theorem vfSet_coreTlb (s : State) (o off : Nat) (v : BitVec 64) : (vfSet s o off v).coreTlb = s.coreTlb := rfl
@[simp] theorem vfSet_dieTlb (s : State) (o off : Nat) (v : BitVec 64) : (vfSet s o off v).dieTlb = s.dieTlb := rfl
@[simp] theorem vfSet_l0 (s : State) (o off : Nat) (v : BitVec 64) : (vfSet s o off v).l0 = s.l0 := rfl
@[simp] theorem vfSet_l1 (s : State) (o off : Nat) (v : BitVec 64) : (vfSet s o off v).l1 = s.l1 := rfl
@[simp] theorem vfSet_l2 (s : State) (o off : Nat) (v : BitVec 64) : (vfSet s o off v).l2 = s.l2 := rfl
@[simp] theorem vfSet_channels (s : State) (o off : Nat) (v : BitVec 64) : (vfSet s o off v).channels = s.channels := rfl
@[simp] theorem vfSet_ops (s : State) (o off : Nat) (v : BitVec 64) : (vfSet s o off v).ops = s.ops := rfl
@[simp] theorem vfSet_runs (s : State) (o off : Nat) (v : BitVec 64) : (vfSet s o off v).runs = s.runs := rfl
@[simp] theorem vfSet_messages (s : State) (o off : Nat) (v : BitVec 64) : (vfSet s o off v).messages = s.messages := rfl
@[simp] theorem vfSet_migs (s : State) (o off : Nat) (v : BitVec 64) : (vfSet s o off v).migs = s.migs := rfl
@[simp] theorem vfSet_landings (s : State) (o off : Nat) (v : BitVec 64) : (vfSet s o off v).landings = s.landings := rfl
@[simp] theorem vfSet_watchers (s : State) (o off : Nat) (v : BitVec 64) : (vfSet s o off v).watchers = s.watchers := rfl
@[simp] theorem vfSet_waiters (s : State) (o off : Nat) (v : BitVec 64) : (vfSet s o off v).waiters = s.waiters := rfl
@[simp] theorem vfSet_queues (s : State) (o off : Nat) (v : BitVec 64) : (vfSet s o off v).queues = s.queues := rfl
@[simp] theorem vfSet_invals (s : State) (o off : Nat) (v : BitVec 64) : (vfSet s o off v).invals = s.invals := rfl
@[simp] theorem vfSet_exts (s : State) (o off : Nat) (v : BitVec 64) : (vfSet s o off v).exts = s.exts := rfl
@[simp] theorem vfSet_arrived (s : State) (o off : Nat) (v : BitVec 64) : (vfSet s o off v).arrived = s.arrived := rfl
@[simp] theorem vfSet_sent (s : State) (o off : Nat) (v : BitVec 64) : (vfSet s o off v).sent = s.sent := rfl
@[simp] theorem vfSet_inbound (s : State) (o off : Nat) (v : BitVec 64) : (vfSet s o off v).inbound = s.inbound := rfl
@[simp] theorem vfSet_returned (s : State) (o off : Nat) (v : BitVec 64) : (vfSet s o off v).returned = s.returned := rfl
@[simp] theorem vfSet_preds (s : State) (o off : Nat) (v : BitVec 64) : (vfSet s o off v).preds = s.preds := rfl
@[simp] theorem vfSet_mphit (s : State) (o off : Nat) (v : BitVec 64) : (vfSet s o off v).mphit = s.mphit := rfl
@[simp] theorem vfSet_mpmiss (s : State) (o off : Nat) (v : BitVec 64) : (vfSet s o off v).mpmiss = s.mpmiss := rfl
@[simp] theorem vfSet_claims (s : State) (o off : Nat) (v : BitVec 64) : (vfSet s o off v).claims = s.claims := rfl
@[simp] theorem vfSet_images (s : State) (o off : Nat) (v : BitVec 64) : (vfSet s o off v).images = s.images := rfl
@[simp] theorem vfSet_pfQueue (s : State) (o off : Nat) (v : BitVec 64) : (vfSet s o off v).pfQueue = s.pfQueue := rfl
@[simp] theorem vfSet_pfReply (s : State) (o off : Nat) (v : BitVec 64) : (vfSet s o off v).pfReply = s.pfReply := rfl
@[simp] theorem vfSet_scrub (s : State) (o off : Nat) (v : BitVec 64) : (vfSet s o off v).scrub = s.scrub := rfl
@[simp] theorem vfSet_refreshRow (s : State) (o off : Nat) (v : BitVec 64) : (vfSet s o off v).refreshRow = s.refreshRow := rfl
@[simp] theorem vfSet_poison (s : State) (o off : Nat) (v : BitVec 64) : (vfSet s o off v).poison = s.poison := rfl
@[simp] theorem vfSet_errors (s : State) (o off : Nat) (v : BitVec 64) : (vfSet s o off v).errors = s.errors := rfl
@[simp] theorem vfSet_badRegs (s : State) (o off : Nat) (v : BitVec 64) : (vfSet s o off v).badRegs = s.badRegs := rfl
@[simp] theorem vfSet_weak (s : State) (o off : Nat) (v : BitVec 64) : (vfSet s o off v).weak = s.weak := rfl
@[simp] theorem vfSet_sealedUnits (s : State) (o off : Nat) (v : BitVec 64) : (vfSet s o off v).sealedUnits = s.sealedUnits := rfl
@[simp] theorem vfSet_tokens (s : State) (o off : Nat) (v : BitVec 64) : (vfSet s o off v).tokens = s.tokens := rfl
@[simp] theorem vfSet_breakpoints (s : State) (o off : Nat) (v : BitVec 64) : (vfSet s o off v).breakpoints = s.breakpoints := rfl
@[simp] theorem vfSet_readout (s : State) (o off : Nat) (v : BitVec 64) : (vfSet s o off v).readout = s.readout := rfl
@[simp] theorem vfSet_stepping (s : State) (o off : Nat) (v : BitVec 64) : (vfSet s o off v).stepping = s.stepping := rfl
@[simp] theorem vfSet_mailbox (s : State) (o off : Nat) (v : BitVec 64) : (vfSet s o off v).mailbox = s.mailbox := rfl
@[simp] theorem vfSet_boots (s : State) (o off : Nat) (v : BitVec 64) : (vfSet s o off v).boots = s.boots := rfl
@[simp] theorem vfSet_mem (s : State) (o off : Nat) (v : BitVec 64) : (vfSet s o off v).mem = s.mem := rfl
@[simp] theorem vfSet_started (s : State) (o off : Nat) (v : BitVec 64) : (vfSet s o off v).started = s.started := rfl
@[simp] theorem vfSet_nextId (s : State) (o off : Nat) (v : BitVec 64) : (vfSet s o off v).nextId = s.nextId := rfl
@[simp] theorem vfSet_freeCtr (s : State) (o off : Nat) (v : BitVec 64) : (vfSet s o off v).freeCtr = s.freeCtr := rfl

@[simp] theorem claim_clock (s : State) (o t inst clock : Nat) : (claim s o t inst clock).clock = s.clock := rfl
@[simp] theorem claim_agenda (s : State) (o t inst clock : Nat) : (claim s o t inst clock).agenda = s.agenda := rfl
@[simp] theorem claim_cur (s : State) (o t inst clock : Nat) : (claim s o t inst clock).cur = s.cur := rfl
@[simp] theorem claim_pfx (s : State) (o t inst clock : Nat) : (claim s o t inst clock).pfx = s.pfx := rfl
@[simp] theorem claim_fuses (s : State) (o t inst clock : Nat) : (claim s o t inst clock).fuses = s.fuses := rfl
@[simp] theorem claim_powered (s : State) (o t inst clock : Nat) : (claim s o t inst clock).powered = s.powered := rfl
@[simp] theorem claim_frozen (s : State) (o t inst clock : Nat) : (claim s o t inst clock).frozen = s.frozen := rfl
@[simp] theorem claim_pinLow (s : State) (o t inst clock : Nat) : (claim s o t inst clock).pinLow = s.pinLow := rfl
@[simp] theorem claim_hot (s : State) (o t inst clock : Nat) : (claim s o t inst clock).hot = s.hot := rfl
@[simp] theorem claim_shutdown (s : State) (o t inst clock : Nat) : (claim s o t inst clock).shutdown = s.shutdown := rfl
@[simp] theorem claim_wiping (s : State) (o t inst clock : Nat) : (claim s o t inst clock).wiping = s.wiping := rfl
@[simp] theorem claim_pf (s : State) (o t inst clock : Nat) : (claim s o t inst clock).pf = s.pf := rfl
@[simp] theorem claim_vf (s : State) (o t inst clock : Nat) : (claim s o t inst clock).vf = s.vf := rfl
@[simp] theorem claim_owners (s : State) (o t inst clock : Nat) : (claim s o t inst clock).owners = s.owners := rfl
@[simp] theorem claim_seats (s : State) (o t inst clock : Nat) : (claim s o t inst clock).seats = s.seats := rfl
@[simp] theorem claim_positions (s : State) (o t inst clock : Nat) : (claim s o t inst clock).positions = s.positions := rfl
@[simp] theorem claim_moves (s : State) (o t inst clock : Nat) : (claim s o t inst clock).moves = s.moves := rfl
@[simp] theorem claim_launches (s : State) (o t inst clock : Nat) : (claim s o t inst clock).launches = s.launches := rfl
@[simp] theorem claim_blocks (s : State) (o t inst clock : Nat) : (claim s o t inst clock).blocks = s.blocks := rfl
@[simp] theorem claim_groups (s : State) (o t inst clock : Nat) : (claim s o t inst clock).groups = s.groups := rfl
@[simp] theorem claim_formations (s : State) (o t inst clock : Nat) : (claim s o t inst clock).formations = s.formations := rfl
@[simp] theorem claim_results (s : State) (o t inst clock : Nat) : (claim s o t inst clock).results = s.results := rfl
@[simp] theorem claim_accs (s : State) (o t inst clock : Nat) : (claim s o t inst clock).accs = s.accs := rfl
@[simp] theorem claim_reqs (s : State) (o t inst clock : Nat) : (claim s o t inst clock).reqs = s.reqs := rfl
@[simp] theorem claim_walks (s : State) (o t inst clock : Nat) : (claim s o t inst clock).walks = s.walks := rfl
@[simp] theorem claim_misses (s : State) (o t inst clock : Nat) : (claim s o t inst clock).misses = s.misses := rfl
@[simp] theorem claim_seen (s : State) (o t inst clock : Nat) : (claim s o t inst clock).seen = s.seen := rfl
@[simp] theorem claim_coreTlb (s : State) (o t inst clock : Nat) : (claim s o t inst clock).coreTlb = s.coreTlb := rfl
@[simp] theorem claim_dieTlb (s : State) (o t inst clock : Nat) : (claim s o t inst clock).dieTlb = s.dieTlb := rfl
@[simp] theorem claim_l0 (s : State) (o t inst clock : Nat) : (claim s o t inst clock).l0 = s.l0 := rfl
@[simp] theorem claim_l1 (s : State) (o t inst clock : Nat) : (claim s o t inst clock).l1 = s.l1 := rfl
@[simp] theorem claim_l2 (s : State) (o t inst clock : Nat) : (claim s o t inst clock).l2 = s.l2 := rfl
@[simp] theorem claim_channels (s : State) (o t inst clock : Nat) : (claim s o t inst clock).channels = s.channels := rfl
@[simp] theorem claim_ops (s : State) (o t inst clock : Nat) : (claim s o t inst clock).ops = s.ops := rfl
@[simp] theorem claim_runs (s : State) (o t inst clock : Nat) : (claim s o t inst clock).runs = s.runs := rfl
@[simp] theorem claim_messages (s : State) (o t inst clock : Nat) : (claim s o t inst clock).messages = s.messages := rfl
@[simp] theorem claim_migs (s : State) (o t inst clock : Nat) : (claim s o t inst clock).migs = s.migs := rfl
@[simp] theorem claim_landings (s : State) (o t inst clock : Nat) : (claim s o t inst clock).landings = s.landings := rfl
@[simp] theorem claim_watchers (s : State) (o t inst clock : Nat) : (claim s o t inst clock).watchers = s.watchers := rfl
@[simp] theorem claim_waiters (s : State) (o t inst clock : Nat) : (claim s o t inst clock).waiters = s.waiters := rfl
@[simp] theorem claim_queues (s : State) (o t inst clock : Nat) : (claim s o t inst clock).queues = s.queues := rfl
@[simp] theorem claim_invals (s : State) (o t inst clock : Nat) : (claim s o t inst clock).invals = s.invals := rfl
@[simp] theorem claim_exts (s : State) (o t inst clock : Nat) : (claim s o t inst clock).exts = s.exts := rfl
@[simp] theorem claim_arrived (s : State) (o t inst clock : Nat) : (claim s o t inst clock).arrived = s.arrived := rfl
@[simp] theorem claim_sent (s : State) (o t inst clock : Nat) : (claim s o t inst clock).sent = s.sent := rfl
@[simp] theorem claim_inbound (s : State) (o t inst clock : Nat) : (claim s o t inst clock).inbound = s.inbound := rfl
@[simp] theorem claim_returned (s : State) (o t inst clock : Nat) : (claim s o t inst clock).returned = s.returned := rfl
@[simp] theorem claim_preds (s : State) (o t inst clock : Nat) : (claim s o t inst clock).preds = s.preds := rfl
@[simp] theorem claim_mphit (s : State) (o t inst clock : Nat) : (claim s o t inst clock).mphit = s.mphit := rfl
@[simp] theorem claim_mpmiss (s : State) (o t inst clock : Nat) : (claim s o t inst clock).mpmiss = s.mpmiss := rfl
@[simp] theorem claim_claims (s : State) (o t inst clock : Nat) : (claim s o t inst clock).claims = mset s.claims (claimKey o t inst) (claimAt s o t inst clock + posLen t) := rfl
@[simp] theorem claim_images (s : State) (o t inst clock : Nat) : (claim s o t inst clock).images = s.images := rfl
@[simp] theorem claim_pfQueue (s : State) (o t inst clock : Nat) : (claim s o t inst clock).pfQueue = s.pfQueue := rfl
@[simp] theorem claim_pfReply (s : State) (o t inst clock : Nat) : (claim s o t inst clock).pfReply = s.pfReply := rfl
@[simp] theorem claim_scrub (s : State) (o t inst clock : Nat) : (claim s o t inst clock).scrub = s.scrub := rfl
@[simp] theorem claim_refreshRow (s : State) (o t inst clock : Nat) : (claim s o t inst clock).refreshRow = s.refreshRow := rfl
@[simp] theorem claim_poison (s : State) (o t inst clock : Nat) : (claim s o t inst clock).poison = s.poison := rfl
@[simp] theorem claim_errors (s : State) (o t inst clock : Nat) : (claim s o t inst clock).errors = s.errors := rfl
@[simp] theorem claim_badRegs (s : State) (o t inst clock : Nat) : (claim s o t inst clock).badRegs = s.badRegs := rfl
@[simp] theorem claim_weak (s : State) (o t inst clock : Nat) : (claim s o t inst clock).weak = s.weak := rfl
@[simp] theorem claim_sealedUnits (s : State) (o t inst clock : Nat) : (claim s o t inst clock).sealedUnits = s.sealedUnits := rfl
@[simp] theorem claim_tokens (s : State) (o t inst clock : Nat) : (claim s o t inst clock).tokens = s.tokens := rfl
@[simp] theorem claim_breakpoints (s : State) (o t inst clock : Nat) : (claim s o t inst clock).breakpoints = s.breakpoints := rfl
@[simp] theorem claim_readout (s : State) (o t inst clock : Nat) : (claim s o t inst clock).readout = s.readout := rfl
@[simp] theorem claim_stepping (s : State) (o t inst clock : Nat) : (claim s o t inst clock).stepping = s.stepping := rfl
@[simp] theorem claim_mailbox (s : State) (o t inst clock : Nat) : (claim s o t inst clock).mailbox = s.mailbox := rfl
@[simp] theorem claim_boots (s : State) (o t inst clock : Nat) : (claim s o t inst clock).boots = s.boots := rfl
@[simp] theorem claim_mem (s : State) (o t inst clock : Nat) : (claim s o t inst clock).mem = s.mem := rfl
@[simp] theorem claim_started (s : State) (o t inst clock : Nat) : (claim s o t inst clock).started = s.started := rfl
@[simp] theorem claim_nextId (s : State) (o t inst clock : Nat) : (claim s o t inst clock).nextId = s.nextId := rfl
@[simp] theorem claim_freeCtr (s : State) (o t inst clock : Nat) : (claim s o t inst clock).freeCtr = s.freeCtr := rfl

end Sys2Proof.Machine
end

