-- ==== Sys2Proof/Laws/Tables.lean ====
section
/-! SUPPORT. Tables, the agenda and memory: what a read gives after a write. -/

namespace Sys2Proof.Machine

theorem mfind_mset {α : Type} (m : Map α) (k j : Nat) (v : α) :
    mfind (mset m k v) j = if k = j then some v else mfind m j := by
  induction m with
  | nil => simp [mset, mfind]
  | cons e t ih =>
    obtain ⟨k', w⟩ := e
    simp only [mset]
    by_cases h1 : k' = k
    · subst h1; simp only [↓reduceIte, mfind]; split <;> rfl
    · rw [if_neg h1]
      by_cases h2 : k < k'
      · rw [if_pos h2]; rfl
      · rw [if_neg h2]; simp only [mfind, ih]
        by_cases h3 : k' = j
        · rw [if_pos h3, if_pos h3, if_neg (fun h => h1 (h3.trans h.symm))]
        · rw [if_neg h3, if_neg h3]

@[simp] theorem mfind_mset_self {α : Type} (m : Map α) (k : Nat) (v : α) : mfind (mset m k v) k = some v := by
  rw [mfind_mset, if_pos rfl]

theorem mfind_mset_ne {α : Type} (m : Map α) {k j : Nat} (v : α) (h : k ≠ j) : mfind (mset m k v) j = mfind m j := by
  rw [mfind_mset, if_neg h]

@[simp] theorem mget_mset_self {α : Type} [Inhabited α] (m : Map α) (k : Nat) (v : α) : mget (mset m k v) k = v := by
  rw [mget, mfind_mset_self]; rfl

theorem mget_mset_ne {α : Type} [Inhabited α] (m : Map α) {k j : Nat} (v : α) (h : k ≠ j) :
    mget (mset m k v) j = mget m j := by
  rw [mget, mfind_mset_ne m v h]; rfl

@[simp] theorem mget_mmod_self {α : Type} [Inhabited α] (m : Map α) (k : Nat) (f : α → α) :
    mget (mmod m k f) k = f (mget m k) := mget_mset_self m k _

theorem mget_mmod_ne {α : Type} [Inhabited α] (m : Map α) {k j : Nat} (f : α → α) (h : k ≠ j) :
    mget (mmod m k f) j = mget m j := mget_mset_ne m _ h

theorem mfind_mmod_ne {α : Type} [Inhabited α] (m : Map α) {k j : Nat} (f : α → α) (h : k ≠ j) :
    mfind (mmod m k f) j = mfind m j := mfind_mset_ne m _ h

@[simp] theorem group_modGroup (s : State) (k : Nat) (f : Group → Group) : group (modGroup s k f) k = f (group s k) :=
  mget_mmod_self s.groups k f

theorem group_modGroup_ne (s : State) {k j : Nat} (f : Group → Group) (h : k ≠ j) : group (modGroup s k f) j = group s j :=
  mget_mmod_ne s.groups f h

@[simp] theorem block_modBlock (s : State) (b : Nat) (f : Block → Block) : block (modBlock s b f) b = f (block s b) :=
  mget_mmod_self s.blocks b f

@[simp] theorem owner_modOwner (s : State) (o : Nat) (f : Owner → Owner) : owner (modOwner s o f) o = f (owner s o) :=
  mget_mmod_self s.owners o f

@[simp] theorem launch_modLaunch (s : State) (l : Nat) (f : Launch → Launch) : launch (modLaunch s l f) l = f (launch s l) :=
  mget_mmod_self s.launches l f

/-! The agenda. -/

theorem mem_insertEvent (l : List (Nat × Instr)) (due : Nat) (e : Instr) (x : Nat × Instr) :
    x ∈ insertEvent l due e ↔ x = (due, e) ∨ x ∈ l := by
  induction l with
  | nil => simp [insertEvent]
  | cons y t ih =>
    obtain ⟨d, z⟩ := y
    simp only [insertEvent]
    split
    · simp only [List.mem_cons, ih]; exact or_left_comm
    · simp only [List.mem_cons]

theorem mem_insertBefore (p : Instr → Bool) (l : List (Nat × Instr)) (due : Nat) (e : Instr) (x : Nat × Instr) :
    x ∈ insertBefore p l due e ↔ x = (due, e) ∨ x ∈ l := by
  induction l with
  | nil => simp [insertBefore]
  | cons y t ih =>
    obtain ⟨d, z⟩ := y
    simp only [insertBefore]
    split
    · simp only [List.mem_cons, ih]; exact or_left_comm
    · simp only [List.mem_cons]

/-! Memory (the canonical form of Ops). -/

theorem memWfFrom_weaken {lo : Nat} {m : List Host.Cell} : ∀ {o : Option Nat}, memWfFrom (some lo) m = true →
    (∀ b, o = some b → b ≤ lo) → memWfFrom o m = true := by
  intro o h hb
  cases m with
  | nil => rfl
  | cons c t =>
    obtain ⟨a, v⟩ := c
    simp only [memWfFrom, Bool.and_eq_true, decide_eq_true_eq] at h ⊢
    refine ⟨⟨?_, h.1.2⟩, h.2⟩
    cases o with
    | none => trivial
    | some b => have := hb b rfl; simp only [decide_eq_true_eq]; omega

theorem memSet_wfFrom (m : List Host.Cell) (a : Nat) (v : BitVec 8) : ∀ o : Option Nat, memWfFrom o m = true →
    (∀ b, o = some b → b < a) → memWfFrom o (memSet m a v) = true := by
  induction m with
  | nil =>
    intro o _ hb
    by_cases hv : v = 0
    · rw [memSet, if_pos hv]; rfl
    · rw [memSet, if_neg hv]
      simp only [memWfFrom, Bool.and_eq_true, bne_iff_ne]
      refine ⟨⟨?_, hv⟩, trivial⟩
      cases o with
      | none => trivial
      | some b => simpa using hb b rfl
  | cons c t ih =>
    obtain ⟨b, w⟩ := c
    intro o h hb
    have hh := h
    simp only [memWfFrom, Bool.and_eq_true] at h
    simp only [memSet]
    by_cases h1 : a < b
    · rw [if_pos h1]
      by_cases hv : v = 0
      · rw [if_pos hv]; exact hh
      · rw [if_neg hv]
        simp only [memWfFrom, Bool.and_eq_true, decide_eq_true_eq, bne_iff_ne]
        refine ⟨⟨?_, hv⟩, ⟨h1, by simpa using h.1.2⟩, h.2⟩
        cases o with
        | none => trivial
        | some x => simpa using hb x rfl
    · rw [if_neg h1]
      by_cases h2 : b = a
      · subst h2
        rw [if_pos rfl]
        by_cases hv : v = 0
        · rw [if_pos hv]
          exact memWfFrom_weaken h.2 (fun x hx => Nat.le_of_lt (hb x hx))
        · rw [if_neg hv]
          simp only [memWfFrom, Bool.and_eq_true, bne_iff_ne]
          exact ⟨⟨h.1.1, hv⟩, h.2⟩
      · rw [if_neg h2]
        simp only [memWfFrom, Bool.and_eq_true]
        exact ⟨h.1, ih (some b) h.2 (fun x hx => by cases hx; omega)⟩

/-- A byte written keeps the canonical form. -/
theorem memSet_wf {m : List Host.Cell} (a : Nat) (v : BitVec 8) (h : Memory.wf m = true) : Memory.wf (memSet m a v) = true :=
  memSet_wfFrom m a v none h (fun _ h => by cases h)

/-- Bytes written keep the canonical form. -/
theorem memPut_wf (xs : List (BitVec 8)) : ∀ (m : List Host.Cell) (a : Nat), Memory.wf m = true →
    Memory.wf (memPut m a xs) = true := by
  induction xs with
  | nil => intro m a h; exact h
  | cons x t ih => intro m a h; exact ih _ _ (memSet_wf a x h)

theorem memWfFrom_filter (p : Host.Cell → Bool) (m : List Host.Cell) : ∀ o : Option Nat, memWfFrom o m = true →
    memWfFrom o (m.filter p) = true := by
  induction m with
  | nil => intro o h; exact h
  | cons c t ih =>
    obtain ⟨b, w⟩ := c
    intro o h
    simp only [memWfFrom, Bool.and_eq_true] at h
    rw [List.filter_cons]
    split
    · simp only [memWfFrom, Bool.and_eq_true]
      exact ⟨h.1, ih _ h.2⟩
    · refine ih o (memWfFrom_weaken h.2 ?_)
      rintro x rfl
      have := h.1.1
      simp only [decide_eq_true_eq] at this
      omega

/-- Bytes removed keep the canonical form. -/
theorem filter_wf (p : Host.Cell → Bool) {m : List Host.Cell} (h : Memory.wf m = true) : Memory.wf (m.filter p) = true :=
  memWfFrom_filter p m none h

theorem memGet_below {m : List Host.Cell} : ∀ {lo a : Nat}, memWfFrom (some lo) m = true → a ≤ lo → memGet m a = 0 := by
  induction m with
  | nil => intros; rfl
  | cons c t ih =>
    obtain ⟨b, w⟩ := c
    intro lo a h ha
    simp only [memWfFrom, Bool.and_eq_true, decide_eq_true_eq] at h
    rw [memGet, if_neg (by omega)]
    exact ih h.2 (by omega)

theorem memGet_memSet_from (m : List Host.Cell) (a j : Nat) (v : BitVec 8) : ∀ o : Option Nat, memWfFrom o m = true →
    memGet (memSet m a v) j = if a = j then v else memGet m j := by
  induction m with
  | nil =>
    intro o _
    simp only [memSet]
    by_cases hv : v = 0
    · rw [if_pos hv]; simp [hv, memGet]
    · rw [if_neg hv]; rfl
  | cons c t ih =>
    obtain ⟨b, w⟩ := c
    intro o h
    have hh := h
    simp only [memWfFrom, Bool.and_eq_true] at h
    simp only [memSet]
    by_cases h1 : a < b
    · rw [if_pos h1]
      by_cases hv : v = 0
      · rw [if_pos hv]
        by_cases hj : a = j
        · subst hj; rw [if_pos rfl, hv, memGet, if_neg (by omega)]; exact memGet_below h.2 (by omega)
        · rw [if_neg hj]
      · rw [if_neg hv]; rfl
    · rw [if_neg h1]
      by_cases h2 : b = a
      · subst h2
        rw [if_pos rfl]
        by_cases hv : v = 0
        · rw [if_pos hv]
          by_cases hj : b = j
          · subst hj; rw [if_pos rfl, hv]; exact memGet_below h.2 (Nat.le_refl _)
          · rw [if_neg hj, memGet, if_neg hj]
        · rw [if_neg hv]; simp only [memGet]; split <;> rfl
      · rw [if_neg h2]; simp only [memGet]
        by_cases hj : b = j
        · rw [if_pos hj, if_pos hj, if_neg (by omega)]
        · rw [if_neg hj, if_neg hj]; exact ih (some b) h.2

/-- A read after a write of one byte. -/
theorem memGet_memSet {m : List Host.Cell} (a j : Nat) (v : BitVec 8) (h : Memory.wf m = true) :
    memGet (memSet m a v) j = if a = j then v else memGet m j := memGet_memSet_from m a j v none h

/-- A read outside bytes written. -/
theorem memGet_memPut_out (xs : List (BitVec 8)) : ∀ (m : List Host.Cell) (a j : Nat), Memory.wf m = true →
    (j < a ∨ a + xs.length ≤ j) → memGet (memPut m a xs) j = memGet m j := by
  induction xs with
  | nil => intros; rfl
  | cons x t ih =>
    intro m a j h hj
    simp only [List.length_cons] at hj
    rw [memPut, ih _ _ _ (memSet_wf a x h) (by omega), memGet_memSet _ _ _ h, if_neg (by omega)]

end Sys2Proof.Machine
end

