-- ==== Sys2Proof/Laws/Issue.lean ====
section
/-! SUPPORT. The shared frames in which a meaning runs: what `send`, `issued`, `complete1`, `plain` and `control` can do. -/

namespace Sys2Proof.Machine

/-! `Keeps`, a relation that composes. -/

theorem SameGroup.refl (g : Group) : SameGroup g g := rfl

theorem SameGroup.trans {a b c : Group} (h : SameGroup a b) (h' : SameGroup b c) : SameGroup a c := by
  unfold SameGroup at *; rw [h', h]

theorem Keeps.refl (k : Nat) (s : State) : Keeps k s s :=
  ⟨rfl, fun _ _ => rfl, rfl, fun _ _ => rfl, fun _ h => h, Nat.le_refl _, fun _ _ => Iff.rfl⟩

theorem Keeps.trans {k : Nat} {a b c : State} (h : Keeps k a b) (h' : Keeps k b c) : Keeps k a c where
  rest := by rw [h'.rest, h.rest]
  others j hj := (h'.others j hj).trans (h.others j hj)
  own := h.own.trans h'.own
  results i hi := (h'.results i (Nat.lt_of_lt_of_le hi h.ids)).trans (h.results i hi)
  agenda e he := h'.agenda e (h.agenda e he)
  ids := Nat.le_trans h.ids h'.ids
  bad e he := (h'.bad e he).trans (h.bad e he)

/-- A change of the group's bookkeeping. -/
theorem keeps_modGroup (s : State) (k : Nat) (f : Group → Group) (h : SameGroup (group s k) (f (group s k))) :
    Keeps k s (modGroup s k f) where
  rest := rfl
  others j hj := mfind_mmod_ne s.groups f (fun e => hj e.symm)
  own := by rw [group_modGroup]; exact h
  results _ _ := rfl
  agenda _ h := h
  ids := Nat.le_refl _
  bad _ _ := Iff.rfl

theorem keeps_modBlock (s : State) (k b : Nat) (f : Block → Block) : Keeps k s (modBlock s b f) :=
  ⟨rfl, fun _ _ => rfl, rfl, fun _ _ => rfl, fun _ h => h, Nat.le_refl _, fun _ _ => Iff.rfl⟩

theorem keeps_drawn (s : State) (k o n : Nat) : Keeps k s (drawn s o n) :=
  ⟨rfl, fun _ _ => rfl, rfl, fun _ _ => rfl, fun _ h => h, Nat.le_refl _, fun _ _ => Iff.rfl⟩

theorem keeps_pfx (s : State) (k : Nat) (p : Option Prefix) : Keeps k s { s with pfx := p } :=
  ⟨rfl, fun _ _ => rfl, rfl, fun _ _ => rfl, fun _ h => h, Nat.le_refl _, fun _ _ => Iff.rfl⟩

theorem keeps_postResult (s : State) (k : Nat) (r : Result) : Keeps k s (postResult s r) where
  rest := rfl
  others _ _ := rfl
  own := rfl
  results i hi := mfind_mset_ne _ _ (by omega)
  agenda e he := (mem_insertEvent _ _ _ _).2 (Or.inr he)
  ids := Nat.le_succ _
  bad _ _ := Iff.rfl

/-- A pop moves the errors in a queue's entries and no other. -/
theorem keeps_popBad (s : State) (k b q : Nat) : Keeps k s (popBad s b q) := by
  unfold popBad; split
  · exact Keeps.refl ..
  · refine ⟨rfl, fun _ _ => rfl, rfl, fun _ _ => rfl, fun _ h => h, Nat.le_refl _, fun e he => ?_⟩
    obtain ⟨g, p⟩ := e
    simp only [List.mem_filterMap] at *
    constructor
    · rintro ⟨⟨g', p'⟩, hm, hp⟩
      split at hp
      · split at hp
        · cases hp
        · cases hp; simp only [badQueue] at *; omega
      · cases hp; exact hm
    · intro hm
      refine ⟨(g, p), hm, ?_⟩
      split
      · simp only [badQueue] at *; omega
      · rfl

theorem keeps_takeScalar (s : State) (c : Ctx) (k n : Nat) : Keeps k s (takeScalar s c n).2 := by
  unfold takeScalar; split
  · exact (keeps_modBlock ..).trans (keeps_popBad ..)
  · exact Keeps.refl ..

theorem keeps_giveScalar (s : State) (c : Ctx) (k n : Nat) (x : BitVec 64) : Keeps k s (giveScalar s c n x).2 := by
  unfold giveScalar; split
  · exact keeps_modBlock ..
  · exact Keeps.refl ..

theorem keeps_send (s : State) (c : Ctx) (turn : Nat) (ws : List RegWrite) (fl : List (Nat × BitVec 5)) (held : Bool) :
    Keeps c.k s (send s c turn ws fl held) := by
  unfold send; split
  · exact Keeps.refl ..
  · split
    · exact keeps_modGroup _ _ _ rfl
    · exact keeps_postResult ..

/-- `send` changes no block. -/
@[simp] theorem send_blocks (s : State) (c : Ctx) (turn : Nat) (ws : List RegWrite) (fl : List (Nat × BitVec 5)) (held : Bool) :
    (send s c turn ws fl held).blocks = s.blocks := by
  unfold send; split
  · rfl
  · split <;> rfl

theorem sameGroup_modFrag (g : Group) (f : Nat) (u : Frag → Frag) : SameGroup g (modFrag g f u) := rfl

theorem sameGroup_latchReuse (i : Instr) (h : Hdr) (g : Group) : SameGroup g (latchReuse i h g) := by
  unfold latchReuse; split
  · split <;> rfl
  · rfl

/-! Reconvergence changes fragments, entries and the loop only. -/

/-- The groups differ in fragments, entries, the running fragment and the loop at most. -/
def Regroups (g g' : Group) : Prop :=
  g' = { g with frags := g'.frags, running := g'.running, stack := g'.stack, loop := g'.loop }

theorem Regroups.refl (g : Group) : Regroups g g := rfl
theorem Regroups.trans {a b c : Group} (h : Regroups a b) (h' : Regroups b c) : Regroups a c := by
  unfold Regroups at *; rw [h', h]
theorem Regroups.same {g g' : Group} (h : Regroups g g') : SameGroup g g' := by unfold Regroups at h; rw [h]; rfl

theorem regroups_foldl {α : Type} (f : Group → α → Group) (h : ∀ g a, Regroups g (f g a)) (l : List α) :
    ∀ g, Regroups g (l.foldl f g) := by
  induction l with
  | nil => intro g; rfl
  | cons a t ih => intro g; exact (h g a).trans (ih _)

theorem regroups_parkOne (g : Group) (f : Frag) : Regroups g (parkOne g f) := by
  unfold parkOne; split
  · dsimp only; split
    · rfl
    · split <;> rfl
  · rfl

theorem regroups_joinOne (g : Group) (f : Frag) : Regroups g (joinOne g f) := by
  unfold joinOne; split
  · split
    · rfl
    · split <;> rfl
  · rfl

theorem regroups_leaveBehind (g : Group) (f : Frag) : Regroups g (leaveBehind g f) := by
  unfold leaveBehind; split <;> rfl

theorem regroups_popOne (g : Group) : Regroups g (popOne g) := by
  unfold popOne; dsimp only; split
  · rfl
  · refine Regroups.trans ?_ (regroups_foldl _ regroups_leaveBehind _ _); rfl

theorem regroups_settleN (n : Nat) : ∀ g, Regroups g (settleN n g) := by
  induction n with
  | zero => intro g; rfl
  | succ n ih =>
    intro g
    refine Regroups.trans ?_ (ih _)
    refine Regroups.trans ?_ (regroups_popOne _)
    refine Regroups.trans ?_ (regroups_foldl _ regroups_parkOne _ _)
    refine Regroups.trans ?_ (regroups_foldl _ regroups_joinOne _ _)
    rfl

/-- Reconvergence changes fragments and entries only. -/
theorem regroups_settle (g : Group) : Regroups g (settle g) := regroups_settleN 17 g

theorem regroups_trimLoop (g : Group) : Regroups g (trimLoop g) := by unfold trimLoop; split <;> rfl

theorem sameGroup_settle (g : Group) : SameGroup g (settle g) := (regroups_settle g).same
theorem sameGroup_trimLoop (g : Group) : SameGroup g (trimLoop g) := (regroups_trimLoop g).same

theorem Regroups.nextTurn {g g' : Group} (h : Regroups g g') : g'.nextTurn = g.nextTurn := by unfold Regroups at h; rw [h]
theorem Regroups.window {g g' : Group} (h : Regroups g g') : g'.window = g.window := by unfold Regroups at h; rw [h]

/-! A group of one fragment, with no entry and no loop. -/

theorem arrived_nil (g : Group) (f : Frag) (h : g.stack = []) : arrived g f = 0 := by
  have : ∀ l, topEntry g l = none := by intro l; simp [topEntry, h]
  unfold arrived; simp only [this]
  have : (lanesOf f.mask).filter (fun _ => false) = [] := by rw [List.filter_eq_nil_iff]; simp
  rw [this]; rfl

theorem popOne_nil (g : Group) (h : g.stack = []) : popOne g = g := by
  have hs : g.stack.filter (fun e => e.mask != 0) = g.stack := by rw [h]; rfl
  unfold popOne; simp only [hs]
  split
  · rfl
  · next e => rw [h] at e; simp at e

theorem settleN_straight (n : Nat) (g : Group) (f : Frag) (h1 : g.frags = [f]) (h2 : f.status = .run) (h3 : f.mask ≠ 0)
    (h4 : g.stack = []) : settleN n g = g := by
  induction n with
  | zero => rfl
  | succ n ih =>
    unfold settleN
    have hf : g.frags.filter (fun f => f.mask != 0) = g.frags := by
      rw [h1, List.filter_cons, if_pos (bne_iff_ne.2 h3)]; rfl
    simp only [hf]
    have e2 : g.frags.foldl joinOne g = g := by rw [h1]; simp [joinOne, h2]
    rw [e2]
    have e3 : g.frags.foldl parkOne g = g := by rw [h1]; simp [parkOne, h2, arrived_nil g f h4]
    rw [e3]
    rw [popOne_nil g h4]; exact ih

theorem settle_straight {g : Group} {f : Frag} (h1 : g.frags = [f]) (h2 : f.status = .run) (h3 : f.mask ≠ 0)
    (h4 : g.stack = []) : settle g = g := settleN_straight 17 g f h1 h2 h3 h4

theorem trimLoop_none {g : Group} (h : g.loop = none) : trimLoop g = g := by unfold trimLoop; rw [h]

/-- What `issued` leaves alone. -/
theorem keeps_issued (s : State) (c : Ctx) (i : Instr) (h : Hdr) : Keeps c.k s (issued s c i h) := by
  refine Keeps.trans (keeps_modGroup s c.k _ ?_) (keeps_pfx _ _ none)
  exact (sameGroup_latchReuse i h _).trans rfl

@[simp] theorem issued_pfx (s : State) (c : Ctx) (i : Instr) (h : Hdr) : (issued s c i h).pfx = none := rfl
@[simp] theorem issued_blocks (s : State) (c : Ctx) (i : Instr) (h : Hdr) : (issued s c i h).blocks = s.blocks := rfl
@[simp] theorem issued_results (s : State) (c : Ctx) (i : Instr) (h : Hdr) : (issued s c i h).results = s.results := rfl
@[simp] theorem issued_cur (s : State) (c : Ctx) (i : Instr) (h : Hdr) : (issued s c i h).cur = s.cur := rfl

/-- Nothing follows a completed instruction of a group that is not single-stepped. -/
theorem stepTrap_unstepped {s : State} {c : Ctx} (h : (group s c.k).dbgctl.getLsbD 1 = false) : stepTrap s c = s := by
  unfold stepTrap; rw [if_neg (fun e => by rw [h] at e; exact Bool.noConfusion e.1)]

theorem SameGroup.dbgctl {g g' : Group} (h : SameGroup g g') : g'.dbgctl = g.dbgctl := by
  unfold SameGroup at h; rw [h]

theorem send_pfx (s : State) (c : Ctx) (turn : Nat) (ws : List RegWrite) (fl : List (Nat × BitVec 5)) (held : Bool) :
    (send s c turn ws fl held).pfx = s.pfx := by
  unfold send; split
  · rfl
  · split <;> rfl

/-- An ordinary instruction's completion changes the group's bookkeeping and may send a loop's count. -/
theorem keeps_complete1 (s : State) (c : Ctx) (i : Instr) (h : Hdr) (u : (group s c.k).dbgctl.getLsbD 1 = false) :
    Keeps c.k s (complete1 s c i h) ∧ (complete1 s c i h).pfx = none ∧ (complete1 s c i h).blocks = s.blocks := by
  have k0 := keeps_issued s c i h
  unfold complete1
  by_cases hw : c.window = true
  · simp only [hw, if_true]
    exact ⟨k0.trans (keeps_modGroup _ _ _ rfl), rfl, rfl⟩
  · simp only [hw, Bool.false_eq_true, if_false]
    split
    · have k1 := k0.trans (keeps_modGroup (issued s c i h) c.k (fun g => modFrag g c.f.id (fun f => { f with status := .edge }))
        (sameGroup_modFrag _ _ _))
      rw [stepTrap_unstepped (by rw [k1.own.dbgctl]; exact u)]
      exact ⟨k1, rfl, rfl⟩
    · have k1 := k0.trans (keeps_send (issued s c i h) c (c.n + 1) (backEdge (issued s c i h) c).2 [] false)
      have k2 := k1.trans (keeps_modGroup _ c.k (fun g => settle (trimLoop (modFrag g c.f.id (fun f =>
        { f with pc := (backEdge (issued s c i h) c).1 })))) ((sameGroup_modFrag _ _ _).trans
        ((sameGroup_trimLoop _).trans (sameGroup_settle _))))
      rw [stepTrap_unstepped (by rw [k2.own.dbgctl]; exact u)]
      exact ⟨k2, by simp [send_pfx], by simp⟩

/-! `plain` and `control`. -/

theorem plain_go {i : Instr} {h : Hdr} {s : State} {run : Run} (g : Issues i h s) {s' : State}
    (r : run (acting i h s) s = .ok s') : plain i h s run = complete1 s' (ctx s) i h := by
  unfold plain; simp only [g.1, g.2, if_true]; unfold acting at r; rw [r]

theorem ctx_k (s : State) : (ctx s).k = s.cur.g := by unfold ctx; dsimp only; split <;> rfl
theorem ctx_n (s : State) : (ctx s).n = s.cur.turn := by unfold ctx; dsimp only; split <;> rfl

@[simp] theorem guarded_k (kd : GuardKind) (h : Hdr) (c : Ctx) : (guarded kd h c).k = c.k := by
  unfold guarded; split
  · rfl
  · split
    · rfl
    · split <;> rfl
    · rfl
@[simp] theorem guarded_n (kd : GuardKind) (h : Hdr) (c : Ctx) : (guarded kd h c).n = c.n := by
  unfold guarded; split
  · rfl
  · split
    · rfl
    · split <;> rfl
    · rfl
@[simp] theorem guarded_f (kd : GuardKind) (h : Hdr) (c : Ctx) : (guarded kd h c).f = c.f := by
  unfold guarded; split
  · rfl
  · split
    · rfl
    · split <;> rfl
    · rfl
@[simp] theorem guarded_window (kd : GuardKind) (h : Hdr) (c : Ctx) : (guarded kd h c).window = c.window := by
  unfold guarded; split
  · rfl
  · split
    · rfl
    · split <;> rfl
    · rfl

@[simp] theorem popBad_groups (s : State) (b q : Nat) : (popBad s b q).groups = s.groups := by unfold popBad; split <;> rfl
@[simp] theorem popBad_nextId (s : State) (b q : Nat) : (popBad s b q).nextId = s.nextId := by unfold popBad; split <;> rfl

@[simp] theorem takeScalar_groups (s : State) (c : Ctx) (n : Nat) : (takeScalar s c n).2.groups = s.groups := by
  unfold takeScalar; split
  · exact popBad_groups ..
  · rfl
@[simp] theorem takeScalar_nextId (s : State) (c : Ctx) (n : Nat) : (takeScalar s c n).2.nextId = s.nextId := by
  unfold takeScalar; split
  · exact popBad_nextId ..
  · rfl
@[simp] theorem giveScalar_groups (s : State) (c : Ctx) (n : Nat) (x : BitVec 64) : (giveScalar s c n x).2.groups = s.groups := by
  unfold giveScalar; split <;> rfl
@[simp] theorem giveScalar_nextId (s : State) (c : Ctx) (n : Nat) (x : BitVec 64) : (giveScalar s c n x).2.nextId = s.nextId := by
  unfold giveScalar; split <;> rfl

theorem acting_k (i : Instr) (h : Hdr) (s : State) : (acting i h s).k = s.cur.g := (guarded_k _ _ _).trans (ctx_k s)

theorem issued_window (s : State) (c : Ctx) (i : Instr) (h : Hdr) : (group (issued s c i h) c.k).window = (group s c.k).window := by
  unfold issued group modGroup; dsimp only
  rw [mget_mmod_self]; dsimp only
  show (latchReuse i h (group s c.k)).window = _
  unfold latchReuse; split
  · split <;> rfl
  · rfl

/-- What a register instruction does: its results are under way, its queues have moved, and nothing else has changed. -/
theorem plain_sends {i : Instr} {h : Hdr} {s s1 : State} {run : Run} (g : Issues i h s) (u : Unstepped s)
    (k1 : Keeps s.cur.g s s1) (g1 : s1.groups = s.groups) (e1 : s1.nextId = s.nextId)
    {turn : Nat} {ws : List RegWrite} {fl : List (Nat × BitVec 5)} {held : Bool}
    (r : run (acting i h s) s = .ok (send s1 (acting i h s) turn ws fl held)) :
    Sent s (plain i h s run) turn ws fl held ∧ (plain i h s run).blocks = s1.blocks ∧ RegisterFrame s (plain i h s run) := by
  rw [plain_go g r]
  have k2 : Keeps s.cur.g s (send s1 (acting i h s) turn ws fl held) := by
    refine k1.trans ?_
    have := keeps_send s1 (acting i h s) turn ws fl held
    rwa [acting_k] at this
  have k3 := keeps_complete1 (send s1 (acting i h s) turn ws fl held) (ctx s) i h
    (by rw [ctx_k, k2.own.dbgctl]; exact u)
  rw [ctx_k] at k3
  refine ⟨?_, ?_, k2.trans k3.1, k3.2.1⟩
  · unfold Sent; dsimp only
    have hg : group s1 (ctx s).k = group s (ctx s).k := by unfold group; rw [g1]
    have hk : (acting i h s).k = (ctx s).k := guarded_k _ _ _
    by_cases hw : (ctx s).window = true
    · rw [if_pos hw]
      have hw' : (acting i h s).window = true := (guarded_window _ _ _).trans hw
      unfold complete1; simp only [hw, if_true]
      rw [group_modGroup]; dsimp only; rw [issued_window]
      unfold send; split
      · rw [hg]; simp only [List.append_nil]
      · rw [hk, group_modGroup, hg]
        unfold shadowWrite; dsimp only
        cases (group s (ctx s).k).window <;> rfl
    · rw [if_neg hw]
      by_cases hne : ws.isEmpty = true ∧ fl.isEmpty = true
      · rw [List.isEmpty_iff, List.isEmpty_iff] at hne; exact Or.inl hne
      refine Or.inr ?_
      have hw' : ¬ (acting i h s).window = true := by unfold acting; rw [guarded_window]; exact hw
      have hs : send s1 (acting i h s) turn ws fl held =
          postResult s1 ⟨(ctx s).k, turn, ws, allFlags fl, held, (ctx s).f.id⟩ := by
        unfold send; rw [if_neg hne, if_neg hw']; unfold acting; rw [guarded_k, guarded_f]
      rw [hs] at k3 ⊢
      constructor
      · refine (k3.1.results _ (by rw [← e1]; exact Nat.lt_succ_self _)).trans ?_
        rw [← e1]; exact mfind_mset_self _ _ _
      · refine k3.1.agenda _ ?_
        rw [← e1]; exact (mem_insertEvent _ _ _ _).2 (Or.inl rfl)
  · rw [k3.2.2, send_blocks]

@[simp] theorem guarded_g (kd : GuardKind) (h : Hdr) (c : Ctx) : (guarded kd h c).g = c.g := by
  unfold guarded; split
  · rfl
  · split
    · rfl
    · split <;> rfl
    · rfl

theorem acting_n (i : Instr) (h : Hdr) (s : State) : (acting i h s).n = s.cur.turn := (guarded_n _ _ _).trans (ctx_n s)

/-- The group after `issued`. -/
theorem group_issued (s : State) (c : Ctx) (i : Instr) (h : Hdr) : group (issued s c i h) c.k =
    { latchReuse i h (group s c.k) with
      nextTurn := max (group s c.k).nextTurn (c.n + 1 + h.s.toNat + (if 32 ≤ c.f.id then 0 else trialDelay s c.k c.pc))
      lastStart := s.clock + 1, running := some c.f.id, skid := if (owner s c.o).haltOver then (group s c.k).skid else (group s c.k).skid + 1
      frags := (group s c.k).frags.map (fun f =>
        if f.id = c.f.id then { f with since := c.n, prio := false, yielded := yields i c, fetchFault := none } else { f with yielded := false }) } := by
  unfold issued group modGroup; dsimp only
  rw [mget_mmod_self]

/-- A completed instruction never brings the group's next start forward. -/
theorem nextTurn_complete1 (s : State) (c : Ctx) (i : Instr) (h : Hdr) (u : (group s c.k).dbgctl.getLsbD 1 = false) :
    (group s c.k).nextTurn ≤ (group (complete1 s c i h) c.k).nextTurn := by
  have k0 := keeps_issued s c i h
  have n0 : (group s c.k).nextTurn ≤ (group (issued s c i h) c.k).nextTurn := by rw [group_issued]; exact Nat.le_max_left _ _
  unfold complete1
  by_cases hw : c.window = true
  · simp only [hw, if_true]
    rw [group_modGroup]; exact n0
  · simp only [hw, Bool.false_eq_true, if_false]
    split
    · rw [stepTrap_unstepped]
      · rw [group_modGroup]; exact n0
      · rw [group_modGroup]
        show (group (issued s c i h) c.k).dbgctl.getLsbD 1 = false
        rw [k0.own.dbgctl]; exact u
    · have hs : group (send (issued s c i h) c (c.n + 1) (backEdge (issued s c i h) c).2 [] false) c.k = group (issued s c i h) c.k := by
        unfold send; split
        · rfl
        · first | rfl | (rw [if_neg hw]; rfl)
      rw [stepTrap_unstepped]
      · rw [group_modGroup, (regroups_settle _).nextTurn, (regroups_trimLoop _).nextTurn, hs]; exact n0
      · rw [group_modGroup, ((sameGroup_trimLoop _).trans (sameGroup_settle _)).dbgctl, hs]
        show (group (issued s c i h) c.k).dbgctl.getLsbD 1 = false
        rw [k0.own.dbgctl]; exact u

/-- An ordinary instruction whose meaning ends in `s1`: what it changes beyond `s1` is bookkeeping. -/
theorem plain_frame {i : Instr} {h : Hdr} {s s0 s1 : State} {run : Run} (g : Issues i h s) (r : run (acting i h s) s = .ok s1)
    (k : Keeps s.cur.g s0 s1) (u : (group s1 s.cur.g).dbgctl.getLsbD 1 = false) :
    Keeps s.cur.g s0 (plain i h s run) ∧ (plain i h s run).pfx = none ∧ (plain i h s run).blocks = s1.blocks ∧
      (group s1 s.cur.g).nextTurn ≤ (group (plain i h s run) s.cur.g).nextTurn := by
  rw [plain_go g r]
  have := keeps_complete1 s1 (ctx s) i h (by rw [ctx_k]; exact u)
  have nt := nextTurn_complete1 s1 (ctx s) i h (by rw [ctx_k]; exact u)
  rw [ctx_k] at this nt
  exact ⟨k.trans this.1, this.2.1, this.2.2, nt⟩

end Sys2Proof.Machine
end

