-- ==== Sys2Proof/Laws/Access.lean ====
section
/-! SUPPORT. What `beginAccess` can do for an access that no lane fails at issue. -/

namespace Sys2Proof.Machine

theorem posLen_pos (t : Nat) : 0 < posLen t := by
  unfold posLen
  repeat' split
  all_goals decide

/-- A position begins no earlier than it is asked for. -/
theorem le_nextPos (s : State) (o t clock : Nat) : clock ≤ nextPos s o t clock := by
  have hp := posLen_pos t
  unfold nextPos nextIn
  dsimp only
  split
  · next k _ =>
    have h1 : clock < ((clock + posLen t - 1) / posLen t + 1) * posLen t := by
      have := Nat.lt_div_mul_add (a := clock + posLen t - 1) hp
      rw [Nat.add_mul]; omega
    have h2 : ((clock + posLen t - 1) / posLen t) * posLen t ≤ ((clock + posLen t - 1) / posLen t + k) * posLen t :=
      Nat.mul_le_mul_right _ (Nat.le_add_right _ _)
    have h3 : clock ≤ (clock + posLen t - 1) / posLen t * posLen t := by
      have := Nat.lt_div_mul_add (a := clock + posLen t - 1) hp
      omega
    omega
  · unfold boundary
    have := Nat.lt_div_mul_add (a := clock) (b := 768) (by decide)
    omega

/-- A position of a port: its event is due after the clock asked for, and only the agenda and the claims change. -/
theorem postLsp_spec (s : State) (o core port clock : Nat) (e : Instr) :
    postLsp s o core port clock e = { s with agenda := (postLsp s o core port clock e).agenda, claims := (postLsp s o core port clock e).claims } ∧
    (∀ x, x ∈ s.agenda → x ∈ (postLsp s o core port clock e).agenda) ∧
    ∃ d, clock < d ∧ (d, e) ∈ (postLsp s o core port clock e).agenda := by
  unfold postLsp
  split
  · refine ⟨rfl, fun x hx => (mem_insertBefore _ _ _ _ _).2 (Or.inr hx), _, ?_, (mem_insertBefore _ _ _ _ _).2 (Or.inl rfl)⟩
    have := le_nextPos s o 4 (max clock (mget s.claims (claimKey o 4 (core * 2 + port))))
    show clock < claimAt s o 4 (core * 2 + port) clock + 1
    unfold claimAt; omega
  · refine ⟨rfl, fun x hx => (mem_insertEvent _ _ _ _).2 (Or.inr hx), _, ?_, (mem_insertEvent _ _ _ _).2 (Or.inl rfl)⟩
    have := le_nextPos s o 4 (max clock (mget s.claims (claimKey o 4 (core * 2 + port))))
    show clock < claimAt s o 4 (core * 2 + port) clock + posLen 4
    have := posLen_pos 4
    unfold claimAt; omega

/-- The access as its next pass is sent for: one to another core's scratchpad is on its way there (R39). -/
def underWay (s : State) (a : Access) : Access :=
  match a.passes with
  | [] => a
  | p :: _ =>
    let x := passPlace s a p
    if x.2.2 && !a.reached.contains x.1 then { a with transit := true, reached := x.1 :: a.reached } else a

theorem postPass_spec (s : State) (id clock : Nat) (h : (mfind s.accs id).isSome = true) :
    postPass s id clock = { s with accs := (postPass s id clock).accs, agenda := (postPass s id clock).agenda, claims := (postPass s id clock).claims } ∧
    mfind (postPass s id clock).accs id = some (underWay s (mget s.accs id)) ∧
    (∀ j, j ≠ id → mfind (postPass s id clock).accs j = mfind s.accs j) ∧
    (∀ x, x ∈ s.agenda → x ∈ (postPass s id clock).agenda) ∧
    ∃ d, clock ≤ d ∧ (d, Instr.lspAccess id) ∈ (postPass s id clock).agenda := by
  have hm : mfind s.accs id = some (mget s.accs id) := by
    obtain ⟨a, ha⟩ := Option.isSome_iff_exists.1 h
    rw [mget, ha]; rfl
  unfold postPass underWay
  dsimp only
  cases hp : (mget s.accs id).passes with
  | nil =>
    exact ⟨rfl, hm, fun _ _ => rfl, fun x hx => (mem_insertEvent _ _ _ _).2 (Or.inr hx), clock, Nat.le_refl _,
      (mem_insertEvent _ _ _ _).2 (Or.inl rfl)⟩
  | cons p _ =>
    dsimp only
    by_cases hb : ((passPlace s (mget s.accs id) p).2.2 && !(mget s.accs id).reached.contains (passPlace s (mget s.accs id) p).1) = true
    · rw [if_pos hb, if_pos hb]
      exact ⟨rfl, mfind_mset_self _ _ _, fun j hj => mfind_mset_ne _ _ (fun e => hj e.symm),
        fun x hx => (mem_insertEvent _ _ _ _).2 (Or.inr hx), clock + 24, Nat.le_add_right _ _, (mem_insertEvent _ _ _ _).2 (Or.inl rfl)⟩
    · rw [if_neg hb, if_neg hb]
      obtain ⟨h1, h2, d, h3, h4⟩ := postLsp_spec s (mget s.accs id).owner (passPlace s (mget s.accs id) p).1
        (passPlace s (mget s.accs id) p).2.1 clock (.lspAccess id)
      refine ⟨?_, ?_, ?_, h2, d, by omega, h4⟩
      · rw [h1]
      · rw [h1]; exact hm
      · rw [h1]; exact fun _ _ => rfl

/-- The state with an access under the next identity. -/
def held (s : State) (a : Access) : State := tick { s with accs := mset s.accs s.nextId a }

/-- A window notes that one of its loads has failed a check (R183). -/
def noteFailed (a : Access) (fs : List (Nat × Cause × BitVec 32)) (s : State) : State :=
  match a.window, fs with
  | some p, _ :: _ => modGroup s a.g (fun g => { g with window := g.window.map (fun w =>
      { w with failed := some (match w.failed with | some q => min p q | none => p) }) })
  | _, _ => s

theorem beginAccess_eq {s : State} {a b : Access} (hc : a.reqs.any (laneClobbers s a) = false)
    (hb : { a with faults := issueFaults s a } = b) :
    beginAccess s a = (
      if (lookups b).isEmpty then
        match lowestFault b (issueFaults s a) with
        | some t => if a.window.isSome then .ok (noteFailed b (issueFaults s a) s) else .error t
        | none => .ok (postPass (held s { b with checked := true, passes := passesOf s b, unperformed := lineWrites b }) s.nextId (s.clock + 1))
      else .ok (postLsp (noteFailed b (issueFaults s a) (held s { b with todo := lookups b, unperformed := lineWrites b }))
        a.owner a.coreKey a.port (s.clock + 1) (.coreTlbLookup s.nextId))) := by
  unfold beginAccess; dsimp only; rw [if_neg (by rw [hc, Bool.and_false]; exact Bool.false_ne_true)]; subst hb; rfl

/-- The access as `beginAccess` records it. -/
def recorded (s : State) (a : Access) : Access :=
  if lookups a = [] then underWay s { a with checked := true, passes := passesOf s a, unperformed := lineWrites a }
  else { a with todo := lookups a, unperformed := lineWrites a }

/-- All that `beginAccess` does where no lane fails: the access stands under the next identity, and its first lookup or
pass is due. -/
theorem beginAccess_ok {s : State} {a : Access} (hf : a.faults = [])
    (h : ∀ r, r ∈ a.reqs → issueFault s a r = none ∧ laneClobbers s a r = false) :
    ∃ t, beginAccess s a = .ok t ∧
      t = { s with accs := t.accs, claims := t.claims, agenda := t.agenda, nextId := s.nextId + 1 } ∧
      mfind t.accs s.nextId = some (recorded s a) ∧ (∀ j, j ≠ s.nextId → mfind t.accs j = mfind s.accs j) ∧
      (∀ x, x ∈ s.agenda → x ∈ t.agenda) ∧
      ∃ d, s.clock < d ∧ (d, if lookups a = [] then Instr.lspAccess s.nextId else Instr.coreTlbLookup s.nextId) ∈ t.agenda := by
  have hfs : issueFaults s a = [] := by
    unfold issueFaults
    rw [List.filterMap_eq_nil_iff]
    intro r hr; rw [(h r hr).1]; rfl
  have hc : a.reqs.any (laneClobbers s a) = false := by
    rw [List.any_eq_false]; intro r hr; rw [(h r hr).2]; exact Bool.false_ne_true
  have ha : { a with faults := issueFaults s a } = a := by rw [hfs, ← hf]
  have hh (b : Access) : mfind (held s b).accs s.nextId = some b := mfind_mset_self _ _ _
  have ho (b : Access) (j : Nat) (hj : j ≠ s.nextId) : mfind (held s b).accs j = mfind s.accs j := mfind_mset_ne _ _ (fun e => hj e.symm)
  rw [beginAccess_eq hc ha, hfs]
  by_cases hl : lookups a = []
  · rw [if_pos (show (lookups a).isEmpty = true by rw [hl]; rfl)]
    have hg := hh { a with checked := true, passes := passesOf s a, unperformed := lineWrites a }
    obtain ⟨h1, h5, h6, h2, d, h3, h4⟩ := postPass_spec (held s { a with checked := true, passes := passesOf s a, unperformed := lineWrites a })
      s.nextId (s.clock + 1) (by rw [hg]; rfl)
    refine ⟨_, rfl, ?_, ?_, fun j hj => (h6 j hj).trans (ho _ j hj), h2, d, by omega, by rw [if_pos hl]; exact h4⟩
    · rw [h1]; rfl
    · rw [h5, mget, hg]; unfold recorded; rw [if_pos hl]; rfl
  · rw [if_neg (show ¬ (lookups a).isEmpty = true by rw [List.isEmpty_iff]; exact hl)]
    have hm : ∀ x : State, noteFailed a [] x = x := by intro x; unfold noteFailed; cases a.window <;> rfl
    rw [hm]
    obtain ⟨h1, h2, d, h3, h4⟩ := postLsp_spec (held s { a with todo := lookups a, unperformed := lineWrites a })
      a.owner a.coreKey a.port (s.clock + 1) (.coreTlbLookup s.nextId)
    refine ⟨_, rfl, ?_, ?_, ?_, h2, d, by omega, by rw [if_neg hl]; exact h4⟩
    · rw [h1]; rfl
    · rw [h1]; unfold recorded; rw [if_neg hl]; exact hh _
    · rw [h1]; exact ho _

/-- What changed but for the access is nothing. -/
theorem beginAccess_keeps {s t : State} (k : Nat)
    (h : t = { s with accs := t.accs, claims := t.claims, agenda := t.agenda, nextId := s.nextId + 1 })
    (ha : ∀ x, x ∈ s.agenda → x ∈ t.agenda) : Keeps k { s with accs := t.accs, claims := t.claims } t where
  rest := by rw [h]
  others j _ := by rw [h]
  own := by rw [h]; rfl
  results i _ := by rw [h]
  agenda := ha
  ids := by rw [h]; exact Nat.le_succ _
  bad _ _ := by rw [h]

end Sys2Proof.Machine
end

