-- ==== Sys2Proof/Laws/PerInstr.lean ====
section
/-! SUPPORT. The family `Encoding`: every instruction of the opcode table decodes from its own words, and an event row has
no words. -/

namespace Sys2Proof.Laws.Encoding

/-- A well-formed encoded instruction decodes from its words; an event has none. -/
def Statement (i : Instr) : Prop := WellFormed i = true → decode (encode i) = .ok i ∨ encode i = []

theorem word_ne {w : Nat} (h : w < 2 ^ 16) (z : half w ≠ [0#16]) : w ≠ 0 := by
  rintro rfl; exact z rfl

theorem decode_halves {w : Nat} (h : w < 2 ^ 32) (odd : w % 2 = 1) : decode (halves w) = decode32 w := by
  have e : (BitVec.ofNat 16 w).toNat + 65536 * (BitVec.ofNat 16 (w / 65536)).toNat = w := by
    simp only [BitVec.toNat_ofNat]; omega
  have o : ¬ (BitVec.ofNat 16 w).toNat % 2 = 0 := by simp only [BitVec.toNat_ofNat]; omega
  simp only [halves, decode, if_neg o, e]

theorem decode_half {w : Nat} (h : w < 2 ^ 16) (even : w % 2 = 0) : decode (half w) = decode16 w := by
  have e : (BitVec.ofNat 16 w).toNat = w := by simp only [BitVec.toNat_ofNat]; omega
  simp only [half, decode, e, if_pos even]

theorem fld_eq {n : Nat} (lo w : Nat) (x : BitVec n) (h : w / 2 ^ lo % 2 ^ n = x.toNat) : fld n lo w = x := by
  apply BitVec.eq_of_toNat_eq; simp [fld, h]

theorem hdr_eq (w : Nat) (h : Hdr) (h0 : w / 2 ^ 4 % 2 ^ 3 = h.g.toNat) (h1 : w / 2 ^ 3 % 2 ^ 1 = h.y.toNat)
    (h2 : w / 2 ^ 1 % 2 ^ 2 = h.s.toNat) : hdrOf w = h := by
  simp only [hdrOf, fld_eq _ _ _ h0, fld_eq _ _ _ h1, fld_eq _ _ _ h2]

theorem word0 (h : Hdr) (m : Nat) (x0 : BitVec 18) (hm : m < 127) {w : Nat} (e : put 14 x0 (hdrBits h m 0) = w) :
    w < 2 ^ 32 ∧ w % 2 = 1 ∧ (w == 0xFFFFFFFF) = false ∧ w / 128 % 128 = m ∧ hdrOf w = h ∧ fld 18 14 w = x0 := by
  have := x0.isLt; have := h.g.isLt; have := h.y.isLt; have := h.s.isLt
  simp only [put, hdrBits] at e
  exact ⟨by omega, by omega, by simp; omega, by omega, hdr_eq _ _ (by omega) (by omega) (by omega), fld_eq _ _ _ (by omega)⟩

theorem word1 (h : Hdr) (m : Nat) (x0 : BitVec 6) (hm : m < 127) {w : Nat} (e : put 14 x0 (hdrBits h m 0) = w) :
    w < 2 ^ 32 ∧ w % 2 = 1 ∧ (w == 0xFFFFFFFF) = false ∧ w / 128 % 128 = m ∧ hdrOf w = h ∧ fixed 20 12 0 w = true ∧ fld 6 14 w = x0 := by
  have := x0.isLt; have := h.g.isLt; have := h.y.isLt; have := h.s.isLt
  simp only [put, hdrBits] at e
  exact ⟨by omega, by omega, by simp; omega, by omega, hdr_eq _ _ (by omega) (by omega) (by omega), by simp only [fixed, beq_iff_eq]; omega, fld_eq _ _ _ (by omega)⟩

theorem word2 (h : Hdr) (m : Nat)  (hm : m < 127) {w : Nat} (e : hdrBits h m 0 = w) :
    w < 2 ^ 32 ∧ w % 2 = 1 ∧ (w == 0xFFFFFFFF) = false ∧ w / 128 % 128 = m ∧ hdrOf w = h ∧ fixed 14 18 0 w = true := by
  have := h.g.isLt; have := h.y.isLt; have := h.s.isLt
  simp only [put, hdrBits] at e
  exact ⟨by omega, by omega, by simp; omega, by omega, hdr_eq _ _ (by omega) (by omega) (by omega), by simp only [fixed, beq_iff_eq]; omega⟩

theorem word3 (h : Hdr) (m : Nat) (x0 : BitVec 12) (x1 : BitVec 4) (hm : m < 127) {w : Nat} (e : put 20 x0 (put 14 x1 (hdrBits h m 0)) = w) :
    w < 2 ^ 32 ∧ w % 2 = 1 ∧ (w == 0xFFFFFFFF) = false ∧ w / 128 % 128 = m ∧ hdrOf w = h ∧ fixed 18 2 0 w = true ∧ fld 12 20 w = x0 ∧ fld 4 14 w = x1 := by
  have := x0.isLt; have := x1.isLt; have := h.g.isLt; have := h.y.isLt; have := h.s.isLt
  simp only [put, hdrBits] at e
  exact ⟨by omega, by omega, by simp; omega, by omega, hdr_eq _ _ (by omega) (by omega) (by omega), by simp only [fixed, beq_iff_eq]; omega, fld_eq _ _ _ (by omega), fld_eq _ _ _ (by omega)⟩

theorem word4 (h : Hdr) (m : Nat) (x0 : BitVec 12) (x1 : BitVec 6) (hm : m < 127) {w : Nat} (e : put 20 x0 (put 14 x1 (hdrBits h m 0)) = w) :
    w < 2 ^ 32 ∧ w % 2 = 1 ∧ (w == 0xFFFFFFFF) = false ∧ w / 128 % 128 = m ∧ hdrOf w = h ∧ fld 12 20 w = x0 ∧ fld 6 14 w = x1 := by
  have := x0.isLt; have := x1.isLt; have := h.g.isLt; have := h.y.isLt; have := h.s.isLt
  simp only [put, hdrBits] at e
  exact ⟨by omega, by omega, by simp; omega, by omega, hdr_eq _ _ (by omega) (by omega) (by omega), fld_eq _ _ _ (by omega), fld_eq _ _ _ (by omega)⟩

theorem word5 (h : Hdr) (m : Nat) (x0 : BitVec 12) (hm : m < 127) {w : Nat} (e : put 20 x0 (hdrBits h m 0) = w) :
    w < 2 ^ 32 ∧ w % 2 = 1 ∧ (w == 0xFFFFFFFF) = false ∧ w / 128 % 128 = m ∧ hdrOf w = h ∧ fixed 14 6 0 w = true ∧ fld 12 20 w = x0 := by
  have := x0.isLt; have := h.g.isLt; have := h.y.isLt; have := h.s.isLt
  simp only [put, hdrBits] at e
  exact ⟨by omega, by omega, by simp; omega, by omega, hdr_eq _ _ (by omega) (by omega) (by omega), by simp only [fixed, beq_iff_eq]; omega, fld_eq _ _ _ (by omega)⟩

theorem word6 (h : Hdr) (m : Nat) (x0 : BitVec 6) (x1 : BitVec 6) (x2 : BitVec 6) (hm : m < 127) {w : Nat} (e : put 26 x0 (put 20 x1 (put 14 x2 (hdrBits h m 0))) = w) :
    w < 2 ^ 32 ∧ w % 2 = 1 ∧ (w == 0xFFFFFFFF) = false ∧ w / 128 % 128 = m ∧ hdrOf w = h ∧ fld 6 26 w = x0 ∧ fld 6 20 w = x1 ∧ fld 6 14 w = x2 := by
  have := x0.isLt; have := x1.isLt; have := x2.isLt; have := h.g.isLt; have := h.y.isLt; have := h.s.isLt
  simp only [put, hdrBits] at e
  exact ⟨by omega, by omega, by simp; omega, by omega, hdr_eq _ _ (by omega) (by omega) (by omega), fld_eq _ _ _ (by omega), fld_eq _ _ _ (by omega), fld_eq _ _ _ (by omega)⟩

theorem word7 (h : Hdr) (m : Nat) (x0 : BitVec 6) (x1 : BitVec 6) (x2 : BitVec 3) (x3 : BitVec 3) (hm : m < 127) {w : Nat} (e : put 26 x0 (put 20 x1 (put 17 x2 (put 14 x3 (hdrBits h m 0)))) = w) :
    w < 2 ^ 32 ∧ w % 2 = 1 ∧ (w == 0xFFFFFFFF) = false ∧ w / 128 % 128 = m ∧ hdrOf w = h ∧ fld 6 26 w = x0 ∧ fld 6 20 w = x1 ∧ fld 3 17 w = x2 ∧ fld 3 14 w = x3 := by
  have := x0.isLt; have := x1.isLt; have := x2.isLt; have := x3.isLt; have := h.g.isLt; have := h.y.isLt; have := h.s.isLt
  simp only [put, hdrBits] at e
  exact ⟨by omega, by omega, by simp; omega, by omega, hdr_eq _ _ (by omega) (by omega) (by omega), fld_eq _ _ _ (by omega), fld_eq _ _ _ (by omega), fld_eq _ _ _ (by omega), fld_eq _ _ _ (by omega)⟩

theorem word8 (h : Hdr) (m : Nat) (x0 : BitVec 6) (x1 : BitVec 6) (hm : m < 127) {w : Nat} (e : put 20 x0 (put 14 x1 (hdrBits h m 0)) = w) :
    w < 2 ^ 32 ∧ w % 2 = 1 ∧ (w == 0xFFFFFFFF) = false ∧ w / 128 % 128 = m ∧ hdrOf w = h ∧ fixed 26 6 0 w = true ∧ fld 6 20 w = x0 ∧ fld 6 14 w = x1 := by
  have := x0.isLt; have := x1.isLt; have := h.g.isLt; have := h.y.isLt; have := h.s.isLt
  simp only [put, hdrBits] at e
  exact ⟨by omega, by omega, by simp; omega, by omega, hdr_eq _ _ (by omega) (by omega) (by omega), by simp only [fixed, beq_iff_eq]; omega, fld_eq _ _ _ (by omega), fld_eq _ _ _ (by omega)⟩

theorem word9 (h : Hdr) (m : Nat) (x0 : BitVec 3) (x1 : BitVec 3) (x2 : BitVec 3) (x3 : BitVec 3) (hm : m < 127) {w : Nat} (e : put 23 x0 (put 20 x1 (put 17 x2 (put 14 x3 (hdrBits h m 0)))) = w) :
    w < 2 ^ 32 ∧ w % 2 = 1 ∧ (w == 0xFFFFFFFF) = false ∧ w / 128 % 128 = m ∧ hdrOf w = h ∧ fixed 26 6 0 w = true ∧ fld 3 23 w = x0 ∧ fld 3 20 w = x1 ∧ fld 3 17 w = x2 ∧ fld 3 14 w = x3 := by
  have := x0.isLt; have := x1.isLt; have := x2.isLt; have := x3.isLt; have := h.g.isLt; have := h.y.isLt; have := h.s.isLt
  simp only [put, hdrBits] at e
  exact ⟨by omega, by omega, by simp; omega, by omega, hdr_eq _ _ (by omega) (by omega) (by omega), by simp only [fixed, beq_iff_eq]; omega, fld_eq _ _ _ (by omega), fld_eq _ _ _ (by omega), fld_eq _ _ _ (by omega), fld_eq _ _ _ (by omega)⟩

theorem word10 (h : Hdr) (m : Nat) (x0 : BitVec 3) (x1 : BitVec 3) (x2 : BitVec 6) (hm : m < 127) {w : Nat} (e : put 29 x0 (put 26 x1 (put 14 x2 (hdrBits h m 0))) = w) :
    w < 2 ^ 32 ∧ w % 2 = 1 ∧ (w == 0xFFFFFFFF) = false ∧ w / 128 % 128 = m ∧ hdrOf w = h ∧ fixed 20 6 0 w = true ∧ fld 3 29 w = x0 ∧ fld 3 26 w = x1 ∧ fld 6 14 w = x2 := by
  have := x0.isLt; have := x1.isLt; have := x2.isLt; have := h.g.isLt; have := h.y.isLt; have := h.s.isLt
  simp only [put, hdrBits] at e
  exact ⟨by omega, by omega, by simp; omega, by omega, hdr_eq _ _ (by omega) (by omega) (by omega), by simp only [fixed, beq_iff_eq]; omega, fld_eq _ _ _ (by omega), fld_eq _ _ _ (by omega), fld_eq _ _ _ (by omega)⟩

theorem word11 (h : Hdr) (m : Nat) (x0 : BitVec 3) (x1 : BitVec 3) (x2 : BitVec 6) (x3 : BitVec 6) (hm : m < 127) {w : Nat} (e : put 29 x0 (put 26 x1 (put 20 x2 (put 14 x3 (hdrBits h m 0)))) = w) :
    w < 2 ^ 32 ∧ w % 2 = 1 ∧ (w == 0xFFFFFFFF) = false ∧ w / 128 % 128 = m ∧ hdrOf w = h ∧ fld 3 29 w = x0 ∧ fld 3 26 w = x1 ∧ fld 6 20 w = x2 ∧ fld 6 14 w = x3 := by
  have := x0.isLt; have := x1.isLt; have := x2.isLt; have := x3.isLt; have := h.g.isLt; have := h.y.isLt; have := h.s.isLt
  simp only [put, hdrBits] at e
  exact ⟨by omega, by omega, by simp; omega, by omega, hdr_eq _ _ (by omega) (by omega) (by omega), fld_eq _ _ _ (by omega), fld_eq _ _ _ (by omega), fld_eq _ _ _ (by omega), fld_eq _ _ _ (by omega)⟩

theorem word12 (h : Hdr) (m : Nat) (x0 : BitVec 2) (x1 : BitVec 4) (hm : m < 127) {w : Nat} (e : put 18 x0 (put 14 x1 (hdrBits h m 0)) = w) :
    w < 2 ^ 32 ∧ w % 2 = 1 ∧ (w == 0xFFFFFFFF) = false ∧ w / 128 % 128 = m ∧ hdrOf w = h ∧ fixed 20 12 0 w = true ∧ fld 2 18 w = x0 ∧ fld 4 14 w = x1 := by
  have := x0.isLt; have := x1.isLt; have := h.g.isLt; have := h.y.isLt; have := h.s.isLt
  simp only [put, hdrBits] at e
  exact ⟨by omega, by omega, by simp; omega, by omega, hdr_eq _ _ (by omega) (by omega) (by omega), by simp only [fixed, beq_iff_eq]; omega, fld_eq _ _ _ (by omega), fld_eq _ _ _ (by omega)⟩

theorem word13 (h : Hdr) (m : Nat) (x0 : BitVec 1) (x1 : BitVec 4) (x2 : BitVec 6) (hm : m < 127) {w : Nat} (e : put 30 x0 (put 26 x1 (put 20 x2 (hdrBits h m 0))) = w) :
    w < 2 ^ 32 ∧ w % 2 = 1 ∧ (w == 0xFFFFFFFF) = false ∧ w / 128 % 128 = m ∧ hdrOf w = h ∧ fixed 14 6 0 w = true ∧ fixed 31 1 0 w = true ∧ fld 1 30 w = x0 ∧ fld 4 26 w = x1 ∧ fld 6 20 w = x2 := by
  have := x0.isLt; have := x1.isLt; have := x2.isLt; have := h.g.isLt; have := h.y.isLt; have := h.s.isLt
  simp only [put, hdrBits] at e
  exact ⟨by omega, by omega, by simp; omega, by omega, hdr_eq _ _ (by omega) (by omega) (by omega), by simp only [fixed, beq_iff_eq]; omega, by simp only [fixed, beq_iff_eq]; omega, fld_eq _ _ _ (by omega), fld_eq _ _ _ (by omega), fld_eq _ _ _ (by omega)⟩

theorem word14 (h : Hdr) (m : Nat) (x0 : BitVec 4) (x1 : BitVec 6) (hm : m < 127) {w : Nat} (e : put 26 x0 (put 20 x1 (hdrBits h m 0)) = w) :
    w < 2 ^ 32 ∧ w % 2 = 1 ∧ (w == 0xFFFFFFFF) = false ∧ w / 128 % 128 = m ∧ hdrOf w = h ∧ fixed 14 6 0 w = true ∧ fixed 30 2 0 w = true ∧ fld 4 26 w = x0 ∧ fld 6 20 w = x1 := by
  have := x0.isLt; have := x1.isLt; have := h.g.isLt; have := h.y.isLt; have := h.s.isLt
  simp only [put, hdrBits] at e
  exact ⟨by omega, by omega, by simp; omega, by omega, hdr_eq _ _ (by omega) (by omega) (by omega), by simp only [fixed, beq_iff_eq]; omega, by simp only [fixed, beq_iff_eq]; omega, fld_eq _ _ _ (by omega), fld_eq _ _ _ (by omega)⟩

theorem word15 (h : Hdr) (m : Nat) (k : Nat) (x0 : BitVec 6) (x1 : BitVec 6) (hm : m < 128) (hk : k < 7) {w : Nat} (e : put 20 x0 (put 14 x1 (hdrBits h m (2 ^ 29 * k))) = w) :
    w < 2 ^ 32 ∧ w % 2 = 1 ∧ (w == 0xFFFFFFFF) = false ∧ w / 128 % 128 = m ∧ hdrOf w = h ∧ w / 2 ^ 29 % 8 = k ∧ fixed 26 3 0 w = true ∧ fld 6 20 w = x0 ∧ fld 6 14 w = x1 := by
  have := x0.isLt; have := x1.isLt; have := h.g.isLt; have := h.y.isLt; have := h.s.isLt
  simp only [put, hdrBits] at e
  exact ⟨by omega, by omega, by simp; omega, by omega, hdr_eq _ _ (by omega) (by omega) (by omega), by omega, by simp only [fixed, beq_iff_eq]; omega, fld_eq _ _ _ (by omega), fld_eq _ _ _ (by omega)⟩

theorem word16 (h : Hdr) (m : Nat) (k : Nat) (x0 : BitVec 6) (hm : m < 128) (hk : k < 7) {w : Nat} (e : put 20 x0 (hdrBits h m (2 ^ 29 * k)) = w) :
    w < 2 ^ 32 ∧ w % 2 = 1 ∧ (w == 0xFFFFFFFF) = false ∧ w / 128 % 128 = m ∧ hdrOf w = h ∧ w / 2 ^ 29 % 8 = k ∧ fixed 14 6 0 w = true ∧ fixed 26 3 0 w = true ∧ fld 6 20 w = x0 := by
  have := x0.isLt; have := h.g.isLt; have := h.y.isLt; have := h.s.isLt
  simp only [put, hdrBits] at e
  exact ⟨by omega, by omega, by simp; omega, by omega, hdr_eq _ _ (by omega) (by omega) (by omega), by omega, by simp only [fixed, beq_iff_eq]; omega, by simp only [fixed, beq_iff_eq]; omega, fld_eq _ _ _ (by omega)⟩

theorem word17 (h : Hdr) (m : Nat) (k : Nat) (x0 : BitVec 6) (hm : m < 128) (hk : k < 63) {w : Nat} (e : put 20 x0 (hdrBits h m (2 ^ 26 * k)) = w) :
    w < 2 ^ 32 ∧ w % 2 = 1 ∧ (w == 0xFFFFFFFF) = false ∧ w / 128 % 128 = m ∧ hdrOf w = h ∧ w / 2 ^ 26 % 64 = k ∧ fixed 14 6 0 w = true ∧ fld 6 20 w = x0 := by
  have := x0.isLt; have := h.g.isLt; have := h.y.isLt; have := h.s.isLt
  simp only [put, hdrBits] at e
  exact ⟨by omega, by omega, by simp; omega, by omega, hdr_eq _ _ (by omega) (by omega) (by omega), by omega, by simp only [fixed, beq_iff_eq]; omega, fld_eq _ _ _ (by omega)⟩

theorem word18 (h : Hdr) (m : Nat) (k : Nat) (x0 : BitVec 6) (hm : m < 128) (hk : k < 63) {w : Nat} (e : put 14 x0 (hdrBits h m (2 ^ 26 * k)) = w) :
    w < 2 ^ 32 ∧ w % 2 = 1 ∧ (w == 0xFFFFFFFF) = false ∧ w / 128 % 128 = m ∧ hdrOf w = h ∧ w / 2 ^ 26 % 64 = k ∧ fixed 20 6 0 w = true ∧ fld 6 14 w = x0 := by
  have := x0.isLt; have := h.g.isLt; have := h.y.isLt; have := h.s.isLt
  simp only [put, hdrBits] at e
  exact ⟨by omega, by omega, by simp; omega, by omega, hdr_eq _ _ (by omega) (by omega) (by omega), by omega, by simp only [fixed, beq_iff_eq]; omega, fld_eq _ _ _ (by omega)⟩

theorem word19 (h : Hdr) (m : Nat) (k : Nat)  (hm : m < 128) (hk : k < 63) {w : Nat} (e : hdrBits h m (2 ^ 26 * k) = w) :
    w < 2 ^ 32 ∧ w % 2 = 1 ∧ (w == 0xFFFFFFFF) = false ∧ w / 128 % 128 = m ∧ hdrOf w = h ∧ w / 2 ^ 26 % 64 = k ∧ fixed 14 12 0 w = true := by
  have := h.g.isLt; have := h.y.isLt; have := h.s.isLt
  simp only [put, hdrBits] at e
  exact ⟨by omega, by omega, by simp; omega, by omega, hdr_eq _ _ (by omega) (by omega) (by omega), by omega, by simp only [fixed, beq_iff_eq]; omega⟩

theorem word20 (h : Hdr) (m : Nat) (x0 : BitVec 12) (x1 : BitVec 2) (hm : m < 127) {w : Nat} (e : put 20 x0 (put 14 x1 (hdrBits h m 0)) = w) :
    w < 2 ^ 32 ∧ w % 2 = 1 ∧ (w == 0xFFFFFFFF) = false ∧ w / 128 % 128 = m ∧ hdrOf w = h ∧ fixed 16 4 0 w = true ∧ fld 12 20 w = x0 ∧ fld 2 14 w = x1 := by
  have := x0.isLt; have := x1.isLt; have := h.g.isLt; have := h.y.isLt; have := h.s.isLt
  simp only [put, hdrBits] at e
  exact ⟨by omega, by omega, by simp; omega, by omega, hdr_eq _ _ (by omega) (by omega) (by omega), by simp only [fixed, beq_iff_eq]; omega, fld_eq _ _ _ (by omega), fld_eq _ _ _ (by omega)⟩

theorem word21 (h : Hdr) (m : Nat) (x0 : BitVec 2) (x1 : BitVec 2) (x2 : BitVec 2) (x3 : BitVec 6) (x4 : BitVec 6) (hm : m < 127) {w : Nat} (e : put 30 x0 (put 28 x1 (put 26 x2 (put 20 x3 (put 14 x4 (hdrBits h m 0))))) = w) :
    w < 2 ^ 32 ∧ w % 2 = 1 ∧ (w == 0xFFFFFFFF) = false ∧ w / 128 % 128 = m ∧ hdrOf w = h ∧ fld 2 30 w = x0 ∧ fld 2 28 w = x1 ∧ fld 2 26 w = x2 ∧ fld 6 20 w = x3 ∧ fld 6 14 w = x4 := by
  have := x0.isLt; have := x1.isLt; have := x2.isLt; have := x3.isLt; have := x4.isLt; have := h.g.isLt; have := h.y.isLt; have := h.s.isLt
  simp only [put, hdrBits] at e
  exact ⟨by omega, by omega, by simp; omega, by omega, hdr_eq _ _ (by omega) (by omega) (by omega), fld_eq _ _ _ (by omega), fld_eq _ _ _ (by omega), fld_eq _ _ _ (by omega), fld_eq _ _ _ (by omega), fld_eq _ _ _ (by omega)⟩

theorem word22 (h : Hdr) (m : Nat) (k : Nat) (x0 : BitVec 6) (x1 : BitVec 3) (hm : m < 128) (hk : k < 7) {w : Nat} (e : put 20 x0 (put 14 x1 (hdrBits h m (2 ^ 29 * k))) = w) :
    w < 2 ^ 32 ∧ w % 2 = 1 ∧ (w == 0xFFFFFFFF) = false ∧ w / 128 % 128 = m ∧ hdrOf w = h ∧ w / 2 ^ 29 % 8 = k ∧ fixed 17 3 0 w = true ∧ fixed 26 3 0 w = true ∧ fld 6 20 w = x0 ∧ fld 3 14 w = x1 := by
  have := x0.isLt; have := x1.isLt; have := h.g.isLt; have := h.y.isLt; have := h.s.isLt
  simp only [put, hdrBits] at e
  exact ⟨by omega, by omega, by simp; omega, by omega, hdr_eq _ _ (by omega) (by omega) (by omega), by omega, by simp only [fixed, beq_iff_eq]; omega, by simp only [fixed, beq_iff_eq]; omega, fld_eq _ _ _ (by omega), fld_eq _ _ _ (by omega)⟩

theorem word23 (h : Hdr) (m : Nat) (k : Nat) (x0 : BitVec 3) (hm : m < 128) (hk : k < 7) {w : Nat} (e : put 14 x0 (hdrBits h m (2 ^ 29 * k)) = w) :
    w < 2 ^ 32 ∧ w % 2 = 1 ∧ (w == 0xFFFFFFFF) = false ∧ w / 128 % 128 = m ∧ hdrOf w = h ∧ w / 2 ^ 29 % 8 = k ∧ fixed 17 12 0 w = true ∧ fld 3 14 w = x0 := by
  have := x0.isLt; have := h.g.isLt; have := h.y.isLt; have := h.s.isLt
  simp only [put, hdrBits] at e
  exact ⟨by omega, by omega, by simp; omega, by omega, hdr_eq _ _ (by omega) (by omega) (by omega), by omega, by simp only [fixed, beq_iff_eq]; omega, fld_eq _ _ _ (by omega)⟩

theorem word24 (h : Hdr) (m : Nat) (x0 : BitVec 6) (hm : m < 127) {w : Nat} (e : put 20 x0 (hdrBits h m 0) = w) :
    w < 2 ^ 32 ∧ w % 2 = 1 ∧ (w == 0xFFFFFFFF) = false ∧ w / 128 % 128 = m ∧ hdrOf w = h ∧ fixed 14 6 0 w = true ∧ fixed 26 6 0 w = true ∧ fld 6 20 w = x0 := by
  have := x0.isLt; have := h.g.isLt; have := h.y.isLt; have := h.s.isLt
  simp only [put, hdrBits] at e
  exact ⟨by omega, by omega, by simp; omega, by omega, hdr_eq _ _ (by omega) (by omega) (by omega), by simp only [fixed, beq_iff_eq]; omega, by simp only [fixed, beq_iff_eq]; omega, fld_eq _ _ _ (by omega)⟩

theorem word25 (h : Hdr) (m : Nat) (x0 : BitVec 6) (x1 : BitVec 6) (x2 : BitVec 4) (hm : m < 127) {w : Nat} (e : put 26 x0 (put 20 x1 (put 14 x2 (hdrBits h m 0))) = w) :
    w < 2 ^ 32 ∧ w % 2 = 1 ∧ (w == 0xFFFFFFFF) = false ∧ w / 128 % 128 = m ∧ hdrOf w = h ∧ fixed 18 2 0 w = true ∧ fld 6 26 w = x0 ∧ fld 6 20 w = x1 ∧ fld 4 14 w = x2 := by
  have := x0.isLt; have := x1.isLt; have := x2.isLt; have := h.g.isLt; have := h.y.isLt; have := h.s.isLt
  simp only [put, hdrBits] at e
  exact ⟨by omega, by omega, by simp; omega, by omega, hdr_eq _ _ (by omega) (by omega) (by omega), by simp only [fixed, beq_iff_eq]; omega, fld_eq _ _ _ (by omega), fld_eq _ _ _ (by omega), fld_eq _ _ _ (by omega)⟩

theorem word26 (h : Hdr) (m : Nat) (x0 : BitVec 4) (x1 : BitVec 4) (x2 : BitVec 2) (x3 : BitVec 4) (hm : m < 127) {w : Nat} (e : put 26 x0 (put 20 x1 (put 18 x2 (put 14 x3 (hdrBits h m 0)))) = w) :
    w < 2 ^ 32 ∧ w % 2 = 1 ∧ (w == 0xFFFFFFFF) = false ∧ w / 128 % 128 = m ∧ hdrOf w = h ∧ fixed 24 2 0 w = true ∧ fixed 30 2 0 w = true ∧ fld 4 26 w = x0 ∧ fld 4 20 w = x1 ∧ fld 2 18 w = x2 ∧ fld 4 14 w = x3 := by
  have := x0.isLt; have := x1.isLt; have := x2.isLt; have := x3.isLt; have := h.g.isLt; have := h.y.isLt; have := h.s.isLt
  simp only [put, hdrBits] at e
  exact ⟨by omega, by omega, by simp; omega, by omega, hdr_eq _ _ (by omega) (by omega) (by omega), by simp only [fixed, beq_iff_eq]; omega, by simp only [fixed, beq_iff_eq]; omega, fld_eq _ _ _ (by omega), fld_eq _ _ _ (by omega), fld_eq _ _ _ (by omega), fld_eq _ _ _ (by omega)⟩

theorem word27 (h : Hdr) (m : Nat) (k : Nat) (x0 : BitVec 4) (hm : m < 128) (hk : k < 63) {w : Nat} (e : put 20 x0 (hdrBits h m (2 ^ 26 * k)) = w) :
    w < 2 ^ 32 ∧ w % 2 = 1 ∧ (w == 0xFFFFFFFF) = false ∧ w / 128 % 128 = m ∧ hdrOf w = h ∧ w / 2 ^ 26 % 64 = k ∧ fixed 14 6 0 w = true ∧ fixed 24 2 0 w = true ∧ fld 4 20 w = x0 := by
  have := x0.isLt; have := h.g.isLt; have := h.y.isLt; have := h.s.isLt
  simp only [put, hdrBits] at e
  exact ⟨by omega, by omega, by simp; omega, by omega, hdr_eq _ _ (by omega) (by omega) (by omega), by omega, by simp only [fixed, beq_iff_eq]; omega, by simp only [fixed, beq_iff_eq]; omega, fld_eq _ _ _ (by omega)⟩

theorem word28 (h : Hdr) (m : Nat) (k : Nat) (x0 : BitVec 4) (x1 : BitVec 6) (hm : m < 128) (hk : k < 63) {w : Nat} (e : put 20 x0 (put 14 x1 (hdrBits h m (2 ^ 26 * k))) = w) :
    w < 2 ^ 32 ∧ w % 2 = 1 ∧ (w == 0xFFFFFFFF) = false ∧ w / 128 % 128 = m ∧ hdrOf w = h ∧ w / 2 ^ 26 % 64 = k ∧ fixed 24 2 0 w = true ∧ fld 4 20 w = x0 ∧ fld 6 14 w = x1 := by
  have := x0.isLt; have := x1.isLt; have := h.g.isLt; have := h.y.isLt; have := h.s.isLt
  simp only [put, hdrBits] at e
  exact ⟨by omega, by omega, by simp; omega, by omega, hdr_eq _ _ (by omega) (by omega) (by omega), by omega, by simp only [fixed, beq_iff_eq]; omega, fld_eq _ _ _ (by omega), fld_eq _ _ _ (by omega)⟩

theorem word29 (h : Hdr) (m : Nat) (k : Nat) (x0 : BitVec 6) (x1 : BitVec 6) (hm : m < 128) (hk : k < 63) {w : Nat} (e : put 20 x0 (put 14 x1 (hdrBits h m (2 ^ 26 * k))) = w) :
    w < 2 ^ 32 ∧ w % 2 = 1 ∧ (w == 0xFFFFFFFF) = false ∧ w / 128 % 128 = m ∧ hdrOf w = h ∧ w / 2 ^ 26 % 64 = k ∧ fld 6 20 w = x0 ∧ fld 6 14 w = x1 := by
  have := x0.isLt; have := x1.isLt; have := h.g.isLt; have := h.y.isLt; have := h.s.isLt
  simp only [put, hdrBits] at e
  exact ⟨by omega, by omega, by simp; omega, by omega, hdr_eq _ _ (by omega) (by omega) (by omega), by omega, fld_eq _ _ _ (by omega), fld_eq _ _ _ (by omega)⟩

theorem word30 (h : Hdr) (m : Nat) (k : Nat)  (hm : m < 128) (hk : k < 63) {w : Nat} (e : hdrBits h m (2 ^ 14 * k) = w) :
    w < 2 ^ 32 ∧ w % 2 = 1 ∧ (w == 0xFFFFFFFF) = false ∧ w / 128 % 128 = m ∧ hdrOf w = h ∧ w / 2 ^ 14 % 64 = k ∧ fixed 20 12 0 w = true := by
  have := h.g.isLt; have := h.y.isLt; have := h.s.isLt
  simp only [put, hdrBits] at e
  exact ⟨by omega, by omega, by simp; omega, by omega, hdr_eq _ _ (by omega) (by omega) (by omega), by omega, by simp only [fixed, beq_iff_eq]; omega⟩

theorem word31 (h : Hdr) (m : Nat) (k : Nat) (x0 : BitVec 12) (hm : m < 128) (hk : k < 63) {w : Nat} (e : put 20 x0 (hdrBits h m (2 ^ 14 * k)) = w) :
    w < 2 ^ 32 ∧ w % 2 = 1 ∧ (w == 0xFFFFFFFF) = false ∧ w / 128 % 128 = m ∧ hdrOf w = h ∧ w / 2 ^ 14 % 64 = k ∧ fld 12 20 w = x0 := by
  have := x0.isLt; have := h.g.isLt; have := h.y.isLt; have := h.s.isLt
  simp only [put, hdrBits] at e
  exact ⟨by omega, by omega, by simp; omega, by omega, hdr_eq _ _ (by omega) (by omega) (by omega), by omega, fld_eq _ _ _ (by omega)⟩

theorem xp (x : BitVec 12) (k : BitVec 2) (j : BitVec 2) (h : BitVec 2) : Statement (.xp x k j h) := by
  intro wf
  have := x.isLt; have := k.isLt; have := j.isLt; have := h.isLt
  refine Or.inl ?_
  show decode (halves (put 20 x (put 18 k (put 16 j (put 14 h 0x71))))) = _
  generalize hw : (put 20 x (put 18 k (put 16 j (put 14 h 0x71)))) = W
  simp only [put] at hw
  rw [decode_halves (by omega) (by omega)]
  have hm : W / 128 % 128 = 0x0 := by omega
  have hn : (W == 0xFFFFFFFF) = false := by simp; omega
  have hf : fixed 1 6 0x38 W = true := by simp only [fixed, beq_iff_eq]; omega
  unfold decode32; rw [hn, hm]
  refine (if_pos hf).trans ?_
  rw [fld_eq _ _ x (by omega), fld_eq _ _ k (by omega), fld_eq _ _ j (by omega), fld_eq _ _ h (by omega)]
theorem bra (h : Hdr) (i : BitVec 18) : Statement (.bra h i) := by
  intro _
  generalize hw : (put 14 i (hdrBits h 0x1 0x0)) = W
  obtain ⟨h0, h1, h2, h3, h4, x0⟩ := word0 h 0x1 i (by decide) hw
  have hd := decode_halves h0 h1
  unfold decode32 at hd
  refine Or.inl (Eq.trans (congrArg (fun W => decode (halves W)) hw) ?_)
  rw [h2, h3] at hd
  refine hd.trans ?_
  show Except.ok (Instr.bra (hdrOf W) (fld 18 14 W)) = _
  rw [h4, x0]
theorem brx (h : Hdr) (a : BitVec 6) : Statement (.brx h a) := by
  intro _
  generalize hw : (put 14 a (hdrBits h 0x2 0x0)) = W
  obtain ⟨h0, h1, h2, h3, h4, f0, x0⟩ := word1 h 0x2 a (by decide) hw
  have hd := decode_halves h0 h1
  unfold decode32 at hd
  refine Or.inl (Eq.trans (congrArg (fun W => decode (halves W)) hw) ?_)
  rw [h2, h3] at hd
  rw [f0] at hd
  refine hd.trans ?_
  show Except.ok (Instr.brx (hdrOf W) (fld 6 14 W)) = _
  rw [h4, x0]
theorem call (h : Hdr) (i : BitVec 18) : Statement (.call h i) := by
  intro _
  generalize hw : (put 14 i (hdrBits h 0x3 0x0)) = W
  obtain ⟨h0, h1, h2, h3, h4, x0⟩ := word0 h 0x3 i (by decide) hw
  have hd := decode_halves h0 h1
  unfold decode32 at hd
  refine Or.inl (Eq.trans (congrArg (fun W => decode (halves W)) hw) ?_)
  rw [h2, h3] at hd
  refine hd.trans ?_
  show Except.ok (Instr.call (hdrOf W) (fld 18 14 W)) = _
  rw [h4, x0]
theorem ret (h : Hdr) : Statement (.ret h) := by
  intro _
  generalize hw : (hdrBits h 0x4 0x0) = W
  obtain ⟨h0, h1, h2, h3, h4, f0⟩ := word2 h 0x4 (by decide) hw
  have hd := decode_halves h0 h1
  unfold decode32 at hd
  refine Or.inl (Eq.trans (congrArg (fun W => decode (halves W)) hw) ?_)
  rw [h2, h3] at hd
  rw [f0] at hd
  refine hd.trans ?_
  show Except.ok (Instr.ret (hdrOf W)) = _
  rw [h4]
theorem rcv (h : Hdr) (i : BitVec 18) : Statement (.rcv h i) := by
  intro _
  generalize hw : (put 14 i (hdrBits h 0x5 0x0)) = W
  obtain ⟨h0, h1, h2, h3, h4, x0⟩ := word0 h 0x5 i (by decide) hw
  have hd := decode_halves h0 h1
  unfold decode32 at hd
  refine Or.inl (Eq.trans (congrArg (fun W => decode (halves W)) hw) ?_)
  rw [h2, h3] at hd
  refine hd.trans ?_
  show Except.ok (Instr.rcv (hdrOf W) (fld 18 14 W)) = _
  rw [h4, x0]
theorem brk (h : Hdr) (i : BitVec 12) (n : BitVec 4) : Statement (.brk h i n) := by
  intro _
  generalize hw : (put 20 i (put 14 n (hdrBits h 0x6 0x0))) = W
  obtain ⟨h0, h1, h2, h3, h4, f0, x0, x1⟩ := word3 h 0x6 i n (by decide) hw
  have hd := decode_halves h0 h1
  unfold decode32 at hd
  refine Or.inl (Eq.trans (congrArg (fun W => decode (halves W)) hw) ?_)
  rw [h2, h3] at hd
  rw [f0] at hd
  refine hd.trans ?_
  show Except.ok (Instr.brk (hdrOf W) (fld 12 20 W) (fld 4 14 W)) = _
  rw [h4, x0, x1]
theorem exit (h : Hdr) : Statement (.exit h) := by
  intro _
  generalize hw : (hdrBits h 0x7 0x0) = W
  obtain ⟨h0, h1, h2, h3, h4, f0⟩ := word2 h 0x7 (by decide) hw
  have hd := decode_halves h0 h1
  unfold decode32 at hd
  refine Or.inl (Eq.trans (congrArg (fun W => decode (halves W)) hw) ?_)
  rw [h2, h3] at hd
  rw [f0] at hd
  refine hd.trans ?_
  show Except.ok (Instr.exit (hdrOf W)) = _
  rw [h4]
theorem reform (h : Hdr) (a : BitVec 6) : Statement (.reform h a) := by
  intro _
  generalize hw : (put 14 a (hdrBits h 0x8 0x0)) = W
  obtain ⟨h0, h1, h2, h3, h4, f0, x0⟩ := word1 h 0x8 a (by decide) hw
  have hd := decode_halves h0 h1
  unfold decode32 at hd
  refine Or.inl (Eq.trans (congrArg (fun W => decode (halves W)) hw) ?_)
  rw [h2, h3] at hd
  rw [f0] at hd
  refine hd.trans ?_
  show Except.ok (Instr.reform (hdrOf W) (fld 6 14 W)) = _
  rw [h4, x0]
theorem loop (h : Hdr) (i : BitVec 12) (a : BitVec 6) : Statement (.loop h i a) := by
  intro _
  generalize hw : (put 20 i (put 14 a (hdrBits h 0x9 0x0))) = W
  obtain ⟨h0, h1, h2, h3, h4, x0, x1⟩ := word4 h 0x9 i a (by decide) hw
  have hd := decode_halves h0 h1
  unfold decode32 at hd
  refine Or.inl (Eq.trans (congrArg (fun W => decode (halves W)) hw) ?_)
  rw [h2, h3] at hd
  refine hd.trans ?_
  show Except.ok (Instr.loop (hdrOf W) (fld 12 20 W) (fld 6 14 W)) = _
  rw [h4, x0, x1]
theorem trap (h : Hdr) (i : BitVec 12) : Statement (.trap h i) := by
  intro _
  generalize hw : (put 20 i (hdrBits h 0xa 0x0)) = W
  obtain ⟨h0, h1, h2, h3, h4, f0, x0⟩ := word5 h 0xa i (by decide) hw
  have hd := decode_halves h0 h1
  unfold decode32 at hd
  refine Or.inl (Eq.trans (congrArg (fun W => decode (halves W)) hw) ?_)
  rw [h2, h3] at hd
  rw [f0] at hd
  refine hd.trans ?_
  show Except.ok (Instr.trap (hdrOf W) (fld 12 20 W)) = _
  rw [h4, x0]
theorem sadd (h : Hdr) (c : BitVec 6) (b : BitVec 6) (a : BitVec 6) : Statement (.sadd h c b a) := by
  intro _
  generalize hw : (put 26 c (put 20 b (put 14 a (hdrBits h 0xb 0x0)))) = W
  obtain ⟨h0, h1, h2, h3, h4, x0, x1, x2⟩ := word6 h 0xb c b a (by decide) hw
  have hd := decode_halves h0 h1
  unfold decode32 at hd
  refine Or.inl (Eq.trans (congrArg (fun W => decode (halves W)) hw) ?_)
  rw [h2, h3] at hd
  refine hd.trans ?_
  show Except.ok (Instr.sadd (hdrOf W) (fld 6 26 W) (fld 6 20 W) (fld 6 14 W)) = _
  rw [h4, x0, x1, x2]
theorem ssub (h : Hdr) (c : BitVec 6) (b : BitVec 6) (a : BitVec 6) : Statement (.ssub h c b a) := by
  intro _
  generalize hw : (put 26 c (put 20 b (put 14 a (hdrBits h 0xc 0x0)))) = W
  obtain ⟨h0, h1, h2, h3, h4, x0, x1, x2⟩ := word6 h 0xc c b a (by decide) hw
  have hd := decode_halves h0 h1
  unfold decode32 at hd
  refine Or.inl (Eq.trans (congrArg (fun W => decode (halves W)) hw) ?_)
  rw [h2, h3] at hd
  refine hd.trans ?_
  show Except.ok (Instr.ssub (hdrOf W) (fld 6 26 W) (fld 6 20 W) (fld 6 14 W)) = _
  rw [h4, x0, x1, x2]
theorem smul (h : Hdr) (c : BitVec 6) (b : BitVec 6) (a : BitVec 6) : Statement (.smul h c b a) := by
  intro _
  generalize hw : (put 26 c (put 20 b (put 14 a (hdrBits h 0xd 0x0)))) = W
  obtain ⟨h0, h1, h2, h3, h4, x0, x1, x2⟩ := word6 h 0xd c b a (by decide) hw
  have hd := decode_halves h0 h1
  unfold decode32 at hd
  refine Or.inl (Eq.trans (congrArg (fun W => decode (halves W)) hw) ?_)
  rw [h2, h3] at hd
  refine hd.trans ?_
  show Except.ok (Instr.smul (hdrOf W) (fld 6 26 W) (fld 6 20 W) (fld 6 14 W)) = _
  rw [h4, x0, x1, x2]
theorem smulhI (h : Hdr) (c : BitVec 6) (b : BitVec 6) (a : BitVec 6) : Statement (.smulhI h c b a) := by
  intro _
  generalize hw : (put 26 c (put 20 b (put 14 a (hdrBits h 0xe 0x0)))) = W
  obtain ⟨h0, h1, h2, h3, h4, x0, x1, x2⟩ := word6 h 0xe c b a (by decide) hw
  have hd := decode_halves h0 h1
  unfold decode32 at hd
  refine Or.inl (Eq.trans (congrArg (fun W => decode (halves W)) hw) ?_)
  rw [h2, h3] at hd
  refine hd.trans ?_
  show Except.ok (Instr.smulhI (hdrOf W) (fld 6 26 W) (fld 6 20 W) (fld 6 14 W)) = _
  rw [h4, x0, x1, x2]
theorem smulhN (h : Hdr) (c : BitVec 6) (b : BitVec 6) (a : BitVec 6) : Statement (.smulhN h c b a) := by
  intro _
  generalize hw : (put 26 c (put 20 b (put 14 a (hdrBits h 0xf 0x0)))) = W
  obtain ⟨h0, h1, h2, h3, h4, x0, x1, x2⟩ := word6 h 0xf c b a (by decide) hw
  have hd := decode_halves h0 h1
  unfold decode32 at hd
  refine Or.inl (Eq.trans (congrArg (fun W => decode (halves W)) hw) ?_)
  rw [h2, h3] at hd
  refine hd.trans ?_
  show Except.ok (Instr.smulhN (hdrOf W) (fld 6 26 W) (fld 6 20 W) (fld 6 14 W)) = _
  rw [h4, x0, x1, x2]
theorem sdivN (h : Hdr) (c : BitVec 6) (b : BitVec 6) (a : BitVec 6) : Statement (.sdivN h c b a) := by
  intro _
  generalize hw : (put 26 c (put 20 b (put 14 a (hdrBits h 0x10 0x0)))) = W
  obtain ⟨h0, h1, h2, h3, h4, x0, x1, x2⟩ := word6 h 0x10 c b a (by decide) hw
  have hd := decode_halves h0 h1
  unfold decode32 at hd
  refine Or.inl (Eq.trans (congrArg (fun W => decode (halves W)) hw) ?_)
  rw [h2, h3] at hd
  refine hd.trans ?_
  show Except.ok (Instr.sdivN (hdrOf W) (fld 6 26 W) (fld 6 20 W) (fld 6 14 W)) = _
  rw [h4, x0, x1, x2]
theorem sremN (h : Hdr) (c : BitVec 6) (b : BitVec 6) (a : BitVec 6) : Statement (.sremN h c b a) := by
  intro _
  generalize hw : (put 26 c (put 20 b (put 14 a (hdrBits h 0x11 0x0)))) = W
  obtain ⟨h0, h1, h2, h3, h4, x0, x1, x2⟩ := word6 h 0x11 c b a (by decide) hw
  have hd := decode_halves h0 h1
  unfold decode32 at hd
  refine Or.inl (Eq.trans (congrArg (fun W => decode (halves W)) hw) ?_)
  rw [h2, h3] at hd
  refine hd.trans ?_
  show Except.ok (Instr.sremN (hdrOf W) (fld 6 26 W) (fld 6 20 W) (fld 6 14 W)) = _
  rw [h4, x0, x1, x2]
theorem sand (h : Hdr) (c : BitVec 6) (b : BitVec 6) (a : BitVec 6) : Statement (.sand h c b a) := by
  intro _
  generalize hw : (put 26 c (put 20 b (put 14 a (hdrBits h 0x12 0x0)))) = W
  obtain ⟨h0, h1, h2, h3, h4, x0, x1, x2⟩ := word6 h 0x12 c b a (by decide) hw
  have hd := decode_halves h0 h1
  unfold decode32 at hd
  refine Or.inl (Eq.trans (congrArg (fun W => decode (halves W)) hw) ?_)
  rw [h2, h3] at hd
  refine hd.trans ?_
  show Except.ok (Instr.sand (hdrOf W) (fld 6 26 W) (fld 6 20 W) (fld 6 14 W)) = _
  rw [h4, x0, x1, x2]
theorem sor (h : Hdr) (c : BitVec 6) (b : BitVec 6) (a : BitVec 6) : Statement (.sor h c b a) := by
  intro _
  generalize hw : (put 26 c (put 20 b (put 14 a (hdrBits h 0x13 0x0)))) = W
  obtain ⟨h0, h1, h2, h3, h4, x0, x1, x2⟩ := word6 h 0x13 c b a (by decide) hw
  have hd := decode_halves h0 h1
  unfold decode32 at hd
  refine Or.inl (Eq.trans (congrArg (fun W => decode (halves W)) hw) ?_)
  rw [h2, h3] at hd
  refine hd.trans ?_
  show Except.ok (Instr.sor (hdrOf W) (fld 6 26 W) (fld 6 20 W) (fld 6 14 W)) = _
  rw [h4, x0, x1, x2]
theorem sxor (h : Hdr) (c : BitVec 6) (b : BitVec 6) (a : BitVec 6) : Statement (.sxor h c b a) := by
  intro _
  generalize hw : (put 26 c (put 20 b (put 14 a (hdrBits h 0x14 0x0)))) = W
  obtain ⟨h0, h1, h2, h3, h4, x0, x1, x2⟩ := word6 h 0x14 c b a (by decide) hw
  have hd := decode_halves h0 h1
  unfold decode32 at hd
  refine Or.inl (Eq.trans (congrArg (fun W => decode (halves W)) hw) ?_)
  rw [h2, h3] at hd
  refine hd.trans ?_
  show Except.ok (Instr.sxor (hdrOf W) (fld 6 26 W) (fld 6 20 W) (fld 6 14 W)) = _
  rw [h4, x0, x1, x2]
theorem sshl (h : Hdr) (c : BitVec 6) (b : BitVec 6) (a : BitVec 6) : Statement (.sshl h c b a) := by
  intro _
  generalize hw : (put 26 c (put 20 b (put 14 a (hdrBits h 0x15 0x0)))) = W
  obtain ⟨h0, h1, h2, h3, h4, x0, x1, x2⟩ := word6 h 0x15 c b a (by decide) hw
  have hd := decode_halves h0 h1
  unfold decode32 at hd
  refine Or.inl (Eq.trans (congrArg (fun W => decode (halves W)) hw) ?_)
  rw [h2, h3] at hd
  refine hd.trans ?_
  show Except.ok (Instr.sshl (hdrOf W) (fld 6 26 W) (fld 6 20 W) (fld 6 14 W)) = _
  rw [h4, x0, x1, x2]
theorem sshr (h : Hdr) (c : BitVec 6) (b : BitVec 6) (a : BitVec 6) : Statement (.sshr h c b a) := by
  intro _
  generalize hw : (put 26 c (put 20 b (put 14 a (hdrBits h 0x16 0x0)))) = W
  obtain ⟨h0, h1, h2, h3, h4, x0, x1, x2⟩ := word6 h 0x16 c b a (by decide) hw
  have hd := decode_halves h0 h1
  unfold decode32 at hd
  refine Or.inl (Eq.trans (congrArg (fun W => decode (halves W)) hw) ?_)
  rw [h2, h3] at hd
  refine hd.trans ?_
  show Except.ok (Instr.sshr (hdrOf W) (fld 6 26 W) (fld 6 20 W) (fld 6 14 W)) = _
  rw [h4, x0, x1, x2]
theorem ssra (h : Hdr) (c : BitVec 6) (b : BitVec 6) (a : BitVec 6) : Statement (.ssra h c b a) := by
  intro _
  generalize hw : (put 26 c (put 20 b (put 14 a (hdrBits h 0x17 0x0)))) = W
  obtain ⟨h0, h1, h2, h3, h4, x0, x1, x2⟩ := word6 h 0x17 c b a (by decide) hw
  have hd := decode_halves h0 h1
  unfold decode32 at hd
  refine Or.inl (Eq.trans (congrArg (fun W => decode (halves W)) hw) ?_)
  rw [h2, h3] at hd
  refine hd.trans ?_
  show Except.ok (Instr.ssra (hdrOf W) (fld 6 26 W) (fld 6 20 W) (fld 6 14 W)) = _
  rw [h4, x0, x1, x2]
theorem sminI (h : Hdr) (c : BitVec 6) (b : BitVec 6) (a : BitVec 6) : Statement (.sminI h c b a) := by
  intro _
  generalize hw : (put 26 c (put 20 b (put 14 a (hdrBits h 0x18 0x0)))) = W
  obtain ⟨h0, h1, h2, h3, h4, x0, x1, x2⟩ := word6 h 0x18 c b a (by decide) hw
  have hd := decode_halves h0 h1
  unfold decode32 at hd
  refine Or.inl (Eq.trans (congrArg (fun W => decode (halves W)) hw) ?_)
  rw [h2, h3] at hd
  refine hd.trans ?_
  show Except.ok (Instr.sminI (hdrOf W) (fld 6 26 W) (fld 6 20 W) (fld 6 14 W)) = _
  rw [h4, x0, x1, x2]
theorem smaxI (h : Hdr) (c : BitVec 6) (b : BitVec 6) (a : BitVec 6) : Statement (.smaxI h c b a) := by
  intro _
  generalize hw : (put 26 c (put 20 b (put 14 a (hdrBits h 0x19 0x0)))) = W
  obtain ⟨h0, h1, h2, h3, h4, x0, x1, x2⟩ := word6 h 0x19 c b a (by decide) hw
  have hd := decode_halves h0 h1
  unfold decode32 at hd
  refine Or.inl (Eq.trans (congrArg (fun W => decode (halves W)) hw) ?_)
  rw [h2, h3] at hd
  refine hd.trans ?_
  show Except.ok (Instr.smaxI (hdrOf W) (fld 6 26 W) (fld 6 20 W) (fld 6 14 W)) = _
  rw [h4, x0, x1, x2]
theorem sminN (h : Hdr) (c : BitVec 6) (b : BitVec 6) (a : BitVec 6) : Statement (.sminN h c b a) := by
  intro _
  generalize hw : (put 26 c (put 20 b (put 14 a (hdrBits h 0x1a 0x0)))) = W
  obtain ⟨h0, h1, h2, h3, h4, x0, x1, x2⟩ := word6 h 0x1a c b a (by decide) hw
  have hd := decode_halves h0 h1
  unfold decode32 at hd
  refine Or.inl (Eq.trans (congrArg (fun W => decode (halves W)) hw) ?_)
  rw [h2, h3] at hd
  refine hd.trans ?_
  show Except.ok (Instr.sminN (hdrOf W) (fld 6 26 W) (fld 6 20 W) (fld 6 14 W)) = _
  rw [h4, x0, x1, x2]
theorem smaxN (h : Hdr) (c : BitVec 6) (b : BitVec 6) (a : BitVec 6) : Statement (.smaxN h c b a) := by
  intro _
  generalize hw : (put 26 c (put 20 b (put 14 a (hdrBits h 0x1b 0x0)))) = W
  obtain ⟨h0, h1, h2, h3, h4, x0, x1, x2⟩ := word6 h 0x1b c b a (by decide) hw
  have hd := decode_halves h0 h1
  unfold decode32 at hd
  refine Or.inl (Eq.trans (congrArg (fun W => decode (halves W)) hw) ?_)
  rw [h2, h3] at hd
  refine hd.trans ?_
  show Except.ok (Instr.smaxN (hdrOf W) (fld 6 26 W) (fld 6 20 W) (fld 6 14 W)) = _
  rw [h4, x0, x1, x2]
theorem saddi (h : Hdr) (f : BitVec 6) (b : BitVec 6) (a : BitVec 6) : Statement (.saddi h f b a) := by
  intro _
  generalize hw : (put 26 f (put 20 b (put 14 a (hdrBits h 0x1c 0x0)))) = W
  obtain ⟨h0, h1, h2, h3, h4, x0, x1, x2⟩ := word6 h 0x1c f b a (by decide) hw
  have hd := decode_halves h0 h1
  unfold decode32 at hd
  refine Or.inl (Eq.trans (congrArg (fun W => decode (halves W)) hw) ?_)
  rw [h2, h3] at hd
  refine hd.trans ?_
  show Except.ok (Instr.saddi (hdrOf W) (fld 6 26 W) (fld 6 20 W) (fld 6 14 W)) = _
  rw [h4, x0, x1, x2]
theorem smovi (h : Hdr) (i : BitVec 12) (a : BitVec 6) : Statement (.smovi h i a) := by
  intro _
  generalize hw : (put 20 i (put 14 a (hdrBits h 0x1d 0x0))) = W
  obtain ⟨h0, h1, h2, h3, h4, x0, x1⟩ := word4 h 0x1d i a (by decide) hw
  have hd := decode_halves h0 h1
  unfold decode32 at hd
  refine Or.inl (Eq.trans (congrArg (fun W => decode (halves W)) hw) ?_)
  rw [h2, h3] at hd
  refine hd.trans ?_
  show Except.ok (Instr.smovi (hdrOf W) (fld 12 20 W) (fld 6 14 W)) = _
  rw [h4, x0, x1]
theorem sins (h : Hdr) (i : BitVec 12) (a : BitVec 6) : Statement (.sins h i a) := by
  intro _
  generalize hw : (put 20 i (put 14 a (hdrBits h 0x1e 0x0))) = W
  obtain ⟨h0, h1, h2, h3, h4, x0, x1⟩ := word4 h 0x1e i a (by decide) hw
  have hd := decode_halves h0 h1
  unfold decode32 at hd
  refine Or.inl (Eq.trans (congrArg (fun W => decode (halves W)) hw) ?_)
  rw [h2, h3] at hd
  refine hd.trans ?_
  show Except.ok (Instr.sins (hdrOf W) (fld 12 20 W) (fld 6 14 W)) = _
  rw [h4, x0, x1]
theorem scmp (h : Hdr) (c : BitVec 6) (b : BitVec 6) (n : BitVec 3) (k : BitVec 3) : Statement (.scmp h c b n k) := by
  intro _
  generalize hw : (put 26 c (put 20 b (put 17 n (put 14 k (hdrBits h 0x1f 0x0))))) = W
  obtain ⟨h0, h1, h2, h3, h4, x0, x1, x2, x3⟩ := word7 h 0x1f c b n k (by decide) hw
  have hd := decode_halves h0 h1
  unfold decode32 at hd
  refine Or.inl (Eq.trans (congrArg (fun W => decode (halves W)) hw) ?_)
  rw [h2, h3] at hd
  refine hd.trans ?_
  show Except.ok (Instr.scmp (hdrOf W) (fld 6 26 W) (fld 6 20 W) (fld 3 17 W) (fld 3 14 W)) = _
  rw [h4, x0, x1, x2, x3]
theorem smov (h : Hdr) (b : BitVec 6) (a : BitVec 6) : Statement (.smov h b a) := by
  intro _
  generalize hw : (put 20 b (put 14 a (hdrBits h 0x20 0x0))) = W
  obtain ⟨h0, h1, h2, h3, h4, f0, x0, x1⟩ := word8 h 0x20 b a (by decide) hw
  have hd := decode_halves h0 h1
  unfold decode32 at hd
  refine Or.inl (Eq.trans (congrArg (fun W => decode (halves W)) hw) ?_)
  rw [h2, h3] at hd
  rw [f0] at hd
  refine hd.trans ?_
  show Except.ok (Instr.smov (hdrOf W) (fld 6 20 W) (fld 6 14 W)) = _
  rw [h4, x0, x1]
theorem sunary (h : Hdr) (f : BitVec 6) (b : BitVec 6) (a : BitVec 6) : Statement (.sunary h f b a) := by
  intro _
  generalize hw : (put 26 f (put 20 b (put 14 a (hdrBits h 0x21 0x0)))) = W
  obtain ⟨h0, h1, h2, h3, h4, x0, x1, x2⟩ := word6 h 0x21 f b a (by decide) hw
  have hd := decode_halves h0 h1
  unfold decode32 at hd
  refine Or.inl (Eq.trans (congrArg (fun W => decode (halves W)) hw) ?_)
  rw [h2, h3] at hd
  refine hd.trans ?_
  show Except.ok (Instr.sunary (hdrOf W) (fld 6 26 W) (fld 6 20 W) (fld 6 14 W)) = _
  rw [h4, x0, x1, x2]
theorem srd (h : Hdr) (i : BitVec 12) (a : BitVec 6) : Statement (.srd h i a) := by
  intro _
  generalize hw : (put 20 i (put 14 a (hdrBits h 0x22 0x0))) = W
  obtain ⟨h0, h1, h2, h3, h4, x0, x1⟩ := word4 h 0x22 i a (by decide) hw
  have hd := decode_halves h0 h1
  unfold decode32 at hd
  refine Or.inl (Eq.trans (congrArg (fun W => decode (halves W)) hw) ?_)
  rw [h2, h3] at hd
  refine hd.trans ?_
  show Except.ok (Instr.srd (hdrOf W) (fld 12 20 W) (fld 6 14 W)) = _
  rw [h4, x0, x1]
theorem swr (h : Hdr) (i : BitVec 12) (a : BitVec 6) : Statement (.swr h i a) := by
  intro _
  generalize hw : (put 20 i (put 14 a (hdrBits h 0x23 0x0))) = W
  obtain ⟨h0, h1, h2, h3, h4, x0, x1⟩ := word4 h 0x23 i a (by decide) hw
  have hd := decode_halves h0 h1
  unfold decode32 at hd
  refine Or.inl (Eq.trans (congrArg (fun W => decode (halves W)) hw) ?_)
  rw [h2, h3] at hd
  refine hd.trans ?_
  show Except.ok (Instr.swr (hdrOf W) (fld 12 20 W) (fld 6 14 W)) = _
  rw [h4, x0, x1]
theorem sgetl (h : Hdr) (f : BitVec 6) (b : BitVec 6) (a : BitVec 6) : Statement (.sgetl h f b a) := by
  intro _
  generalize hw : (put 26 f (put 20 b (put 14 a (hdrBits h 0x24 0x0)))) = W
  obtain ⟨h0, h1, h2, h3, h4, x0, x1, x2⟩ := word6 h 0x24 f b a (by decide) hw
  have hd := decode_halves h0 h1
  unfold decode32 at hd
  refine Or.inl (Eq.trans (congrArg (fun W => decode (halves W)) hw) ?_)
  rw [h2, h3] at hd
  refine hd.trans ?_
  show Except.ok (Instr.sgetl (hdrOf W) (fld 6 26 W) (fld 6 20 W) (fld 6 14 W)) = _
  rw [h4, x0, x1, x2]
theorem sshli (h : Hdr) (f : BitVec 6) (b : BitVec 6) (a : BitVec 6) : Statement (.sshli h f b a) := by
  intro _
  generalize hw : (put 26 f (put 20 b (put 14 a (hdrBits h 0x25 0x0)))) = W
  obtain ⟨h0, h1, h2, h3, h4, x0, x1, x2⟩ := word6 h 0x25 f b a (by decide) hw
  have hd := decode_halves h0 h1
  unfold decode32 at hd
  refine Or.inl (Eq.trans (congrArg (fun W => decode (halves W)) hw) ?_)
  rw [h2, h3] at hd
  refine hd.trans ?_
  show Except.ok (Instr.sshli (hdrOf W) (fld 6 26 W) (fld 6 20 W) (fld 6 14 W)) = _
  rw [h4, x0, x1, x2]
theorem sshri (h : Hdr) (f : BitVec 6) (b : BitVec 6) (a : BitVec 6) : Statement (.sshri h f b a) := by
  intro _
  generalize hw : (put 26 f (put 20 b (put 14 a (hdrBits h 0x26 0x0)))) = W
  obtain ⟨h0, h1, h2, h3, h4, x0, x1, x2⟩ := word6 h 0x26 f b a (by decide) hw
  have hd := decode_halves h0 h1
  unfold decode32 at hd
  refine Or.inl (Eq.trans (congrArg (fun W => decode (halves W)) hw) ?_)
  rw [h2, h3] at hd
  refine hd.trans ?_
  show Except.ok (Instr.sshri (hdrOf W) (fld 6 26 W) (fld 6 20 W) (fld 6 14 W)) = _
  rw [h4, x0, x1, x2]
theorem vadd (h : Hdr) (c : BitVec 6) (b : BitVec 6) (a : BitVec 6) : Statement (.vadd h c b a) := by
  intro _
  generalize hw : (put 26 c (put 20 b (put 14 a (hdrBits h 0x27 0x0)))) = W
  obtain ⟨h0, h1, h2, h3, h4, x0, x1, x2⟩ := word6 h 0x27 c b a (by decide) hw
  have hd := decode_halves h0 h1
  unfold decode32 at hd
  refine Or.inl (Eq.trans (congrArg (fun W => decode (halves W)) hw) ?_)
  rw [h2, h3] at hd
  refine hd.trans ?_
  show Except.ok (Instr.vadd (hdrOf W) (fld 6 26 W) (fld 6 20 W) (fld 6 14 W)) = _
  rw [h4, x0, x1, x2]
theorem vsub (h : Hdr) (c : BitVec 6) (b : BitVec 6) (a : BitVec 6) : Statement (.vsub h c b a) := by
  intro _
  generalize hw : (put 26 c (put 20 b (put 14 a (hdrBits h 0x28 0x0)))) = W
  obtain ⟨h0, h1, h2, h3, h4, x0, x1, x2⟩ := word6 h 0x28 c b a (by decide) hw
  have hd := decode_halves h0 h1
  unfold decode32 at hd
  refine Or.inl (Eq.trans (congrArg (fun W => decode (halves W)) hw) ?_)
  rw [h2, h3] at hd
  refine hd.trans ?_
  show Except.ok (Instr.vsub (hdrOf W) (fld 6 26 W) (fld 6 20 W) (fld 6 14 W)) = _
  rw [h4, x0, x1, x2]
theorem vmul (h : Hdr) (c : BitVec 6) (b : BitVec 6) (a : BitVec 6) : Statement (.vmul h c b a) := by
  intro _
  generalize hw : (put 26 c (put 20 b (put 14 a (hdrBits h 0x29 0x0)))) = W
  obtain ⟨h0, h1, h2, h3, h4, x0, x1, x2⟩ := word6 h 0x29 c b a (by decide) hw
  have hd := decode_halves h0 h1
  unfold decode32 at hd
  refine Or.inl (Eq.trans (congrArg (fun W => decode (halves W)) hw) ?_)
  rw [h2, h3] at hd
  refine hd.trans ?_
  show Except.ok (Instr.vmul (hdrOf W) (fld 6 26 W) (fld 6 20 W) (fld 6 14 W)) = _
  rw [h4, x0, x1, x2]
theorem vmulhI (h : Hdr) (c : BitVec 6) (b : BitVec 6) (a : BitVec 6) : Statement (.vmulhI h c b a) := by
  intro _
  generalize hw : (put 26 c (put 20 b (put 14 a (hdrBits h 0x2a 0x0)))) = W
  obtain ⟨h0, h1, h2, h3, h4, x0, x1, x2⟩ := word6 h 0x2a c b a (by decide) hw
  have hd := decode_halves h0 h1
  unfold decode32 at hd
  refine Or.inl (Eq.trans (congrArg (fun W => decode (halves W)) hw) ?_)
  rw [h2, h3] at hd
  refine hd.trans ?_
  show Except.ok (Instr.vmulhI (hdrOf W) (fld 6 26 W) (fld 6 20 W) (fld 6 14 W)) = _
  rw [h4, x0, x1, x2]
theorem vmulhN (h : Hdr) (c : BitVec 6) (b : BitVec 6) (a : BitVec 6) : Statement (.vmulhN h c b a) := by
  intro _
  generalize hw : (put 26 c (put 20 b (put 14 a (hdrBits h 0x2b 0x0)))) = W
  obtain ⟨h0, h1, h2, h3, h4, x0, x1, x2⟩ := word6 h 0x2b c b a (by decide) hw
  have hd := decode_halves h0 h1
  unfold decode32 at hd
  refine Or.inl (Eq.trans (congrArg (fun W => decode (halves W)) hw) ?_)
  rw [h2, h3] at hd
  refine hd.trans ?_
  show Except.ok (Instr.vmulhN (hdrOf W) (fld 6 26 W) (fld 6 20 W) (fld 6 14 W)) = _
  rw [h4, x0, x1, x2]
theorem vmad (h : Hdr) (c : BitVec 6) (b : BitVec 6) (a : BitVec 6) : Statement (.vmad h c b a) := by
  intro _
  generalize hw : (put 26 c (put 20 b (put 14 a (hdrBits h 0x2c 0x0)))) = W
  obtain ⟨h0, h1, h2, h3, h4, x0, x1, x2⟩ := word6 h 0x2c c b a (by decide) hw
  have hd := decode_halves h0 h1
  unfold decode32 at hd
  refine Or.inl (Eq.trans (congrArg (fun W => decode (halves W)) hw) ?_)
  rw [h2, h3] at hd
  refine hd.trans ?_
  show Except.ok (Instr.vmad (hdrOf W) (fld 6 26 W) (fld 6 20 W) (fld 6 14 W)) = _
  rw [h4, x0, x1, x2]
theorem vand (h : Hdr) (c : BitVec 6) (b : BitVec 6) (a : BitVec 6) : Statement (.vand h c b a) := by
  intro _
  generalize hw : (put 26 c (put 20 b (put 14 a (hdrBits h 0x2d 0x0)))) = W
  obtain ⟨h0, h1, h2, h3, h4, x0, x1, x2⟩ := word6 h 0x2d c b a (by decide) hw
  have hd := decode_halves h0 h1
  unfold decode32 at hd
  refine Or.inl (Eq.trans (congrArg (fun W => decode (halves W)) hw) ?_)
  rw [h2, h3] at hd
  refine hd.trans ?_
  show Except.ok (Instr.vand (hdrOf W) (fld 6 26 W) (fld 6 20 W) (fld 6 14 W)) = _
  rw [h4, x0, x1, x2]
theorem vor (h : Hdr) (c : BitVec 6) (b : BitVec 6) (a : BitVec 6) : Statement (.vor h c b a) := by
  intro _
  generalize hw : (put 26 c (put 20 b (put 14 a (hdrBits h 0x2e 0x0)))) = W
  obtain ⟨h0, h1, h2, h3, h4, x0, x1, x2⟩ := word6 h 0x2e c b a (by decide) hw
  have hd := decode_halves h0 h1
  unfold decode32 at hd
  refine Or.inl (Eq.trans (congrArg (fun W => decode (halves W)) hw) ?_)
  rw [h2, h3] at hd
  refine hd.trans ?_
  show Except.ok (Instr.vor (hdrOf W) (fld 6 26 W) (fld 6 20 W) (fld 6 14 W)) = _
  rw [h4, x0, x1, x2]
theorem vxor (h : Hdr) (c : BitVec 6) (b : BitVec 6) (a : BitVec 6) : Statement (.vxor h c b a) := by
  intro _
  generalize hw : (put 26 c (put 20 b (put 14 a (hdrBits h 0x2f 0x0)))) = W
  obtain ⟨h0, h1, h2, h3, h4, x0, x1, x2⟩ := word6 h 0x2f c b a (by decide) hw
  have hd := decode_halves h0 h1
  unfold decode32 at hd
  refine Or.inl (Eq.trans (congrArg (fun W => decode (halves W)) hw) ?_)
  rw [h2, h3] at hd
  refine hd.trans ?_
  show Except.ok (Instr.vxor (hdrOf W) (fld 6 26 W) (fld 6 20 W) (fld 6 14 W)) = _
  rw [h4, x0, x1, x2]
theorem vshl (h : Hdr) (c : BitVec 6) (b : BitVec 6) (a : BitVec 6) : Statement (.vshl h c b a) := by
  intro _
  generalize hw : (put 26 c (put 20 b (put 14 a (hdrBits h 0x30 0x0)))) = W
  obtain ⟨h0, h1, h2, h3, h4, x0, x1, x2⟩ := word6 h 0x30 c b a (by decide) hw
  have hd := decode_halves h0 h1
  unfold decode32 at hd
  refine Or.inl (Eq.trans (congrArg (fun W => decode (halves W)) hw) ?_)
  rw [h2, h3] at hd
  refine hd.trans ?_
  show Except.ok (Instr.vshl (hdrOf W) (fld 6 26 W) (fld 6 20 W) (fld 6 14 W)) = _
  rw [h4, x0, x1, x2]
theorem vshr (h : Hdr) (c : BitVec 6) (b : BitVec 6) (a : BitVec 6) : Statement (.vshr h c b a) := by
  intro _
  generalize hw : (put 26 c (put 20 b (put 14 a (hdrBits h 0x31 0x0)))) = W
  obtain ⟨h0, h1, h2, h3, h4, x0, x1, x2⟩ := word6 h 0x31 c b a (by decide) hw
  have hd := decode_halves h0 h1
  unfold decode32 at hd
  refine Or.inl (Eq.trans (congrArg (fun W => decode (halves W)) hw) ?_)
  rw [h2, h3] at hd
  refine hd.trans ?_
  show Except.ok (Instr.vshr (hdrOf W) (fld 6 26 W) (fld 6 20 W) (fld 6 14 W)) = _
  rw [h4, x0, x1, x2]
theorem vsra (h : Hdr) (c : BitVec 6) (b : BitVec 6) (a : BitVec 6) : Statement (.vsra h c b a) := by
  intro _
  generalize hw : (put 26 c (put 20 b (put 14 a (hdrBits h 0x32 0x0)))) = W
  obtain ⟨h0, h1, h2, h3, h4, x0, x1, x2⟩ := word6 h 0x32 c b a (by decide) hw
  have hd := decode_halves h0 h1
  unfold decode32 at hd
  refine Or.inl (Eq.trans (congrArg (fun W => decode (halves W)) hw) ?_)
  rw [h2, h3] at hd
  refine hd.trans ?_
  show Except.ok (Instr.vsra (hdrOf W) (fld 6 26 W) (fld 6 20 W) (fld 6 14 W)) = _
  rw [h4, x0, x1, x2]
theorem vminI (h : Hdr) (c : BitVec 6) (b : BitVec 6) (a : BitVec 6) : Statement (.vminI h c b a) := by
  intro _
  generalize hw : (put 26 c (put 20 b (put 14 a (hdrBits h 0x33 0x0)))) = W
  obtain ⟨h0, h1, h2, h3, h4, x0, x1, x2⟩ := word6 h 0x33 c b a (by decide) hw
  have hd := decode_halves h0 h1
  unfold decode32 at hd
  refine Or.inl (Eq.trans (congrArg (fun W => decode (halves W)) hw) ?_)
  rw [h2, h3] at hd
  refine hd.trans ?_
  show Except.ok (Instr.vminI (hdrOf W) (fld 6 26 W) (fld 6 20 W) (fld 6 14 W)) = _
  rw [h4, x0, x1, x2]
theorem vmaxI (h : Hdr) (c : BitVec 6) (b : BitVec 6) (a : BitVec 6) : Statement (.vmaxI h c b a) := by
  intro _
  generalize hw : (put 26 c (put 20 b (put 14 a (hdrBits h 0x34 0x0)))) = W
  obtain ⟨h0, h1, h2, h3, h4, x0, x1, x2⟩ := word6 h 0x34 c b a (by decide) hw
  have hd := decode_halves h0 h1
  unfold decode32 at hd
  refine Or.inl (Eq.trans (congrArg (fun W => decode (halves W)) hw) ?_)
  rw [h2, h3] at hd
  refine hd.trans ?_
  show Except.ok (Instr.vmaxI (hdrOf W) (fld 6 26 W) (fld 6 20 W) (fld 6 14 W)) = _
  rw [h4, x0, x1, x2]
theorem vminN (h : Hdr) (c : BitVec 6) (b : BitVec 6) (a : BitVec 6) : Statement (.vminN h c b a) := by
  intro _
  generalize hw : (put 26 c (put 20 b (put 14 a (hdrBits h 0x35 0x0)))) = W
  obtain ⟨h0, h1, h2, h3, h4, x0, x1, x2⟩ := word6 h 0x35 c b a (by decide) hw
  have hd := decode_halves h0 h1
  unfold decode32 at hd
  refine Or.inl (Eq.trans (congrArg (fun W => decode (halves W)) hw) ?_)
  rw [h2, h3] at hd
  refine hd.trans ?_
  show Except.ok (Instr.vminN (hdrOf W) (fld 6 26 W) (fld 6 20 W) (fld 6 14 W)) = _
  rw [h4, x0, x1, x2]
theorem vmaxN (h : Hdr) (c : BitVec 6) (b : BitVec 6) (a : BitVec 6) : Statement (.vmaxN h c b a) := by
  intro _
  generalize hw : (put 26 c (put 20 b (put 14 a (hdrBits h 0x36 0x0)))) = W
  obtain ⟨h0, h1, h2, h3, h4, x0, x1, x2⟩ := word6 h 0x36 c b a (by decide) hw
  have hd := decode_halves h0 h1
  unfold decode32 at hd
  refine Or.inl (Eq.trans (congrArg (fun W => decode (halves W)) hw) ?_)
  rw [h2, h3] at hd
  refine hd.trans ?_
  show Except.ok (Instr.vmaxN (hdrOf W) (fld 6 26 W) (fld 6 20 W) (fld 6 14 W)) = _
  rw [h4, x0, x1, x2]
theorem vaddI64 (h : Hdr) (c : BitVec 6) (b : BitVec 6) (a : BitVec 6) : Statement (.vaddI64 h c b a) := by
  intro _
  generalize hw : (put 26 c (put 20 b (put 14 a (hdrBits h 0x37 0x0)))) = W
  obtain ⟨h0, h1, h2, h3, h4, x0, x1, x2⟩ := word6 h 0x37 c b a (by decide) hw
  have hd := decode_halves h0 h1
  unfold decode32 at hd
  refine Or.inl (Eq.trans (congrArg (fun W => decode (halves W)) hw) ?_)
  rw [h2, h3] at hd
  refine hd.trans ?_
  show Except.ok (Instr.vaddI64 (hdrOf W) (fld 6 26 W) (fld 6 20 W) (fld 6 14 W)) = _
  rw [h4, x0, x1, x2]
theorem vsubI64 (h : Hdr) (c : BitVec 6) (b : BitVec 6) (a : BitVec 6) : Statement (.vsubI64 h c b a) := by
  intro _
  generalize hw : (put 26 c (put 20 b (put 14 a (hdrBits h 0x38 0x0)))) = W
  obtain ⟨h0, h1, h2, h3, h4, x0, x1, x2⟩ := word6 h 0x38 c b a (by decide) hw
  have hd := decode_halves h0 h1
  unfold decode32 at hd
  refine Or.inl (Eq.trans (congrArg (fun W => decode (halves W)) hw) ?_)
  rw [h2, h3] at hd
  refine hd.trans ?_
  show Except.ok (Instr.vsubI64 (hdrOf W) (fld 6 26 W) (fld 6 20 W) (fld 6 14 W)) = _
  rw [h4, x0, x1, x2]
theorem vmadwN (h : Hdr) (c : BitVec 6) (b : BitVec 6) (a : BitVec 6) : Statement (.vmadwN h c b a) := by
  intro _
  generalize hw : (put 26 c (put 20 b (put 14 a (hdrBits h 0x39 0x0)))) = W
  obtain ⟨h0, h1, h2, h3, h4, x0, x1, x2⟩ := word6 h 0x39 c b a (by decide) hw
  have hd := decode_halves h0 h1
  unfold decode32 at hd
  refine Or.inl (Eq.trans (congrArg (fun W => decode (halves W)) hw) ?_)
  rw [h2, h3] at hd
  refine hd.trans ?_
  show Except.ok (Instr.vmadwN (hdrOf W) (fld 6 26 W) (fld 6 20 W) (fld 6 14 W)) = _
  rw [h4, x0, x1, x2]
theorem vdot4I8 (h : Hdr) (c : BitVec 6) (b : BitVec 6) (a : BitVec 6) : Statement (.vdot4I8 h c b a) := by
  intro _
  generalize hw : (put 26 c (put 20 b (put 14 a (hdrBits h 0x3a 0x0)))) = W
  obtain ⟨h0, h1, h2, h3, h4, x0, x1, x2⟩ := word6 h 0x3a c b a (by decide) hw
  have hd := decode_halves h0 h1
  unfold decode32 at hd
  refine Or.inl (Eq.trans (congrArg (fun W => decode (halves W)) hw) ?_)
  rw [h2, h3] at hd
  refine hd.trans ?_
  show Except.ok (Instr.vdot4I8 (hdrOf W) (fld 6 26 W) (fld 6 20 W) (fld 6 14 W)) = _
  rw [h4, x0, x1, x2]
theorem vdot8I4 (h : Hdr) (c : BitVec 6) (b : BitVec 6) (a : BitVec 6) : Statement (.vdot8I4 h c b a) := by
  intro _
  generalize hw : (put 26 c (put 20 b (put 14 a (hdrBits h 0x3b 0x0)))) = W
  obtain ⟨h0, h1, h2, h3, h4, x0, x1, x2⟩ := word6 h 0x3b c b a (by decide) hw
  have hd := decode_halves h0 h1
  unfold decode32 at hd
  refine Or.inl (Eq.trans (congrArg (fun W => decode (halves W)) hw) ?_)
  rw [h2, h3] at hd
  refine hd.trans ?_
  show Except.ok (Instr.vdot8I4 (hdrOf W) (fld 6 26 W) (fld 6 20 W) (fld 6 14 W)) = _
  rw [h4, x0, x1, x2]
theorem vaddi (h : Hdr) (f : BitVec 6) (b : BitVec 6) (a : BitVec 6) : Statement (.vaddi h f b a) := by
  intro _
  generalize hw : (put 26 f (put 20 b (put 14 a (hdrBits h 0x3c 0x0)))) = W
  obtain ⟨h0, h1, h2, h3, h4, x0, x1, x2⟩ := word6 h 0x3c f b a (by decide) hw
  have hd := decode_halves h0 h1
  unfold decode32 at hd
  refine Or.inl (Eq.trans (congrArg (fun W => decode (halves W)) hw) ?_)
  rw [h2, h3] at hd
  refine hd.trans ?_
  show Except.ok (Instr.vaddi (hdrOf W) (fld 6 26 W) (fld 6 20 W) (fld 6 14 W)) = _
  rw [h4, x0, x1, x2]
theorem vshli (h : Hdr) (f : BitVec 6) (b : BitVec 6) (a : BitVec 6) : Statement (.vshli h f b a) := by
  intro _
  generalize hw : (put 26 f (put 20 b (put 14 a (hdrBits h 0x3d 0x0)))) = W
  obtain ⟨h0, h1, h2, h3, h4, x0, x1, x2⟩ := word6 h 0x3d f b a (by decide) hw
  have hd := decode_halves h0 h1
  unfold decode32 at hd
  refine Or.inl (Eq.trans (congrArg (fun W => decode (halves W)) hw) ?_)
  rw [h2, h3] at hd
  refine hd.trans ?_
  show Except.ok (Instr.vshli (hdrOf W) (fld 6 26 W) (fld 6 20 W) (fld 6 14 W)) = _
  rw [h4, x0, x1, x2]
theorem vshri (h : Hdr) (f : BitVec 6) (b : BitVec 6) (a : BitVec 6) : Statement (.vshri h f b a) := by
  intro _
  generalize hw : (put 26 f (put 20 b (put 14 a (hdrBits h 0x3e 0x0)))) = W
  obtain ⟨h0, h1, h2, h3, h4, x0, x1, x2⟩ := word6 h 0x3e f b a (by decide) hw
  have hd := decode_halves h0 h1
  unfold decode32 at hd
  refine Or.inl (Eq.trans (congrArg (fun W => decode (halves W)) hw) ?_)
  rw [h2, h3] at hd
  refine hd.trans ?_
  show Except.ok (Instr.vshri (hdrOf W) (fld 6 26 W) (fld 6 20 W) (fld 6 14 W)) = _
  rw [h4, x0, x1, x2]
theorem vsrai (h : Hdr) (f : BitVec 6) (b : BitVec 6) (a : BitVec 6) : Statement (.vsrai h f b a) := by
  intro _
  generalize hw : (put 26 f (put 20 b (put 14 a (hdrBits h 0x3f 0x0)))) = W
  obtain ⟨h0, h1, h2, h3, h4, x0, x1, x2⟩ := word6 h 0x3f f b a (by decide) hw
  have hd := decode_halves h0 h1
  unfold decode32 at hd
  refine Or.inl (Eq.trans (congrArg (fun W => decode (halves W)) hw) ?_)
  rw [h2, h3] at hd
  refine hd.trans ?_
  show Except.ok (Instr.vsrai (hdrOf W) (fld 6 26 W) (fld 6 20 W) (fld 6 14 W)) = _
  rw [h4, x0, x1, x2]
theorem vmovi (h : Hdr) (i : BitVec 12) (a : BitVec 6) : Statement (.vmovi h i a) := by
  intro _
  generalize hw : (put 20 i (put 14 a (hdrBits h 0x40 0x0))) = W
  obtain ⟨h0, h1, h2, h3, h4, x0, x1⟩ := word4 h 0x40 i a (by decide) hw
  have hd := decode_halves h0 h1
  unfold decode32 at hd
  refine Or.inl (Eq.trans (congrArg (fun W => decode (halves W)) hw) ?_)
  rw [h2, h3] at hd
  refine hd.trans ?_
  show Except.ok (Instr.vmovi (hdrOf W) (fld 12 20 W) (fld 6 14 W)) = _
  rw [h4, x0, x1]
theorem vins (h : Hdr) (i : BitVec 12) (a : BitVec 6) : Statement (.vins h i a) := by
  intro _
  generalize hw : (put 20 i (put 14 a (hdrBits h 0x41 0x0))) = W
  obtain ⟨h0, h1, h2, h3, h4, x0, x1⟩ := word4 h 0x41 i a (by decide) hw
  have hd := decode_halves h0 h1
  unfold decode32 at hd
  refine Or.inl (Eq.trans (congrArg (fun W => decode (halves W)) hw) ?_)
  rw [h2, h3] at hd
  refine hd.trans ?_
  show Except.ok (Instr.vins (hdrOf W) (fld 12 20 W) (fld 6 14 W)) = _
  rw [h4, x0, x1]
theorem vcmp (h : Hdr) (c : BitVec 6) (b : BitVec 6) (n : BitVec 3) (p : BitVec 3) : Statement (.vcmp h c b n p) := by
  intro _
  generalize hw : (put 26 c (put 20 b (put 17 n (put 14 p (hdrBits h 0x42 0x0))))) = W
  obtain ⟨h0, h1, h2, h3, h4, x0, x1, x2, x3⟩ := word7 h 0x42 c b n p (by decide) hw
  have hd := decode_halves h0 h1
  unfold decode32 at hd
  refine Or.inl (Eq.trans (congrArg (fun W => decode (halves W)) hw) ?_)
  rw [h2, h3] at hd
  refine hd.trans ?_
  show Except.ok (Instr.vcmp (hdrOf W) (fld 6 26 W) (fld 6 20 W) (fld 3 17 W) (fld 3 14 W)) = _
  rw [h4, x0, x1, x2, x3]
theorem vsel (h : Hdr) (c : BitVec 6) (b : BitVec 6) (a : BitVec 6) : Statement (.vsel h c b a) := by
  intro _
  generalize hw : (put 26 c (put 20 b (put 14 a (hdrBits h 0x43 0x0)))) = W
  obtain ⟨h0, h1, h2, h3, h4, x0, x1, x2⟩ := word6 h 0x43 c b a (by decide) hw
  have hd := decode_halves h0 h1
  unfold decode32 at hd
  refine Or.inl (Eq.trans (congrArg (fun W => decode (halves W)) hw) ?_)
  rw [h2, h3] at hd
  refine hd.trans ?_
  show Except.ok (Instr.vsel (hdrOf W) (fld 6 26 W) (fld 6 20 W) (fld 6 14 W)) = _
  rw [h4, x0, x1, x2]
theorem vunary (h : Hdr) (f : BitVec 6) (b : BitVec 6) (a : BitVec 6) : Statement (.vunary h f b a) := by
  intro _
  generalize hw : (put 26 f (put 20 b (put 14 a (hdrBits h 0x44 0x0)))) = W
  obtain ⟨h0, h1, h2, h3, h4, x0, x1, x2⟩ := word6 h 0x44 f b a (by decide) hw
  have hd := decode_halves h0 h1
  unfold decode32 at hd
  refine Or.inl (Eq.trans (congrArg (fun W => decode (halves W)) hw) ?_)
  rw [h2, h3] at hd
  refine hd.trans ?_
  show Except.ok (Instr.vunary (hdrOf W) (fld 6 26 W) (fld 6 20 W) (fld 6 14 W)) = _
  rw [h4, x0, x1, x2]
theorem vbcst (h : Hdr) (f : BitVec 6) (b : BitVec 6) (a : BitVec 6) : Statement (.vbcst h f b a) := by
  intro _
  generalize hw : (put 26 f (put 20 b (put 14 a (hdrBits h 0x45 0x0)))) = W
  obtain ⟨h0, h1, h2, h3, h4, x0, x1, x2⟩ := word6 h 0x45 f b a (by decide) hw
  have hd := decode_halves h0 h1
  unfold decode32 at hd
  refine Or.inl (Eq.trans (congrArg (fun W => decode (halves W)) hw) ?_)
  rw [h2, h3] at hd
  refine hd.trans ?_
  show Except.ok (Instr.vbcst (hdrOf W) (fld 6 26 W) (fld 6 20 W) (fld 6 14 W)) = _
  rw [h4, x0, x1, x2]
theorem vfadd (h : Hdr) (c : BitVec 6) (b : BitVec 6) (a : BitVec 6) : Statement (.vfadd h c b a) := by
  intro _
  generalize hw : (put 26 c (put 20 b (put 14 a (hdrBits h 0x46 0x0)))) = W
  obtain ⟨h0, h1, h2, h3, h4, x0, x1, x2⟩ := word6 h 0x46 c b a (by decide) hw
  have hd := decode_halves h0 h1
  unfold decode32 at hd
  refine Or.inl (Eq.trans (congrArg (fun W => decode (halves W)) hw) ?_)
  rw [h2, h3] at hd
  refine hd.trans ?_
  show Except.ok (Instr.vfadd (hdrOf W) (fld 6 26 W) (fld 6 20 W) (fld 6 14 W)) = _
  rw [h4, x0, x1, x2]
theorem vfsub (h : Hdr) (c : BitVec 6) (b : BitVec 6) (a : BitVec 6) : Statement (.vfsub h c b a) := by
  intro _
  generalize hw : (put 26 c (put 20 b (put 14 a (hdrBits h 0x47 0x0)))) = W
  obtain ⟨h0, h1, h2, h3, h4, x0, x1, x2⟩ := word6 h 0x47 c b a (by decide) hw
  have hd := decode_halves h0 h1
  unfold decode32 at hd
  refine Or.inl (Eq.trans (congrArg (fun W => decode (halves W)) hw) ?_)
  rw [h2, h3] at hd
  refine hd.trans ?_
  show Except.ok (Instr.vfsub (hdrOf W) (fld 6 26 W) (fld 6 20 W) (fld 6 14 W)) = _
  rw [h4, x0, x1, x2]
theorem vfmul (h : Hdr) (c : BitVec 6) (b : BitVec 6) (a : BitVec 6) : Statement (.vfmul h c b a) := by
  intro _
  generalize hw : (put 26 c (put 20 b (put 14 a (hdrBits h 0x48 0x0)))) = W
  obtain ⟨h0, h1, h2, h3, h4, x0, x1, x2⟩ := word6 h 0x48 c b a (by decide) hw
  have hd := decode_halves h0 h1
  unfold decode32 at hd
  refine Or.inl (Eq.trans (congrArg (fun W => decode (halves W)) hw) ?_)
  rw [h2, h3] at hd
  refine hd.trans ?_
  show Except.ok (Instr.vfmul (hdrOf W) (fld 6 26 W) (fld 6 20 W) (fld 6 14 W)) = _
  rw [h4, x0, x1, x2]
theorem vffma (h : Hdr) (c : BitVec 6) (b : BitVec 6) (a : BitVec 6) : Statement (.vffma h c b a) := by
  intro _
  generalize hw : (put 26 c (put 20 b (put 14 a (hdrBits h 0x49 0x0)))) = W
  obtain ⟨h0, h1, h2, h3, h4, x0, x1, x2⟩ := word6 h 0x49 c b a (by decide) hw
  have hd := decode_halves h0 h1
  unfold decode32 at hd
  refine Or.inl (Eq.trans (congrArg (fun W => decode (halves W)) hw) ?_)
  rw [h2, h3] at hd
  refine hd.trans ?_
  show Except.ok (Instr.vffma (hdrOf W) (fld 6 26 W) (fld 6 20 W) (fld 6 14 W)) = _
  rw [h4, x0, x1, x2]
theorem vfmin (h : Hdr) (c : BitVec 6) (b : BitVec 6) (a : BitVec 6) : Statement (.vfmin h c b a) := by
  intro _
  generalize hw : (put 26 c (put 20 b (put 14 a (hdrBits h 0x4a 0x0)))) = W
  obtain ⟨h0, h1, h2, h3, h4, x0, x1, x2⟩ := word6 h 0x4a c b a (by decide) hw
  have hd := decode_halves h0 h1
  unfold decode32 at hd
  refine Or.inl (Eq.trans (congrArg (fun W => decode (halves W)) hw) ?_)
  rw [h2, h3] at hd
  refine hd.trans ?_
  show Except.ok (Instr.vfmin (hdrOf W) (fld 6 26 W) (fld 6 20 W) (fld 6 14 W)) = _
  rw [h4, x0, x1, x2]
theorem vfmax (h : Hdr) (c : BitVec 6) (b : BitVec 6) (a : BitVec 6) : Statement (.vfmax h c b a) := by
  intro _
  generalize hw : (put 26 c (put 20 b (put 14 a (hdrBits h 0x4b 0x0)))) = W
  obtain ⟨h0, h1, h2, h3, h4, x0, x1, x2⟩ := word6 h 0x4b c b a (by decide) hw
  have hd := decode_halves h0 h1
  unfold decode32 at hd
  refine Or.inl (Eq.trans (congrArg (fun W => decode (halves W)) hw) ?_)
  rw [h2, h3] at hd
  refine hd.trans ?_
  show Except.ok (Instr.vfmax (hdrOf W) (fld 6 26 W) (fld 6 20 W) (fld 6 14 W)) = _
  rw [h4, x0, x1, x2]
theorem vfaddF64 (h : Hdr) (c : BitVec 6) (b : BitVec 6) (a : BitVec 6) : Statement (.vfaddF64 h c b a) := by
  intro _
  generalize hw : (put 26 c (put 20 b (put 14 a (hdrBits h 0x4c 0x0)))) = W
  obtain ⟨h0, h1, h2, h3, h4, x0, x1, x2⟩ := word6 h 0x4c c b a (by decide) hw
  have hd := decode_halves h0 h1
  unfold decode32 at hd
  refine Or.inl (Eq.trans (congrArg (fun W => decode (halves W)) hw) ?_)
  rw [h2, h3] at hd
  refine hd.trans ?_
  show Except.ok (Instr.vfaddF64 (hdrOf W) (fld 6 26 W) (fld 6 20 W) (fld 6 14 W)) = _
  rw [h4, x0, x1, x2]
theorem vfmulF64 (h : Hdr) (c : BitVec 6) (b : BitVec 6) (a : BitVec 6) : Statement (.vfmulF64 h c b a) := by
  intro _
  generalize hw : (put 26 c (put 20 b (put 14 a (hdrBits h 0x4d 0x0)))) = W
  obtain ⟨h0, h1, h2, h3, h4, x0, x1, x2⟩ := word6 h 0x4d c b a (by decide) hw
  have hd := decode_halves h0 h1
  unfold decode32 at hd
  refine Or.inl (Eq.trans (congrArg (fun W => decode (halves W)) hw) ?_)
  rw [h2, h3] at hd
  refine hd.trans ?_
  show Except.ok (Instr.vfmulF64 (hdrOf W) (fld 6 26 W) (fld 6 20 W) (fld 6 14 W)) = _
  rw [h4, x0, x1, x2]
theorem vffmaF64 (h : Hdr) (c : BitVec 6) (b : BitVec 6) (a : BitVec 6) : Statement (.vffmaF64 h c b a) := by
  intro _
  generalize hw : (put 26 c (put 20 b (put 14 a (hdrBits h 0x4e 0x0)))) = W
  obtain ⟨h0, h1, h2, h3, h4, x0, x1, x2⟩ := word6 h 0x4e c b a (by decide) hw
  have hd := decode_halves h0 h1
  unfold decode32 at hd
  refine Or.inl (Eq.trans (congrArg (fun W => decode (halves W)) hw) ?_)
  rw [h2, h3] at hd
  refine hd.trans ?_
  show Except.ok (Instr.vffmaF64 (hdrOf W) (fld 6 26 W) (fld 6 20 W) (fld 6 14 W)) = _
  rw [h4, x0, x1, x2]
theorem vfaddH2 (h : Hdr) (c : BitVec 6) (b : BitVec 6) (a : BitVec 6) : Statement (.vfaddH2 h c b a) := by
  intro _
  generalize hw : (put 26 c (put 20 b (put 14 a (hdrBits h 0x4f 0x0)))) = W
  obtain ⟨h0, h1, h2, h3, h4, x0, x1, x2⟩ := word6 h 0x4f c b a (by decide) hw
  have hd := decode_halves h0 h1
  unfold decode32 at hd
  refine Or.inl (Eq.trans (congrArg (fun W => decode (halves W)) hw) ?_)
  rw [h2, h3] at hd
  refine hd.trans ?_
  show Except.ok (Instr.vfaddH2 (hdrOf W) (fld 6 26 W) (fld 6 20 W) (fld 6 14 W)) = _
  rw [h4, x0, x1, x2]
theorem vfmulH2 (h : Hdr) (c : BitVec 6) (b : BitVec 6) (a : BitVec 6) : Statement (.vfmulH2 h c b a) := by
  intro _
  generalize hw : (put 26 c (put 20 b (put 14 a (hdrBits h 0x50 0x0)))) = W
  obtain ⟨h0, h1, h2, h3, h4, x0, x1, x2⟩ := word6 h 0x50 c b a (by decide) hw
  have hd := decode_halves h0 h1
  unfold decode32 at hd
  refine Or.inl (Eq.trans (congrArg (fun W => decode (halves W)) hw) ?_)
  rw [h2, h3] at hd
  refine hd.trans ?_
  show Except.ok (Instr.vfmulH2 (hdrOf W) (fld 6 26 W) (fld 6 20 W) (fld 6 14 W)) = _
  rw [h4, x0, x1, x2]
theorem vffmaH2 (h : Hdr) (c : BitVec 6) (b : BitVec 6) (a : BitVec 6) : Statement (.vffmaH2 h c b a) := by
  intro _
  generalize hw : (put 26 c (put 20 b (put 14 a (hdrBits h 0x51 0x0)))) = W
  obtain ⟨h0, h1, h2, h3, h4, x0, x1, x2⟩ := word6 h 0x51 c b a (by decide) hw
  have hd := decode_halves h0 h1
  unfold decode32 at hd
  refine Or.inl (Eq.trans (congrArg (fun W => decode (halves W)) hw) ?_)
  rw [h2, h3] at hd
  refine hd.trans ?_
  show Except.ok (Instr.vffmaH2 (hdrOf W) (fld 6 26 W) (fld 6 20 W) (fld 6 14 W)) = _
  rw [h4, x0, x1, x2]
theorem vfdot2Bh (h : Hdr) (c : BitVec 6) (b : BitVec 6) (a : BitVec 6) : Statement (.vfdot2Bh h c b a) := by
  intro _
  generalize hw : (put 26 c (put 20 b (put 14 a (hdrBits h 0x52 0x0)))) = W
  obtain ⟨h0, h1, h2, h3, h4, x0, x1, x2⟩ := word6 h 0x52 c b a (by decide) hw
  have hd := decode_halves h0 h1
  unfold decode32 at hd
  refine Or.inl (Eq.trans (congrArg (fun W => decode (halves W)) hw) ?_)
  rw [h2, h3] at hd
  refine hd.trans ?_
  show Except.ok (Instr.vfdot2Bh (hdrOf W) (fld 6 26 W) (fld 6 20 W) (fld 6 14 W)) = _
  rw [h4, x0, x1, x2]
theorem vfcmp (h : Hdr) (c : BitVec 6) (b : BitVec 6) (n : BitVec 3) (p : BitVec 3) : Statement (.vfcmp h c b n p) := by
  intro _
  generalize hw : (put 26 c (put 20 b (put 17 n (put 14 p (hdrBits h 0x53 0x0))))) = W
  obtain ⟨h0, h1, h2, h3, h4, x0, x1, x2, x3⟩ := word7 h 0x53 c b n p (by decide) hw
  have hd := decode_halves h0 h1
  unfold decode32 at hd
  refine Or.inl (Eq.trans (congrArg (fun W => decode (halves W)) hw) ?_)
  rw [h2, h3] at hd
  refine hd.trans ?_
  show Except.ok (Instr.vfcmp (hdrOf W) (fld 6 26 W) (fld 6 20 W) (fld 3 17 W) (fld 3 14 W)) = _
  rw [h4, x0, x1, x2, x3]
theorem vfcmpF64 (h : Hdr) (c : BitVec 6) (b : BitVec 6) (n : BitVec 3) (p : BitVec 3) : Statement (.vfcmpF64 h c b n p) := by
  intro _
  generalize hw : (put 26 c (put 20 b (put 17 n (put 14 p (hdrBits h 0x54 0x0))))) = W
  obtain ⟨h0, h1, h2, h3, h4, x0, x1, x2, x3⟩ := word7 h 0x54 c b n p (by decide) hw
  have hd := decode_halves h0 h1
  unfold decode32 at hd
  refine Or.inl (Eq.trans (congrArg (fun W => decode (halves W)) hw) ?_)
  rw [h2, h3] at hd
  refine hd.trans ?_
  show Except.ok (Instr.vfcmpF64 (hdrOf W) (fld 6 26 W) (fld 6 20 W) (fld 3 17 W) (fld 3 14 W)) = _
  rw [h4, x0, x1, x2, x3]
theorem vfunary (h : Hdr) (f : BitVec 6) (b : BitVec 6) (a : BitVec 6) : Statement (.vfunary h f b a) := by
  intro _
  generalize hw : (put 26 f (put 20 b (put 14 a (hdrBits h 0x55 0x0)))) = W
  obtain ⟨h0, h1, h2, h3, h4, x0, x1, x2⟩ := word6 h 0x55 f b a (by decide) hw
  have hd := decode_halves h0 h1
  unfold decode32 at hd
  refine Or.inl (Eq.trans (congrArg (fun W => decode (halves W)) hw) ?_)
  rw [h2, h3] at hd
  refine hd.trans ?_
  show Except.ok (Instr.vfunary (hdrOf W) (fld 6 26 W) (fld 6 20 W) (fld 6 14 W)) = _
  rw [h4, x0, x1, x2]
theorem vfdiv (h : Hdr) (c : BitVec 6) (b : BitVec 6) (a : BitVec 6) : Statement (.vfdiv h c b a) := by
  intro _
  generalize hw : (put 26 c (put 20 b (put 14 a (hdrBits h 0x56 0x0)))) = W
  obtain ⟨h0, h1, h2, h3, h4, x0, x1, x2⟩ := word6 h 0x56 c b a (by decide) hw
  have hd := decode_halves h0 h1
  unfold decode32 at hd
  refine Or.inl (Eq.trans (congrArg (fun W => decode (halves W)) hw) ?_)
  rw [h2, h3] at hd
  refine hd.trans ?_
  show Except.ok (Instr.vfdiv (hdrOf W) (fld 6 26 W) (fld 6 20 W) (fld 6 14 W)) = _
  rw [h4, x0, x1, x2]
theorem vfdivF64 (h : Hdr) (c : BitVec 6) (b : BitVec 6) (a : BitVec 6) : Statement (.vfdivF64 h c b a) := by
  intro _
  generalize hw : (put 26 c (put 20 b (put 14 a (hdrBits h 0x57 0x0)))) = W
  obtain ⟨h0, h1, h2, h3, h4, x0, x1, x2⟩ := word6 h 0x57 c b a (by decide) hw
  have hd := decode_halves h0 h1
  unfold decode32 at hd
  refine Or.inl (Eq.trans (congrArg (fun W => decode (halves W)) hw) ?_)
  rw [h2, h3] at hd
  refine hd.trans ?_
  show Except.ok (Instr.vfdivF64 (hdrOf W) (fld 6 26 W) (fld 6 20 W) (fld 6 14 W)) = _
  rw [h4, x0, x1, x2]
theorem vcvt (h : Hdr) (f : BitVec 6) (b : BitVec 6) (a : BitVec 6) : Statement (.vcvt h f b a) := by
  intro _
  generalize hw : (put 26 f (put 20 b (put 14 a (hdrBits h 0x58 0x0)))) = W
  obtain ⟨h0, h1, h2, h3, h4, x0, x1, x2⟩ := word6 h 0x58 f b a (by decide) hw
  have hd := decode_halves h0 h1
  unfold decode32 at hd
  refine Or.inl (Eq.trans (congrArg (fun W => decode (halves W)) hw) ?_)
  rw [h2, h3] at hd
  refine hd.trans ?_
  show Except.ok (Instr.vcvt (hdrOf W) (fld 6 26 W) (fld 6 20 W) (fld 6 14 W)) = _
  rw [h4, x0, x1, x2]
theorem vpkH2 (h : Hdr) (c : BitVec 6) (b : BitVec 6) (a : BitVec 6) : Statement (.vpkH2 h c b a) := by
  intro _
  generalize hw : (put 26 c (put 20 b (put 14 a (hdrBits h 0x59 0x0)))) = W
  obtain ⟨h0, h1, h2, h3, h4, x0, x1, x2⟩ := word6 h 0x59 c b a (by decide) hw
  have hd := decode_halves h0 h1
  unfold decode32 at hd
  refine Or.inl (Eq.trans (congrArg (fun W => decode (halves W)) hw) ?_)
  rw [h2, h3] at hd
  refine hd.trans ?_
  show Except.ok (Instr.vpkH2 (hdrOf W) (fld 6 26 W) (fld 6 20 W) (fld 6 14 W)) = _
  rw [h4, x0, x1, x2]
theorem vpkBh2 (h : Hdr) (c : BitVec 6) (b : BitVec 6) (a : BitVec 6) : Statement (.vpkBh2 h c b a) := by
  intro _
  generalize hw : (put 26 c (put 20 b (put 14 a (hdrBits h 0x5a 0x0)))) = W
  obtain ⟨h0, h1, h2, h3, h4, x0, x1, x2⟩ := word6 h 0x5a c b a (by decide) hw
  have hd := decode_halves h0 h1
  unfold decode32 at hd
  refine Or.inl (Eq.trans (congrArg (fun W => decode (halves W)) hw) ?_)
  rw [h2, h3] at hd
  refine hd.trans ?_
  show Except.ok (Instr.vpkBh2 (hdrOf W) (fld 6 26 W) (fld 6 20 W) (fld 6 14 W)) = _
  rw [h4, x0, x1, x2]
theorem vpkI16 (h : Hdr) (c : BitVec 6) (b : BitVec 6) (a : BitVec 6) : Statement (.vpkI16 h c b a) := by
  intro _
  generalize hw : (put 26 c (put 20 b (put 14 a (hdrBits h 0x5b 0x0)))) = W
  obtain ⟨h0, h1, h2, h3, h4, x0, x1, x2⟩ := word6 h 0x5b c b a (by decide) hw
  have hd := decode_halves h0 h1
  unfold decode32 at hd
  refine Or.inl (Eq.trans (congrArg (fun W => decode (halves W)) hw) ?_)
  rw [h2, h3] at hd
  refine hd.trans ?_
  show Except.ok (Instr.vpkI16 (hdrOf W) (fld 6 26 W) (fld 6 20 W) (fld 6 14 W)) = _
  rw [h4, x0, x1, x2]
theorem plog (h : Hdr) (q : BitVec 3) (p : BitVec 3) (o : BitVec 3) (d : BitVec 3) : Statement (.plog h q p o d) := by
  intro _
  generalize hw : (put 23 q (put 20 p (put 17 o (put 14 d (hdrBits h 0x5c 0x0))))) = W
  obtain ⟨h0, h1, h2, h3, h4, f0, x0, x1, x2, x3⟩ := word9 h 0x5c q p o d (by decide) hw
  have hd := decode_halves h0 h1
  unfold decode32 at hd
  refine Or.inl (Eq.trans (congrArg (fun W => decode (halves W)) hw) ?_)
  rw [h2, h3] at hd
  rw [f0] at hd
  refine hd.trans ?_
  show Except.ok (Instr.plog (hdrOf W) (fld 3 23 W) (fld 3 20 W) (fld 3 17 W) (fld 3 14 W)) = _
  rw [h4, x0, x1, x2, x3]
theorem klog (h : Hdr) (q : BitVec 3) (p : BitVec 3) (o : BitVec 3) (d : BitVec 3) : Statement (.klog h q p o d) := by
  intro _
  generalize hw : (put 23 q (put 20 p (put 17 o (put 14 d (hdrBits h 0x5d 0x0))))) = W
  obtain ⟨h0, h1, h2, h3, h4, f0, x0, x1, x2, x3⟩ := word9 h 0x5d q p o d (by decide) hw
  have hd := decode_halves h0 h1
  unfold decode32 at hd
  refine Or.inl (Eq.trans (congrArg (fun W => decode (halves W)) hw) ?_)
  rw [h2, h3] at hd
  rw [f0] at hd
  refine hd.trans ?_
  show Except.ok (Instr.klog (hdrOf W) (fld 3 23 W) (fld 3 20 W) (fld 3 17 W) (fld 3 14 W)) = _
  rw [h4, x0, x1, x2, x3]
theorem vote (h : Hdr) (o : BitVec 3) (p : BitVec 3) (a : BitVec 6) : Statement (.vote h o p a) := by
  intro _
  generalize hw : (put 29 o (put 26 p (put 14 a (hdrBits h 0x5e 0x0)))) = W
  obtain ⟨h0, h1, h2, h3, h4, f0, x0, x1, x2⟩ := word10 h 0x5e o p a (by decide) hw
  have hd := decode_halves h0 h1
  unfold decode32 at hd
  refine Or.inl (Eq.trans (congrArg (fun W => decode (halves W)) hw) ?_)
  rw [h2, h3] at hd
  rw [f0] at hd
  refine hd.trans ?_
  show Except.ok (Instr.vote (hdrOf W) (fld 3 29 W) (fld 3 26 W) (fld 6 14 W)) = _
  rw [h4, x0, x1, x2]
theorem vshfl (h : Hdr) (c : BitVec 6) (b : BitVec 6) (a : BitVec 6) : Statement (.vshfl h c b a) := by
  intro _
  generalize hw : (put 26 c (put 20 b (put 14 a (hdrBits h 0x5f 0x0)))) = W
  obtain ⟨h0, h1, h2, h3, h4, x0, x1, x2⟩ := word6 h 0x5f c b a (by decide) hw
  have hd := decode_halves h0 h1
  unfold decode32 at hd
  refine Or.inl (Eq.trans (congrArg (fun W => decode (halves W)) hw) ?_)
  rw [h2, h3] at hd
  refine hd.trans ?_
  show Except.ok (Instr.vshfl (hdrOf W) (fld 6 26 W) (fld 6 20 W) (fld 6 14 W)) = _
  rw [h4, x0, x1, x2]
theorem vxorl (h : Hdr) (f : BitVec 6) (b : BitVec 6) (a : BitVec 6) : Statement (.vxorl h f b a) := by
  intro _
  generalize hw : (put 26 f (put 20 b (put 14 a (hdrBits h 0x60 0x0)))) = W
  obtain ⟨h0, h1, h2, h3, h4, x0, x1, x2⟩ := word6 h 0x60 f b a (by decide) hw
  have hd := decode_halves h0 h1
  unfold decode32 at hd
  refine Or.inl (Eq.trans (congrArg (fun W => decode (halves W)) hw) ?_)
  rw [h2, h3] at hd
  refine hd.trans ?_
  show Except.ok (Instr.vxorl (hdrOf W) (fld 6 26 W) (fld 6 20 W) (fld 6 14 W)) = _
  rw [h4, x0, x1, x2]
theorem vrotl (h : Hdr) (f : BitVec 6) (b : BitVec 6) (a : BitVec 6) : Statement (.vrotl h f b a) := by
  intro _
  generalize hw : (put 26 f (put 20 b (put 14 a (hdrBits h 0x61 0x0)))) = W
  obtain ⟨h0, h1, h2, h3, h4, x0, x1, x2⟩ := word6 h 0x61 f b a (by decide) hw
  have hd := decode_halves h0 h1
  unfold decode32 at hd
  refine Or.inl (Eq.trans (congrArg (fun W => decode (halves W)) hw) ?_)
  rw [h2, h3] at hd
  refine hd.trans ?_
  show Except.ok (Instr.vrotl (hdrOf W) (fld 6 26 W) (fld 6 20 W) (fld 6 14 W)) = _
  rw [h4, x0, x1, x2]
theorem vredu (h : Hdr) (f : BitVec 6) (b : BitVec 6) (a : BitVec 6) : Statement (.vredu h f b a) := by
  intro _
  generalize hw : (put 26 f (put 20 b (put 14 a (hdrBits h 0x62 0x0)))) = W
  obtain ⟨h0, h1, h2, h3, h4, x0, x1, x2⟩ := word6 h 0x62 f b a (by decide) hw
  have hd := decode_halves h0 h1
  unfold decode32 at hd
  refine Or.inl (Eq.trans (congrArg (fun W => decode (halves W)) hw) ?_)
  rw [h2, h3] at hd
  refine hd.trans ?_
  show Except.ok (Instr.vredu (hdrOf W) (fld 6 26 W) (fld 6 20 W) (fld 6 14 W)) = _
  rw [h4, x0, x1, x2]
theorem vscan (h : Hdr) (f : BitVec 6) (b : BitVec 6) (a : BitVec 6) : Statement (.vscan h f b a) := by
  intro _
  generalize hw : (put 26 f (put 20 b (put 14 a (hdrBits h 0x63 0x0)))) = W
  obtain ⟨h0, h1, h2, h3, h4, x0, x1, x2⟩ := word6 h 0x63 f b a (by decide) hw
  have hd := decode_halves h0 h1
  unfold decode32 at hd
  refine Or.inl (Eq.trans (congrArg (fun W => decode (halves W)) hw) ?_)
  rw [h2, h3] at hd
  refine hd.trans ?_
  show Except.ok (Instr.vscan (hdrOf W) (fld 6 26 W) (fld 6 20 W) (fld 6 14 W)) = _
  rw [h4, x0, x1, x2]
theorem vrd (h : Hdr) (i : BitVec 12) (a : BitVec 6) : Statement (.vrd h i a) := by
  intro _
  generalize hw : (put 20 i (put 14 a (hdrBits h 0x64 0x0))) = W
  obtain ⟨h0, h1, h2, h3, h4, x0, x1⟩ := word4 h 0x64 i a (by decide) hw
  have hd := decode_halves h0 h1
  unfold decode32 at hd
  refine Or.inl (Eq.trans (congrArg (fun W => decode (halves W)) hw) ?_)
  rw [h2, h3] at hd
  refine hd.trans ?_
  show Except.ok (Instr.vrd (hdrOf W) (fld 12 20 W) (fld 6 14 W)) = _
  rw [h4, x0, x1]
theorem vld (h : Hdr) (z : BitVec 3) (w : BitVec 3) (b : BitVec 6) (a : BitVec 6) : Statement (.vld h z w b a) := by
  intro _
  generalize hw : (put 29 z (put 26 w (put 20 b (put 14 a (hdrBits h 0x65 0x0))))) = W
  obtain ⟨h0, h1, h2, h3, h4, x0, x1, x2, x3⟩ := word11 h 0x65 z w b a (by decide) hw
  have hd := decode_halves h0 h1
  unfold decode32 at hd
  refine Or.inl (Eq.trans (congrArg (fun W => decode (halves W)) hw) ?_)
  rw [h2, h3] at hd
  refine hd.trans ?_
  show Except.ok (Instr.vld (hdrOf W) (fld 3 29 W) (fld 3 26 W) (fld 6 20 W) (fld 6 14 W)) = _
  rw [h4, x0, x1, x2, x3]
theorem vst (h : Hdr) (z : BitVec 3) (w : BitVec 3) (b : BitVec 6) (a : BitVec 6) : Statement (.vst h z w b a) := by
  intro _
  generalize hw : (put 29 z (put 26 w (put 20 b (put 14 a (hdrBits h 0x66 0x0))))) = W
  obtain ⟨h0, h1, h2, h3, h4, x0, x1, x2, x3⟩ := word11 h 0x66 z w b a (by decide) hw
  have hd := decode_halves h0 h1
  unfold decode32 at hd
  refine Or.inl (Eq.trans (congrArg (fun W => decode (halves W)) hw) ?_)
  rw [h2, h3] at hd
  refine hd.trans ?_
  show Except.ok (Instr.vst (hdrOf W) (fld 3 29 W) (fld 3 26 W) (fld 6 20 W) (fld 6 14 W)) = _
  rw [h4, x0, x1, x2, x3]
theorem lds (h : Hdr) (z : BitVec 3) (w : BitVec 3) (b : BitVec 6) (a : BitVec 6) : Statement (.lds h z w b a) := by
  intro _
  generalize hw : (put 29 z (put 26 w (put 20 b (put 14 a (hdrBits h 0x67 0x0))))) = W
  obtain ⟨h0, h1, h2, h3, h4, x0, x1, x2, x3⟩ := word11 h 0x67 z w b a (by decide) hw
  have hd := decode_halves h0 h1
  unfold decode32 at hd
  refine Or.inl (Eq.trans (congrArg (fun W => decode (halves W)) hw) ?_)
  rw [h2, h3] at hd
  refine hd.trans ?_
  show Except.ok (Instr.lds (hdrOf W) (fld 3 29 W) (fld 3 26 W) (fld 6 20 W) (fld 6 14 W)) = _
  rw [h4, x0, x1, x2, x3]
theorem sts (h : Hdr) (z : BitVec 3) (w : BitVec 3) (b : BitVec 6) (a : BitVec 6) : Statement (.sts h z w b a) := by
  intro _
  generalize hw : (put 29 z (put 26 w (put 20 b (put 14 a (hdrBits h 0x68 0x0))))) = W
  obtain ⟨h0, h1, h2, h3, h4, x0, x1, x2, x3⟩ := word11 h 0x68 z w b a (by decide) hw
  have hd := decode_halves h0 h1
  unfold decode32 at hd
  refine Or.inl (Eq.trans (congrArg (fun W => decode (halves W)) hw) ?_)
  rw [h2, h3] at hd
  refine hd.trans ?_
  show Except.ok (Instr.sts (hdrOf W) (fld 3 29 W) (fld 3 26 W) (fld 6 20 W) (fld 6 14 W)) = _
  rw [h4, x0, x1, x2, x3]
theorem sld (h : Hdr) (f : BitVec 6) (b : BitVec 6) (a : BitVec 6) : Statement (.sld h f b a) := by
  intro _
  generalize hw : (put 26 f (put 20 b (put 14 a (hdrBits h 0x69 0x0)))) = W
  obtain ⟨h0, h1, h2, h3, h4, x0, x1, x2⟩ := word6 h 0x69 f b a (by decide) hw
  have hd := decode_halves h0 h1
  unfold decode32 at hd
  refine Or.inl (Eq.trans (congrArg (fun W => decode (halves W)) hw) ?_)
  rw [h2, h3] at hd
  refine hd.trans ?_
  show Except.ok (Instr.sld (hdrOf W) (fld 6 26 W) (fld 6 20 W) (fld 6 14 W)) = _
  rw [h4, x0, x1, x2]
theorem sst (h : Hdr) (f : BitVec 6) (b : BitVec 6) (a : BitVec 6) : Statement (.sst h f b a) := by
  intro _
  generalize hw : (put 26 f (put 20 b (put 14 a (hdrBits h 0x6a 0x0)))) = W
  obtain ⟨h0, h1, h2, h3, h4, x0, x1, x2⟩ := word6 h 0x6a f b a (by decide) hw
  have hd := decode_halves h0 h1
  unfold decode32 at hd
  refine Or.inl (Eq.trans (congrArg (fun W => decode (halves W)) hw) ?_)
  rw [h2, h3] at hd
  refine hd.trans ?_
  show Except.ok (Instr.sst (hdrOf W) (fld 6 26 W) (fld 6 20 W) (fld 6 14 W)) = _
  rw [h4, x0, x1, x2]
theorem vatom (h : Hdr) (z : BitVec 3) (w : BitVec 3) (b : BitVec 6) (a : BitVec 6) : Statement (.vatom h z w b a) := by
  intro _
  generalize hw : (put 29 z (put 26 w (put 20 b (put 14 a (hdrBits h 0x6b 0x0))))) = W
  obtain ⟨h0, h1, h2, h3, h4, x0, x1, x2, x3⟩ := word11 h 0x6b z w b a (by decide) hw
  have hd := decode_halves h0 h1
  unfold decode32 at hd
  refine Or.inl (Eq.trans (congrArg (fun W => decode (halves W)) hw) ?_)
  rw [h2, h3] at hd
  refine hd.trans ?_
  show Except.ok (Instr.vatom (hdrOf W) (fld 3 29 W) (fld 3 26 W) (fld 6 20 W) (fld 6 14 W)) = _
  rw [h4, x0, x1, x2, x3]
theorem vcas (h : Hdr) (z : BitVec 3) (w : BitVec 3) (b : BitVec 6) (a : BitVec 6) : Statement (.vcas h z w b a) := by
  intro _
  generalize hw : (put 29 z (put 26 w (put 20 b (put 14 a (hdrBits h 0x6c 0x0))))) = W
  obtain ⟨h0, h1, h2, h3, h4, x0, x1, x2, x3⟩ := word11 h 0x6c z w b a (by decide) hw
  have hd := decode_halves h0 h1
  unfold decode32 at hd
  refine Or.inl (Eq.trans (congrArg (fun W => decode (halves W)) hw) ?_)
  rw [h2, h3] at hd
  refine hd.trans ?_
  show Except.ok (Instr.vcas (hdrOf W) (fld 3 29 W) (fld 3 26 W) (fld 6 20 W) (fld 6 14 W)) = _
  rw [h4, x0, x1, x2, x3]
theorem fence (h : Hdr) (k : BitVec 2) (c : BitVec 4) : Statement (.fence h k c) := by
  intro _
  generalize hw : (put 18 k (put 14 c (hdrBits h 0x6d 0x0))) = W
  obtain ⟨h0, h1, h2, h3, h4, f0, x0, x1⟩ := word12 h 0x6d k c (by decide) hw
  have hd := decode_halves h0 h1
  unfold decode32 at hd
  refine Or.inl (Eq.trans (congrArg (fun W => decode (halves W)) hw) ?_)
  rw [h2, h3] at hd
  rw [f0] at hd
  refine hd.trans ?_
  show Except.ok (Instr.fence (hdrOf W) (fld 2 18 W) (fld 4 14 W)) = _
  rw [h4, x0, x1]
theorem lbind (h : Hdr) (c : BitVec 6) (b : BitVec 6) (a : BitVec 6) : Statement (.lbind h c b a) := by
  intro _
  generalize hw : (put 26 c (put 20 b (put 14 a (hdrBits h 0x6e 0x0)))) = W
  obtain ⟨h0, h1, h2, h3, h4, x0, x1, x2⟩ := word6 h 0x6e c b a (by decide) hw
  have hd := decode_halves h0 h1
  unfold decode32 at hd
  refine Or.inl (Eq.trans (congrArg (fun W => decode (halves W)) hw) ?_)
  rw [h2, h3] at hd
  refine hd.trans ?_
  show Except.ok (Instr.lbind (hdrOf W) (fld 6 26 W) (fld 6 20 W) (fld 6 14 W)) = _
  rw [h4, x0, x1, x2]
theorem lacq (h : Hdr) (t : BitVec 1) (c : BitVec 4) (b : BitVec 6) : Statement (.lacq h t c b) := by
  intro _
  generalize hw : (put 30 t (put 26 c (put 20 b (hdrBits h 0x6f 0x0)))) = W
  obtain ⟨h0, h1, h2, h3, h4, f0, f1, x0, x1, x2⟩ := word13 h 0x6f t c b (by decide) hw
  have hd := decode_halves h0 h1
  unfold decode32 at hd
  refine Or.inl (Eq.trans (congrArg (fun W => decode (halves W)) hw) ?_)
  rw [h2, h3] at hd
  rw [f0] at hd
  rw [f1] at hd
  refine hd.trans ?_
  show Except.ok (Instr.lacq (hdrOf W) (fld 1 30 W) (fld 4 26 W) (fld 6 20 W)) = _
  rw [h4, x0, x1, x2]
theorem lrel (h : Hdr) (c : BitVec 4) (b : BitVec 6) : Statement (.lrel h c b) := by
  intro _
  generalize hw : (put 26 c (put 20 b (hdrBits h 0x70 0x0))) = W
  obtain ⟨h0, h1, h2, h3, h4, f0, f1, x0, x1⟩ := word14 h 0x70 c b (by decide) hw
  have hd := decode_halves h0 h1
  unfold decode32 at hd
  refine Or.inl (Eq.trans (congrArg (fun W => decode (halves W)) hw) ?_)
  rw [h2, h3] at hd
  rw [f0] at hd
  rw [f1] at hd
  refine hd.trans ?_
  show Except.ok (Instr.lrel (hdrOf W) (fld 4 26 W) (fld 6 20 W)) = _
  rw [h4, x0, x1]
theorem barInit (h : Hdr) (b : BitVec 6) (a : BitVec 6) : Statement (.barInit h b a) := by
  intro _
  generalize hw : (put 20 b (put 14 a (hdrBits h 0x71 0x0))) = W
  obtain ⟨h0, h1, h2, h3, h4, h5, f0, x0, x1⟩ := word15 h 0x71 0 b a (by decide) (by decide) hw
  have hd := decode_halves h0 h1
  unfold decode32 at hd
  refine Or.inl (Eq.trans (congrArg (fun W => decode (halves W)) hw) ?_)
  rw [h2, h3] at hd
  rw [h5] at hd
  rw [f0] at hd
  refine hd.trans ?_
  show Except.ok (Instr.barInit (hdrOf W) (fld 6 20 W) (fld 6 14 W)) = _
  rw [h4, x0, x1]
theorem barArrive (h : Hdr) (b : BitVec 6) : Statement (.barArrive h b) := by
  intro _
  generalize hw : (put 20 b (hdrBits h 0x71 0x20000000)) = W
  obtain ⟨h0, h1, h2, h3, h4, h5, f0, f1, x0⟩ := word16 h 0x71 1 b (by decide) (by decide) hw
  have hd := decode_halves h0 h1
  unfold decode32 at hd
  refine Or.inl (Eq.trans (congrArg (fun W => decode (halves W)) hw) ?_)
  rw [h2, h3] at hd
  rw [h5] at hd
  rw [f0] at hd
  rw [f1] at hd
  refine hd.trans ?_
  show Except.ok (Instr.barArrive (hdrOf W) (fld 6 20 W)) = _
  rw [h4, x0]
theorem barExpin (h : Hdr) (b : BitVec 6) (a : BitVec 6) : Statement (.barExpin h b a) := by
  intro _
  generalize hw : (put 20 b (put 14 a (hdrBits h 0x71 0x40000000))) = W
  obtain ⟨h0, h1, h2, h3, h4, h5, f0, x0, x1⟩ := word15 h 0x71 2 b a (by decide) (by decide) hw
  have hd := decode_halves h0 h1
  unfold decode32 at hd
  refine Or.inl (Eq.trans (congrArg (fun W => decode (halves W)) hw) ?_)
  rw [h2, h3] at hd
  rw [h5] at hd
  rw [f0] at hd
  refine hd.trans ?_
  show Except.ok (Instr.barExpin (hdrOf W) (fld 6 20 W) (fld 6 14 W)) = _
  rw [h4, x0, x1]
theorem barExpout (h : Hdr) (b : BitVec 6) (a : BitVec 6) : Statement (.barExpout h b a) := by
  intro _
  generalize hw : (put 20 b (put 14 a (hdrBits h 0x71 0x60000000))) = W
  obtain ⟨h0, h1, h2, h3, h4, h5, f0, x0, x1⟩ := word15 h 0x71 3 b a (by decide) (by decide) hw
  have hd := decode_halves h0 h1
  unfold decode32 at hd
  refine Or.inl (Eq.trans (congrArg (fun W => decode (halves W)) hw) ?_)
  rw [h2, h3] at hd
  rw [h5] at hd
  rw [f0] at hd
  refine hd.trans ?_
  show Except.ok (Instr.barExpout (hdrOf W) (fld 6 20 W) (fld 6 14 W)) = _
  rw [h4, x0, x1]
theorem barWait (h : Hdr) (b : BitVec 6) (a : BitVec 6) : Statement (.barWait h b a) := by
  intro _
  generalize hw : (put 20 b (put 14 a (hdrBits h 0x71 0x80000000))) = W
  obtain ⟨h0, h1, h2, h3, h4, h5, f0, x0, x1⟩ := word15 h 0x71 4 b a (by decide) (by decide) hw
  have hd := decode_halves h0 h1
  unfold decode32 at hd
  refine Or.inl (Eq.trans (congrArg (fun W => decode (halves W)) hw) ?_)
  rw [h2, h3] at hd
  rw [h5] at hd
  rw [f0] at hd
  refine hd.trans ?_
  show Except.ok (Instr.barWait (hdrOf W) (fld 6 20 W) (fld 6 14 W)) = _
  rw [h4, x0, x1]
theorem barTest (h : Hdr) (b : BitVec 6) (a : BitVec 6) : Statement (.barTest h b a) := by
  intro _
  generalize hw : (put 20 b (put 14 a (hdrBits h 0x71 0xa0000000))) = W
  obtain ⟨h0, h1, h2, h3, h4, h5, f0, x0, x1⟩ := word15 h 0x71 5 b a (by decide) (by decide) hw
  have hd := decode_halves h0 h1
  unfold decode32 at hd
  refine Or.inl (Eq.trans (congrArg (fun W => decode (halves W)) hw) ?_)
  rw [h2, h3] at hd
  rw [h5] at hd
  rw [f0] at hd
  refine hd.trans ?_
  show Except.ok (Instr.barTest (hdrOf W) (fld 6 20 W) (fld 6 14 W)) = _
  rw [h4, x0, x1]
theorem monArm (h : Hdr) (b : BitVec 6) : Statement (.monArm h b) := by
  intro _
  generalize hw : (put 20 b (hdrBits h 0x72 0x0)) = W
  obtain ⟨h0, h1, h2, h3, h4, h5, f0, x0⟩ := word17 h 0x72 0 b (by decide) (by decide) hw
  have hd := decode_halves h0 h1
  unfold decode32 at hd
  refine Or.inl (Eq.trans (congrArg (fun W => decode (halves W)) hw) ?_)
  rw [h2, h3] at hd
  rw [h5] at hd
  rw [f0] at hd
  refine hd.trans ?_
  show Except.ok (Instr.monArm (hdrOf W) (fld 6 20 W)) = _
  rw [h4, x0]
theorem monWait (h : Hdr) (a : BitVec 6) : Statement (.monWait h a) := by
  intro _
  generalize hw : (put 14 a (hdrBits h 0x72 0x4000000)) = W
  obtain ⟨h0, h1, h2, h3, h4, h5, f0, x0⟩ := word18 h 0x72 1 a (by decide) (by decide) hw
  have hd := decode_halves h0 h1
  unfold decode32 at hd
  refine Or.inl (Eq.trans (congrArg (fun W => decode (halves W)) hw) ?_)
  rw [h2, h3] at hd
  rw [h5] at hd
  rw [f0] at hd
  refine hd.trans ?_
  show Except.ok (Instr.monWait (hdrOf W) (fld 6 14 W)) = _
  rw [h4, x0]
theorem monClr (h : Hdr) : Statement (.monClr h) := by
  intro _
  generalize hw : (hdrBits h 0x72 0x8000000) = W
  obtain ⟨h0, h1, h2, h3, h4, h5, f0⟩ := word19 h 0x72 2 (by decide) (by decide) hw
  have hd := decode_halves h0 h1
  unfold decode32 at hd
  refine Or.inl (Eq.trans (congrArg (fun W => decode (halves W)) hw) ?_)
  rw [h2, h3] at hd
  rw [h5] at hd
  rw [f0] at hd
  refine hd.trans ?_
  show Except.ok (Instr.monClr (hdrOf W)) = _
  rw [h4]
theorem waitc (h : Hdr) (n : BitVec 12) (k : BitVec 2) : Statement (.waitc h n k) := by
  intro _
  generalize hw : (put 20 n (put 14 k (hdrBits h 0x73 0x0))) = W
  obtain ⟨h0, h1, h2, h3, h4, f0, x0, x1⟩ := word20 h 0x73 n k (by decide) hw
  have hd := decode_halves h0 h1
  unfold decode32 at hd
  refine Or.inl (Eq.trans (congrArg (fun W => decode (halves W)) hw) ?_)
  rw [h2, h3] at hd
  rw [f0] at hd
  refine hd.trans ?_
  show Except.ok (Instr.waitc (hdrOf W) (fld 12 20 W) (fld 2 14 W)) = _
  rw [h4, x0, x1]
theorem cpy (h : Hdr) (z : BitVec 2) (d : BitVec 2) (e : BitVec 2) (b : BitVec 6) (a : BitVec 6) : Statement (.cpy h z d e b a) := by
  intro _
  generalize hw : (put 30 z (put 28 d (put 26 e (put 20 b (put 14 a (hdrBits h 0x74 0x0)))))) = W
  obtain ⟨h0, h1, h2, h3, h4, x0, x1, x2, x3, x4⟩ := word21 h 0x74 z d e b a (by decide) hw
  have hd := decode_halves h0 h1
  unfold decode32 at hd
  refine Or.inl (Eq.trans (congrArg (fun W => decode (halves W)) hw) ?_)
  rw [h2, h3] at hd
  refine hd.trans ?_
  show Except.ok (Instr.cpy (hdrOf W) (fld 2 30 W) (fld 2 28 W) (fld 2 26 W) (fld 6 20 W) (fld 6 14 W)) = _
  rw [h4, x0, x1, x2, x3, x4]
theorem bcpy (h : Hdr) (c : BitVec 6) (b : BitVec 6) (a : BitVec 6) : Statement (.bcpy h c b a) := by
  intro _
  generalize hw : (put 26 c (put 20 b (put 14 a (hdrBits h 0x75 0x0)))) = W
  obtain ⟨h0, h1, h2, h3, h4, x0, x1, x2⟩ := word6 h 0x75 c b a (by decide) hw
  have hd := decode_halves h0 h1
  unfold decode32 at hd
  refine Or.inl (Eq.trans (congrArg (fun W => decode (halves W)) hw) ?_)
  rw [h2, h3] at hd
  refine hd.trans ?_
  show Except.ok (Instr.bcpy (hdrOf W) (fld 6 26 W) (fld 6 20 W) (fld 6 14 W)) = _
  rw [h4, x0, x1, x2]
theorem coilOpen (h : Hdr) (b : BitVec 6) (c : BitVec 3) : Statement (.coilOpen h b c) := by
  intro _
  generalize hw : (put 20 b (put 14 c (hdrBits h 0x76 0x0))) = W
  obtain ⟨h0, h1, h2, h3, h4, h5, f0, f1, x0, x1⟩ := word22 h 0x76 0 b c (by decide) (by decide) hw
  have hd := decode_halves h0 h1
  unfold decode32 at hd
  refine Or.inl (Eq.trans (congrArg (fun W => decode (halves W)) hw) ?_)
  rw [h2, h3] at hd
  rw [h5] at hd
  rw [f0] at hd
  rw [f1] at hd
  refine hd.trans ?_
  show Except.ok (Instr.coilOpen (hdrOf W) (fld 6 20 W) (fld 3 14 W)) = _
  rw [h4, x0, x1]
theorem coilClose (h : Hdr) (c : BitVec 3) : Statement (.coilClose h c) := by
  intro _
  generalize hw : (put 14 c (hdrBits h 0x76 0x20000000)) = W
  obtain ⟨h0, h1, h2, h3, h4, h5, f0, x0⟩ := word23 h 0x76 1 c (by decide) (by decide) hw
  have hd := decode_halves h0 h1
  unfold decode32 at hd
  refine Or.inl (Eq.trans (congrArg (fun W => decode (halves W)) hw) ?_)
  rw [h2, h3] at hd
  rw [h5] at hd
  rw [f0] at hd
  refine hd.trans ?_
  show Except.ok (Instr.coilClose (hdrOf W) (fld 3 14 W)) = _
  rw [h4, x0]
theorem coilDrain (h : Hdr) (c : BitVec 3) : Statement (.coilDrain h c) := by
  intro _
  generalize hw : (put 14 c (hdrBits h 0x76 0x40000000)) = W
  obtain ⟨h0, h1, h2, h3, h4, h5, f0, x0⟩ := word23 h 0x76 2 c (by decide) (by decide) hw
  have hd := decode_halves h0 h1
  unfold decode32 at hd
  refine Or.inl (Eq.trans (congrArg (fun W => decode (halves W)) hw) ?_)
  rw [h2, h3] at hd
  rw [h5] at hd
  rw [f0] at hd
  refine hd.trans ?_
  show Except.ok (Instr.coilDrain (hdrOf W) (fld 3 14 W)) = _
  rw [h4, x0]
theorem mig (h : Hdr) (b : BitVec 6) : Statement (.mig h b) := by
  intro _
  generalize hw : (put 20 b (hdrBits h 0x77 0x0)) = W
  obtain ⟨h0, h1, h2, h3, h4, f0, f1, x0⟩ := word24 h 0x77 b (by decide) hw
  have hd := decode_halves h0 h1
  unfold decode32 at hd
  refine Or.inl (Eq.trans (congrArg (fun W => decode (halves W)) hw) ?_)
  rw [h2, h3] at hd
  rw [f0] at hd
  rw [f1] at hd
  refine hd.trans ?_
  show Except.ok (Instr.mig (hdrOf W) (fld 6 20 W)) = _
  rw [h4, x0]
theorem tcfg (h : Hdr) (f : BitVec 6) (b : BitVec 6) (t : BitVec 4) : Statement (.tcfg h f b t) := by
  intro _
  generalize hw : (put 26 f (put 20 b (put 14 t (hdrBits h 0x78 0x0)))) = W
  obtain ⟨h0, h1, h2, h3, h4, f0, x0, x1, x2⟩ := word25 h 0x78 f b t (by decide) hw
  have hd := decode_halves h0 h1
  unfold decode32 at hd
  refine Or.inl (Eq.trans (congrArg (fun W => decode (halves W)) hw) ?_)
  rw [h2, h3] at hd
  rw [f0] at hd
  refine hd.trans ?_
  show Except.ok (Instr.tcfg (hdrOf W) (fld 6 26 W) (fld 6 20 W) (fld 4 14 W)) = _
  rw [h4, x0, x1, x2]
theorem tld (h : Hdr) (c : BitVec 6) (b : BitVec 6) (t : BitVec 4) : Statement (.tld h c b t) := by
  intro _
  generalize hw : (put 26 c (put 20 b (put 14 t (hdrBits h 0x79 0x0)))) = W
  obtain ⟨h0, h1, h2, h3, h4, f0, x0, x1, x2⟩ := word25 h 0x79 c b t (by decide) hw
  have hd := decode_halves h0 h1
  unfold decode32 at hd
  refine Or.inl (Eq.trans (congrArg (fun W => decode (halves W)) hw) ?_)
  rw [h2, h3] at hd
  rw [f0] at hd
  refine hd.trans ?_
  show Except.ok (Instr.tld (hdrOf W) (fld 6 26 W) (fld 6 20 W) (fld 4 14 W)) = _
  rw [h4, x0, x1, x2]
theorem tst (h : Hdr) (c : BitVec 6) (b : BitVec 6) (t : BitVec 4) : Statement (.tst h c b t) := by
  intro _
  generalize hw : (put 26 c (put 20 b (put 14 t (hdrBits h 0x7a 0x0)))) = W
  obtain ⟨h0, h1, h2, h3, h4, f0, x0, x1, x2⟩ := word25 h 0x7a c b t (by decide) hw
  have hd := decode_halves h0 h1
  unfold decode32 at hd
  refine Or.inl (Eq.trans (congrArg (fun W => decode (halves W)) hw) ?_)
  rw [h2, h3] at hd
  rw [f0] at hd
  refine hd.trans ?_
  show Except.ok (Instr.tst (hdrOf W) (fld 6 26 W) (fld 6 20 W) (fld 4 14 W)) = _
  rw [h4, x0, x1, x2]
theorem mma (h : Hdr) (c : BitVec 4) (b : BitVec 4) (r : BitVec 2) (d : BitVec 4) : Statement (.mma h c b r d) := by
  intro _
  generalize hw : (put 26 c (put 20 b (put 18 r (put 14 d (hdrBits h 0x7b 0x0))))) = W
  obtain ⟨h0, h1, h2, h3, h4, f0, f1, x0, x1, x2, x3⟩ := word26 h 0x7b c b r d (by decide) hw
  have hd := decode_halves h0 h1
  unfold decode32 at hd
  refine Or.inl (Eq.trans (congrArg (fun W => decode (halves W)) hw) ?_)
  rw [h2, h3] at hd
  rw [f0] at hd
  rw [f1] at hd
  refine hd.trans ?_
  show Except.ok (Instr.mma (hdrOf W) (fld 4 26 W) (fld 4 20 W) (fld 2 18 W) (fld 4 14 W)) = _
  rw [h4, x0, x1, x2, x3]
theorem talloc (h : Hdr) (b : BitVec 6) : Statement (.talloc h b) := by
  intro _
  generalize hw : (put 20 b (hdrBits h 0x7c 0x0)) = W
  obtain ⟨h0, h1, h2, h3, h4, h5, f0, x0⟩ := word17 h 0x7c 0 b (by decide) (by decide) hw
  have hd := decode_halves h0 h1
  unfold decode32 at hd
  refine Or.inl (Eq.trans (congrArg (fun W => decode (halves W)) hw) ?_)
  rw [h2, h3] at hd
  rw [h5] at hd
  rw [f0] at hd
  refine hd.trans ?_
  show Except.ok (Instr.talloc (hdrOf W) (fld 6 20 W)) = _
  rw [h4, x0]
theorem tfree (h : Hdr) (b : BitVec 6) : Statement (.tfree h b) := by
  intro _
  generalize hw : (put 20 b (hdrBits h 0x7c 0x4000000)) = W
  obtain ⟨h0, h1, h2, h3, h4, h5, f0, x0⟩ := word17 h 0x7c 1 b (by decide) (by decide) hw
  have hd := decode_halves h0 h1
  unfold decode32 at hd
  refine Or.inl (Eq.trans (congrArg (fun W => decode (halves W)) hw) ?_)
  rw [h2, h3] at hd
  rw [h5] at hd
  rw [f0] at hd
  refine hd.trans ?_
  show Except.ok (Instr.tfree (hdrOf W) (fld 6 20 W)) = _
  rw [h4, x0]
theorem tzero (h : Hdr) (t : BitVec 4) : Statement (.tzero h t) := by
  intro _
  generalize hw : (put 20 t (hdrBits h 0x7c 0x8000000)) = W
  obtain ⟨h0, h1, h2, h3, h4, h5, f0, f1, x0⟩ := word27 h 0x7c 2 t (by decide) (by decide) hw
  have hd := decode_halves h0 h1
  unfold decode32 at hd
  refine Or.inl (Eq.trans (congrArg (fun W => decode (halves W)) hw) ?_)
  rw [h2, h3] at hd
  rw [h5] at hd
  rw [f0] at hd
  rw [f1] at hd
  refine hd.trans ?_
  show Except.ok (Instr.tzero (hdrOf W) (fld 4 20 W)) = _
  rw [h4, x0]
theorem trowget (h : Hdr) (t : BitVec 4) (a : BitVec 6) : Statement (.trowget h t a) := by
  intro _
  generalize hw : (put 20 t (put 14 a (hdrBits h 0x7c 0xc000000))) = W
  obtain ⟨h0, h1, h2, h3, h4, h5, f0, x0, x1⟩ := word28 h 0x7c 3 t a (by decide) (by decide) hw
  have hd := decode_halves h0 h1
  unfold decode32 at hd
  refine Or.inl (Eq.trans (congrArg (fun W => decode (halves W)) hw) ?_)
  rw [h2, h3] at hd
  rw [h5] at hd
  rw [f0] at hd
  refine hd.trans ?_
  show Except.ok (Instr.trowget (hdrOf W) (fld 4 20 W) (fld 6 14 W)) = _
  rw [h4, x0, x1]
theorem trowset (h : Hdr) (t : BitVec 4) (a : BitVec 6) : Statement (.trowset h t a) := by
  intro _
  generalize hw : (put 20 t (put 14 a (hdrBits h 0x7c 0x10000000))) = W
  obtain ⟨h0, h1, h2, h3, h4, h5, f0, x0, x1⟩ := word28 h 0x7c 4 t a (by decide) (by decide) hw
  have hd := decode_halves h0 h1
  unfold decode32 at hd
  refine Or.inl (Eq.trans (congrArg (fun W => decode (halves W)) hw) ?_)
  rw [h2, h3] at hd
  rw [h5] at hd
  rw [f0] at hd
  refine hd.trans ?_
  show Except.ok (Instr.trowset (hdrOf W) (fld 4 20 W) (fld 6 14 W)) = _
  rw [h4, x0, x1]
theorem sealTensor (h : Hdr) (b : BitVec 6) (a : BitVec 6) : Statement (.sealTensor h b a) := by
  intro _
  generalize hw : (put 20 b (put 14 a (hdrBits h 0x7d 0x0))) = W
  obtain ⟨h0, h1, h2, h3, h4, h5, x0, x1⟩ := word29 h 0x7d 0 b a (by decide) (by decide) hw
  have hd := decode_halves h0 h1
  unfold decode32 at hd
  refine Or.inl (Eq.trans (congrArg (fun W => decode (halves W)) hw) ?_)
  rw [h2, h3] at hd
  rw [h5] at hd
  refine hd.trans ?_
  show Except.ok (Instr.sealTensor (hdrOf W) (fld 6 20 W) (fld 6 14 W)) = _
  rw [h4, x0, x1]
theorem sealRefire (h : Hdr) (b : BitVec 6) (a : BitVec 6) : Statement (.sealRefire h b a) := by
  intro _
  generalize hw : (put 20 b (put 14 a (hdrBits h 0x7d 0x4000000))) = W
  obtain ⟨h0, h1, h2, h3, h4, h5, x0, x1⟩ := word29 h 0x7d 1 b a (by decide) (by decide) hw
  have hd := decode_halves h0 h1
  unfold decode32 at hd
  refine Or.inl (Eq.trans (congrArg (fun W => decode (halves W)) hw) ?_)
  rw [h2, h3] at hd
  rw [h5] at hd
  refine hd.trans ?_
  show Except.ok (Instr.sealRefire (hdrOf W) (fld 6 20 W) (fld 6 14 W)) = _
  rw [h4, x0, x1]
theorem sealFree (h : Hdr) (b : BitVec 6) : Statement (.sealFree h b) := by
  intro _
  generalize hw : (put 20 b (hdrBits h 0x7d 0x8000000)) = W
  obtain ⟨h0, h1, h2, h3, h4, h5, f0, x0⟩ := word17 h 0x7d 2 b (by decide) (by decide) hw
  have hd := decode_halves h0 h1
  unfold decode32 at hd
  refine Or.inl (Eq.trans (congrArg (fun W => decode (halves W)) hw) ?_)
  rw [h2, h3] at hd
  rw [h5] at hd
  rw [f0] at hd
  refine hd.trans ?_
  show Except.ok (Instr.sealFree (hdrOf W) (fld 6 20 W)) = _
  rw [h4, x0]
theorem rfireGo (h : Hdr) (b : BitVec 6) : Statement (.rfireGo h b) := by
  intro _
  generalize hw : (put 20 b (hdrBits h 0x7e 0x0)) = W
  obtain ⟨h0, h1, h2, h3, h4, h5, f0, x0⟩ := word17 h 0x7e 0 b (by decide) (by decide) hw
  have hd := decode_halves h0 h1
  unfold decode32 at hd
  refine Or.inl (Eq.trans (congrArg (fun W => decode (halves W)) hw) ?_)
  rw [h2, h3] at hd
  rw [h5] at hd
  rw [f0] at hd
  refine hd.trans ?_
  show Except.ok (Instr.rfireGo (hdrOf W) (fld 6 20 W)) = _
  rw [h4, x0]
theorem rfireStat (h : Hdr) (b : BitVec 6) (a : BitVec 6) : Statement (.rfireStat h b a) := by
  intro _
  generalize hw : (put 20 b (put 14 a (hdrBits h 0x7e 0x4000000))) = W
  obtain ⟨h0, h1, h2, h3, h4, h5, x0, x1⟩ := word29 h 0x7e 1 b a (by decide) (by decide) hw
  have hd := decode_halves h0 h1
  unfold decode32 at hd
  refine Or.inl (Eq.trans (congrArg (fun W => decode (halves W)) hw) ?_)
  rw [h2, h3] at hd
  rw [h5] at hd
  refine hd.trans ?_
  show Except.ok (Instr.rfireStat (hdrOf W) (fld 6 20 W) (fld 6 14 W)) = _
  rw [h4, x0, x1]
theorem rfireAbort (h : Hdr) (b : BitVec 6) : Statement (.rfireAbort h b) := by
  intro _
  generalize hw : (put 20 b (hdrBits h 0x7e 0x8000000)) = W
  obtain ⟨h0, h1, h2, h3, h4, h5, f0, x0⟩ := word17 h 0x7e 2 b (by decide) (by decide) hw
  have hd := decode_halves h0 h1
  unfold decode32 at hd
  refine Or.inl (Eq.trans (congrArg (fun W => decode (halves W)) hw) ?_)
  rw [h2, h3] at hd
  rw [h5] at hd
  rw [f0] at hd
  refine hd.trans ?_
  show Except.ok (Instr.rfireAbort (hdrOf W) (fld 6 20 W)) = _
  rw [h4, x0]
theorem nop (h : Hdr) : Statement (.nop h) := by
  intro _
  generalize hw : (hdrBits h 0x7f 0x0) = W
  obtain ⟨h0, h1, h2, h3, h4, h5, f0⟩ := word30 h 0x7f 0 (by decide) (by decide) hw
  have hd := decode_halves h0 h1
  unfold decode32 at hd
  refine Or.inl (Eq.trans (congrArg (fun W => decode (halves W)) hw) ?_)
  rw [h2, h3] at hd
  rw [h5] at hd
  rw [f0] at hd
  refine hd.trans ?_
  show Except.ok (Instr.nop (hdrOf W)) = _
  rw [h4]
theorem yield (h : Hdr) : Statement (.yield h) := by
  intro _
  generalize hw : (hdrBits h 0x7f 0x4000) = W
  obtain ⟨h0, h1, h2, h3, h4, h5, f0⟩ := word30 h 0x7f 1 (by decide) (by decide) hw
  have hd := decode_halves h0 h1
  unfold decode32 at hd
  refine Or.inl (Eq.trans (congrArg (fun W => decode (halves W)) hw) ?_)
  rw [h2, h3] at hd
  rw [h5] at hd
  rw [f0] at hd
  refine hd.trans ?_
  show Except.ok (Instr.yield (hdrOf W)) = _
  rw [h4]
theorem ifence (h : Hdr) : Statement (.ifence h) := by
  intro _
  generalize hw : (hdrBits h 0x7f 0x8000) = W
  obtain ⟨h0, h1, h2, h3, h4, h5, f0⟩ := word30 h 0x7f 2 (by decide) (by decide) hw
  have hd := decode_halves h0 h1
  unfold decode32 at hd
  refine Or.inl (Eq.trans (congrArg (fun W => decode (halves W)) hw) ?_)
  rw [h2, h3] at hd
  rw [h5] at hd
  rw [f0] at hd
  refine hd.trans ?_
  show Except.ok (Instr.ifence (hdrOf W)) = _
  rw [h4]
theorem prog (h : Hdr) (i : BitVec 12) : Statement (.prog h i) := by
  intro _
  generalize hw : (put 20 i (hdrBits h 0x7f 0xc000)) = W
  obtain ⟨h0, h1, h2, h3, h4, h5, x0⟩ := word31 h 0x7f 3 i (by decide) (by decide) hw
  have hd := decode_halves h0 h1
  unfold decode32 at hd
  refine Or.inl (Eq.trans (congrArg (fun W => decode (halves W)) hw) ?_)
  rw [h2, h3] at hd
  rw [h5] at hd
  refine hd.trans ?_
  show Except.ok (Instr.prog (hdrOf W) (fld 12 20 W)) = _
  rw [h4, x0]
theorem bkpt (h : Hdr) (i : BitVec 12) : Statement (.bkpt h i) := by
  intro _
  generalize hw : (put 20 i (hdrBits h 0x7f 0x10000)) = W
  obtain ⟨h0, h1, h2, h3, h4, h5, x0⟩ := word31 h 0x7f 4 i (by decide) (by decide) hw
  have hd := decode_halves h0 h1
  unfold decode32 at hd
  refine Or.inl (Eq.trans (congrArg (fun W => decode (halves W)) hw) ?_)
  rw [h2, h3] at hd
  rw [h5] at hd
  refine hd.trans ?_
  show Except.ok (Instr.bkpt (hdrOf W) (fld 12 20 W)) = _
  rw [h4, x0]
theorem csum (h : Hdr) (i : BitVec 12) : Statement (.csum h i) := by
  intro _
  generalize hw : (put 20 i (hdrBits h 0x7f 0x14000)) = W
  obtain ⟨h0, h1, h2, h3, h4, h5, x0⟩ := word31 h 0x7f 5 i (by decide) (by decide) hw
  have hd := decode_halves h0 h1
  unfold decode32 at hd
  refine Or.inl (Eq.trans (congrArg (fun W => decode (halves W)) hw) ?_)
  rw [h2, h3] at hd
  rw [h5] at hd
  refine hd.trans ?_
  show Except.ok (Instr.csum (hdrOf W) (fld 12 20 W)) = _
  rw [h4, x0]
theorem wsync (h : Hdr) : Statement (.wsync h) := by
  intro _
  generalize hw : (hdrBits h 0x7f 0x18000) = W
  obtain ⟨h0, h1, h2, h3, h4, h5, f0⟩ := word30 h 0x7f 6 (by decide) (by decide) hw
  have hd := decode_halves h0 h1
  unfold decode32 at hd
  refine Or.inl (Eq.trans (congrArg (fun W => decode (halves W)) hw) ?_)
  rw [h2, h3] at hd
  rw [h5] at hd
  rw [f0] at hd
  refine hd.trans ?_
  show Except.ok (Instr.wsync (hdrOf W)) = _
  rw [h4]
theorem stchk (h : Hdr) (i : BitVec 12) : Statement (.stchk h i) := by
  intro _
  generalize hw : (put 20 i (hdrBits h 0x7f 0x1c000)) = W
  obtain ⟨h0, h1, h2, h3, h4, h5, x0⟩ := word31 h 0x7f 7 i (by decide) (by decide) hw
  have hd := decode_halves h0 h1
  unfold decode32 at hd
  refine Or.inl (Eq.trans (congrArg (fun W => decode (halves W)) hw) ?_)
  rw [h2, h3] at hd
  rw [h5] at hd
  refine hd.trans ?_
  show Except.ok (Instr.stchk (hdrOf W) (fld 12 20 W)) = _
  rw [h4, x0]
theorem vmov16 (b : BitVec 5) (a : BitVec 6) : Statement (.vmov16 b a) := by
  intro wf
  have := b.isLt; have := a.isLt
  have z : half (put 11 b (put 5 a 0x0)) ≠ [0#16] := by
    simp only [WellFormed, notZeroHalf, Bool.and_eq_true, bne_iff_ne] at wf; exact wf.2
  refine Or.inl ?_
  show decode (half (put 11 b (put 5 a 0x0))) = _
  generalize hw : (put 11 b (put 5 a 0x0)) = W at z ⊢
  simp only [put] at hw
  have := word_ne (by omega) z
  rw [decode_half (by omega) (by omega)]
  have hm : W / 2 % 16 = 0 := by omega
  have hn : (W == 0) = false := by simpa using this
  simp only [decode16, hn, hm, Bool.false_eq_true, if_false]
  rw [fld_eq _ _ b (by omega), fld_eq _ _ a (by omega)]
theorem vadd16 (b : BitVec 5) (a : BitVec 6) : Statement (.vadd16 b a) := by
  intro wf
  have := b.isLt; have := a.isLt
  refine Or.inl ?_
  show decode (half (put 11 b (put 5 a 0x2))) = _
  generalize hw : (put 11 b (put 5 a 0x2)) = W
  simp only [put] at hw
  rw [decode_half (by omega) (by omega)]
  have hm : W / 2 % 16 = 1 := by omega
  have hn : (W == 0) = false := by simp; omega
  simp only [decode16, hn, hm, Bool.false_eq_true, if_false]
  rw [fld_eq _ _ b (by omega), fld_eq _ _ a (by omega)]
theorem vsub16 (b : BitVec 5) (a : BitVec 6) : Statement (.vsub16 b a) := by
  intro wf
  have := b.isLt; have := a.isLt
  refine Or.inl ?_
  show decode (half (put 11 b (put 5 a 0x4))) = _
  generalize hw : (put 11 b (put 5 a 0x4)) = W
  simp only [put] at hw
  rw [decode_half (by omega) (by omega)]
  have hm : W / 2 % 16 = 2 := by omega
  have hn : (W == 0) = false := by simp; omega
  simp only [decode16, hn, hm, Bool.false_eq_true, if_false]
  rw [fld_eq _ _ b (by omega), fld_eq _ _ a (by omega)]
theorem vand16 (b : BitVec 5) (a : BitVec 6) : Statement (.vand16 b a) := by
  intro wf
  have := b.isLt; have := a.isLt
  refine Or.inl ?_
  show decode (half (put 11 b (put 5 a 0x6))) = _
  generalize hw : (put 11 b (put 5 a 0x6)) = W
  simp only [put] at hw
  rw [decode_half (by omega) (by omega)]
  have hm : W / 2 % 16 = 3 := by omega
  have hn : (W == 0) = false := by simp; omega
  simp only [decode16, hn, hm, Bool.false_eq_true, if_false]
  rw [fld_eq _ _ b (by omega), fld_eq _ _ a (by omega)]
theorem vor16 (b : BitVec 5) (a : BitVec 6) : Statement (.vor16 b a) := by
  intro wf
  have := b.isLt; have := a.isLt
  refine Or.inl ?_
  show decode (half (put 11 b (put 5 a 0x8))) = _
  generalize hw : (put 11 b (put 5 a 0x8)) = W
  simp only [put] at hw
  rw [decode_half (by omega) (by omega)]
  have hm : W / 2 % 16 = 4 := by omega
  have hn : (W == 0) = false := by simp; omega
  simp only [decode16, hn, hm, Bool.false_eq_true, if_false]
  rw [fld_eq _ _ b (by omega), fld_eq _ _ a (by omega)]
theorem vxor16 (b : BitVec 5) (a : BitVec 6) : Statement (.vxor16 b a) := by
  intro wf
  have := b.isLt; have := a.isLt
  refine Or.inl ?_
  show decode (half (put 11 b (put 5 a 0xa))) = _
  generalize hw : (put 11 b (put 5 a 0xa)) = W
  simp only [put] at hw
  rw [decode_half (by omega) (by omega)]
  have hm : W / 2 % 16 = 5 := by omega
  have hn : (W == 0) = false := by simp; omega
  simp only [decode16, hn, hm, Bool.false_eq_true, if_false]
  rw [fld_eq _ _ b (by omega), fld_eq _ _ a (by omega)]
theorem vshli16 (n : BitVec 5) (a : BitVec 6) : Statement (.vshli16 n a) := by
  intro wf
  have := n.isLt; have := a.isLt
  refine Or.inl ?_
  show decode (half (put 11 n (put 5 a 0xc))) = _
  generalize hw : (put 11 n (put 5 a 0xc)) = W
  simp only [put] at hw
  rw [decode_half (by omega) (by omega)]
  have hm : W / 2 % 16 = 6 := by omega
  have hn : (W == 0) = false := by simp; omega
  simp only [decode16, hn, hm, Bool.false_eq_true, if_false]
  rw [fld_eq _ _ n (by omega), fld_eq _ _ a (by omega)]
theorem vshri16 (n : BitVec 5) (a : BitVec 6) : Statement (.vshri16 n a) := by
  intro wf
  have := n.isLt; have := a.isLt
  refine Or.inl ?_
  show decode (half (put 11 n (put 5 a 0xe))) = _
  generalize hw : (put 11 n (put 5 a 0xe)) = W
  simp only [put] at hw
  rw [decode_half (by omega) (by omega)]
  have hm : W / 2 % 16 = 7 := by omega
  have hn : (W == 0) = false := by simp; omega
  simp only [decode16, hn, hm, Bool.false_eq_true, if_false]
  rw [fld_eq _ _ n (by omega), fld_eq _ _ a (by omega)]
theorem vfadd16 (b : BitVec 5) (a : BitVec 6) : Statement (.vfadd16 b a) := by
  intro wf
  have := b.isLt; have := a.isLt
  refine Or.inl ?_
  show decode (half (put 11 b (put 5 a 0x10))) = _
  generalize hw : (put 11 b (put 5 a 0x10)) = W
  simp only [put] at hw
  rw [decode_half (by omega) (by omega)]
  have hm : W / 2 % 16 = 8 := by omega
  have hn : (W == 0) = false := by simp; omega
  simp only [decode16, hn, hm, Bool.false_eq_true, if_false]
  rw [fld_eq _ _ b (by omega), fld_eq _ _ a (by omega)]
theorem vfmul16 (b : BitVec 5) (a : BitVec 6) : Statement (.vfmul16 b a) := by
  intro wf
  have := b.isLt; have := a.isLt
  refine Or.inl ?_
  show decode (half (put 11 b (put 5 a 0x12))) = _
  generalize hw : (put 11 b (put 5 a 0x12)) = W
  simp only [put] at hw
  rw [decode_half (by omega) (by omega)]
  have hm : W / 2 % 16 = 9 := by omega
  have hn : (W == 0) = false := by simp; omega
  simp only [decode16, hn, hm, Bool.false_eq_true, if_false]
  rw [fld_eq _ _ b (by omega), fld_eq _ _ a (by omega)]
theorem vaddi16 (n : BitVec 5) (a : BitVec 6) : Statement (.vaddi16 n a) := by
  intro wf
  have := n.isLt; have := a.isLt
  refine Or.inl ?_
  show decode (half (put 11 n (put 5 a 0x14))) = _
  generalize hw : (put 11 n (put 5 a 0x14)) = W
  simp only [put] at hw
  rw [decode_half (by omega) (by omega)]
  have hm : W / 2 % 16 = 10 := by omega
  have hn : (W == 0) = false := by simp; omega
  simp only [decode16, hn, hm, Bool.false_eq_true, if_false]
  rw [fld_eq _ _ n (by omega), fld_eq _ _ a (by omega)]
theorem vmovi16 (n : BitVec 5) (a : BitVec 6) : Statement (.vmovi16 n a) := by
  intro wf
  have := n.isLt; have := a.isLt
  refine Or.inl ?_
  show decode (half (put 11 n (put 5 a 0x16))) = _
  generalize hw : (put 11 n (put 5 a 0x16)) = W
  simp only [put] at hw
  rw [decode_half (by omega) (by omega)]
  have hm : W / 2 % 16 = 11 := by omega
  have hn : (W == 0) = false := by simp; omega
  simp only [decode16, hn, hm, Bool.false_eq_true, if_false]
  rw [fld_eq _ _ n (by omega), fld_eq _ _ a (by omega)]
theorem vldB3216 (b : BitVec 5) (a : BitVec 6) : Statement (.vldB3216 b a) := by
  intro wf
  have := b.isLt; have := a.isLt
  refine Or.inl ?_
  show decode (half (put 11 b (put 5 a 0x18))) = _
  generalize hw : (put 11 b (put 5 a 0x18)) = W
  simp only [put] at hw
  rw [decode_half (by omega) (by omega)]
  have hm : W / 2 % 16 = 12 := by omega
  have hn : (W == 0) = false := by simp; omega
  simp only [decode16, hn, hm, Bool.false_eq_true, if_false]
  rw [fld_eq _ _ b (by omega), fld_eq _ _ a (by omega)]
theorem vstB3216 (b : BitVec 5) (a : BitVec 6) : Statement (.vstB3216 b a) := by
  intro wf
  have := b.isLt; have := a.isLt
  refine Or.inl ?_
  show decode (half (put 11 b (put 5 a 0x1a))) = _
  generalize hw : (put 11 b (put 5 a 0x1a)) = W
  simp only [put] at hw
  rw [decode_half (by omega) (by omega)]
  have hm : W / 2 % 16 = 13 := by omega
  have hn : (W == 0) = false := by simp; omega
  simp only [decode16, hn, hm, Bool.false_eq_true, if_false]
  rw [fld_eq _ _ b (by omega), fld_eq _ _ a (by omega)]
theorem nop16 : Statement (.nop16 ) := by
  intro wf
  refine Or.inl ?_
  show decode (half 0x1c) = _
  generalize hw : 0x1c = W
  skip
  rw [decode_half (by omega) (by omega)]
  have hm : W / 2 % 16 = 14 := by omega
  have hn : (W == 0) = false := by simp; omega
  have hk : W / 32 = 0 := by omega
  simp only [decode16, hn, hm, Bool.false_eq_true, if_false, hk]
theorem yield16 : Statement (.yield16 ) := by
  intro wf
  refine Or.inl ?_
  show decode (half 0x3c) = _
  generalize hw : 0x3c = W
  skip
  rw [decode_half (by omega) (by omega)]
  have hm : W / 2 % 16 = 14 := by omega
  have hn : (W == 0) = false := by simp; omega
  have hk : W / 32 = 1 := by omega
  simp only [decode16, hn, hm, Bool.false_eq_true, if_false, hk]
theorem ret16 : Statement (.ret16 ) := by
  intro wf
  refine Or.inl ?_
  show decode (half 0x5c) = _
  generalize hw : 0x5c = W
  skip
  rw [decode_half (by omega) (by omega)]
  have hm : W / 2 % 16 = 14 := by omega
  have hn : (W == 0) = false := by simp; omega
  have hk : W / 32 = 2 := by omega
  simp only [decode16, hn, hm, Bool.false_eq_true, if_false, hk]
theorem exit16 : Statement (.exit16 ) := by
  intro wf
  refine Or.inl ?_
  show decode (half 0x7c) = _
  generalize hw : 0x7c = W
  skip
  rw [decode_half (by omega) (by omega)]
  have hm : W / 2 % 16 = 14 := by omega
  have hn : (W == 0) = false := by simp; omega
  have hk : W / 32 = 3 := by omega
  simp only [decode16, hn, hm, Bool.false_eq_true, if_false, hk]
theorem ifence16 : Statement (.ifence16 ) := by
  intro wf
  refine Or.inl ?_
  show decode (half 0x9c) = _
  generalize hw : 0x9c = W
  skip
  rw [decode_half (by omega) (by omega)]
  have hm : W / 2 % 16 = 14 := by omega
  have hn : (W == 0) = false := by simp; omega
  have hk : W / 32 = 4 := by omega
  simp only [decode16, hn, hm, Bool.false_eq_true, if_false, hk]
theorem jmpS (i : BitVec 11) : Statement (.jmpS i) := by
  intro wf
  have := i.isLt
  refine Or.inl ?_
  show decode (half (put 5 i 0x1e)) = _
  generalize hw : (put 5 i 0x1e) = W
  simp only [put] at hw
  rw [decode_half (by omega) (by omega)]
  have hm : W / 2 % 16 = 15 := by omega
  have hn : (W == 0) = false := by simp; omega
  simp only [decode16, hn, hm, Bool.false_eq_true, if_false]
  rw [fld_eq _ _ i (by omega)]
theorem commandRead (o : Nat) (q : Nat) : Statement (.commandRead o q) := fun _ => Or.inr rfl
theorem launch (o : Nat) (q : Nat) : Statement (.launch o q) := fun _ => Or.inr rfl
theorem signal (o : Nat) (q : Nat) : Statement (.signal o q) := fun _ => Or.inr rfl
theorem wait (o : Nat) (q : Nat) : Statement (.wait o q) := fun _ => Or.inr rfl
theorem inval (o : Nat) (q : Nat) : Statement (.inval o q) := fun _ => Or.inr rfl
theorem replay (o : Nat) (q : Nat) : Statement (.replay o q) := fun _ => Or.inr rfl
theorem fenceCommand (o : Nat) (q : Nat) : Statement (.fenceCommand o q) := fun _ => Or.inr rfl
theorem launchStart (o : Nat) (q : Nat) : Statement (.launchStart o q) := fun _ => Or.inr rfl
theorem launchStartEnd (l : Nat) : Statement (.launchStartEnd l) := fun _ => Or.inr rfl
theorem laterPlacementEnd (l : Nat) (c : Nat) : Statement (.laterPlacementEnd l c) := fun _ => Or.inr rfl
theorem blockEndTimeEnd (b : Nat) : Statement (.blockEndTimeEnd b) := fun _ => Or.inr rfl
theorem launchCompletion (l : Nat) : Statement (.launchCompletion l) := fun _ => Or.inr rfl
theorem launchCompletionEnd (l : Nat) : Statement (.launchCompletionEnd l) := fun _ => Or.inr rfl
theorem vfWriteTakeIn (o : Nat) : Statement (.vfWriteTakeIn o) := fun _ => Or.inr rfl
theorem queueRestart (o : Nat) (q : Nat) : Statement (.queueRestart o q) := fun _ => Or.inr rfl
theorem circuitSetupElapsed (e : Nat) : Statement (.circuitSetupElapsed e) := fun _ => Or.inr rfl
theorem saveRequestTakeIn (o : Nat) : Statement (.saveRequestTakeIn o) := fun _ => Or.inr rfl
theorem preemptionHaltDone (o : Nat) : Statement (.preemptionHaltDone o) := fun _ => Or.inr rfl
theorem worldSwitchEnd (seat : Nat) : Statement (.worldSwitchEnd seat) := fun _ => Or.inr rfl
theorem imageDrained (o : Nat) : Statement (.imageDrained o) := fun _ => Or.inr rfl
theorem eventRingDoorbell (o : Nat) (v : DWord) : Statement (.eventRingDoorbell o v) := fun _ => Or.inr rfl
theorem dirtyLogEpoch (o : Nat) : Statement (.dirtyLogEpoch o) := fun _ => Or.inr rfl
theorem memoryWipeComplete (o : Nat) : Statement (.memoryWipeComplete o) := fun _ => Or.inr rfl
theorem quantumBoundary (seat : Nat) : Statement (.quantumBoundary seat) := fun _ => Or.inr rfl
theorem residencyStart (seat : Nat) : Statement (.residencyStart seat) := fun _ => Or.inr rfl
theorem seatBoundary (seat : Nat) : Statement (.seatBoundary seat) := fun _ => Or.inr rfl
theorem saggarTimeout (b : Nat) (part : Nat) (stage : Nat) (pc : DWord) : Statement (.saggarTimeout b part stage pc) := fun _ => Or.inr rfl
theorem fragmentPriority (grp : Nat) (f : Nat) : Statement (.fragmentPriority grp f) := fun _ => Or.inr rfl
theorem branchResolution (grp : Nat) (f : Nat) : Statement (.branchResolution grp f) := fun _ => Or.inr rfl
theorem resultWrite (id : Nat) : Statement (.resultWrite id) := fun _ => Or.inr rfl
theorem haltComplete (o : Nat) : Statement (.haltComplete o) := fun _ => Or.inr rfl
theorem monWaitTimeout (grp : Nat) (f : Nat) : Statement (.monWaitTimeout grp f) := fun _ => Or.inr rfl
theorem monitorWake (grp : Nat) (code : Nat) : Statement (.monitorWake grp code) := fun _ => Or.inr rfl
theorem latchGrant (acc : Nat) : Statement (.latchGrant acc) := fun _ => Or.inr rfl
theorem barrierWake (grp : Nat) (f : Nat) : Statement (.barrierWake grp f) := fun _ => Or.inr rfl
theorem drainStep (o : Nat) : Statement (.drainStep o) := fun _ => Or.inr rfl
theorem coreTlbLookup (acc : Nat) : Statement (.coreTlbLookup acc) := fun _ => Or.inr rfl
theorem dieTlbLookup (miss : Nat) : Statement (.dieTlbLookup miss) := fun _ => Or.inr rfl
theorem walkStep (w : Nat) : Statement (.walkStep w) := fun _ => Or.inr rfl
theorem walkReadReturn (w : Nat) : Statement (.walkReadReturn w) := fun _ => Or.inr rfl
theorem walkInstall (w : Nat) : Statement (.walkInstall w) := fun _ => Or.inr rfl
theorem lspAccess (acc : Nat) : Statement (.lspAccess acc) := fun _ => Or.inr rfl
theorem l2Access (req : Nat) : Statement (.l2Access req) := fun _ => Or.inr rfl
theorem l2FillArrival (chan : Nat) : Statement (.l2FillArrival chan) := fun _ => Or.inr rfl
theorem channelAccess (die : Nat) (slice : Nat) (o : Nat) : Statement (.channelAccess die slice o) := fun _ => Or.inr rfl
theorem refresh (die : Nat) : Statement (.refresh die) := fun _ => Or.inr rfl
theorem scrubStep (die : Nat) (channel : Nat) : Statement (.scrubStep die channel) := fun _ => Or.inr rfl
theorem pfMemoryAccess (die : Nat) (channel : Nat) : Statement (.pfMemoryAccess die channel) := fun _ => Or.inr rfl
theorem circuitMessageArrival (msg : Nat) : Statement (.circuitMessageArrival msg) := fun _ => Or.inr rfl
theorem loadDataArrival (req : Nat) : Statement (.loadDataArrival req) := fun _ => Or.inr rfl
theorem cpyLineRead (op : Nat) : Statement (.cpyLineRead op) := fun _ => Or.inr rfl
theorem bcpyLineRead (op : Nat) : Statement (.bcpyLineRead op) := fun _ => Or.inr rfl
theorem engineWritePresent (op : Nat) : Statement (.engineWritePresent op) := fun _ => Or.inr rfl
theorem tileTransferStart (op : Nat) : Statement (.tileTransferStart op) := fun _ => Or.inr rfl
theorem tldDataArrival (op : Nat) : Statement (.tldDataArrival op) := fun _ => Or.inr rfl
theorem tldRetire (op : Nat) : Statement (.tldRetire op) := fun _ => Or.inr rfl
theorem mmaPosition (op : Nat) : Statement (.mmaPosition op) := fun _ => Or.inr rfl
theorem tfreeWipe (b : Nat) (part : Nat) : Statement (.tfreeWipe b part) := fun _ => Or.inr rfl
theorem refireRunStart (run : Nat) : Statement (.refireRunStart run) := fun _ => Or.inr rfl
theorem refireStep (run : Nat) : Statement (.refireStep run) := fun _ => Or.inr rfl
theorem coilDrainComplete (op : Nat) : Statement (.coilDrainComplete op) := fun _ => Or.inr rfl
theorem landingRequestArrival (mig : Nat) : Statement (.landingRequestArrival mig) := fun _ => Or.inr rfl
theorem landingGrantArrival (mig : Nat) : Statement (.landingGrantArrival mig) := fun _ => Or.inr rfl
theorem migrationStateArrival (mig : Nat) : Statement (.migrationStateArrival mig) := fun _ => Or.inr rfl
theorem landingInstall (mig : Nat) : Statement (.landingInstall mig) := fun _ => Or.inr rfl
theorem invalRemoval (inv : Nat) (die : Nat) : Statement (.invalRemoval inv die) := fun _ => Or.inr rfl
theorem invalComplete (inv : Nat) : Statement (.invalComplete inv) := fun _ => Or.inr rfl
theorem fullWipeComplete : Statement (.fullWipeComplete ) := fun _ => Or.inr rfl
theorem eventRecordSlot (o : Nat) : Statement (.eventRecordSlot o) := fun _ => Or.inr rfl
theorem notify (o : Nat) (q : Nat) (v : DWord) : Statement (.notify o q v) := fun _ => Or.inr rfl
theorem registerWrite (fn : Nat) (off : Nat) (v : DWord) : Statement (.registerWrite fn off v) := fun _ => Or.inr rfl
theorem partitionEntryWrite (o : Nat) (off : Nat) (v : DWord) : Statement (.partitionEntryWrite o off v) := fun _ => Or.inr rfl
theorem seatWordWrite (o : Nat) (v : DWord) : Statement (.seatWordWrite o v) := fun _ => Or.inr rfl
theorem ownctlRun (o : Nat) : Statement (.ownctlRun o) := fun _ => Or.inr rfl
theorem ownctlUnlock (o : Nat) : Statement (.ownctlUnlock o) := fun _ => Or.inr rfl
theorem stage2Invalidation (o : Nat) (v : DWord) : Statement (.stage2Invalidation o v) := fun _ => Or.inr rfl
theorem connectionTableWrite (e : Nat) (v : DWord) : Statement (.connectionTableWrite e v) := fun _ => Or.inr rfl
theorem slotTableWrite (t : Nat) (half : Nat) (v : DWord) : Statement (.slotTableWrite t half v) := fun _ => Or.inr rfl
theorem contextSave (o : Nat) : Statement (.contextSave o) := fun _ => Or.inr rfl
theorem contextRestore (o : Nat) (verdict : Nat) : Statement (.contextRestore o verdict) := fun _ => Or.inr rfl
theorem lifecycleToBlank (signed : Bool) (serial : DWord) : Statement (.lifecycleToBlank signed serial) := fun _ => Or.inr rfl
theorem lifecycleToProvisioned (signed : Bool) (serial : DWord) : Statement (.lifecycleToProvisioned signed serial) := fun _ => Or.inr rfl
theorem lifecycleToDeployed (signed : Bool) (serial : DWord) : Statement (.lifecycleToDeployed signed serial) := fun _ => Or.inr rfl
theorem lifecycleToRma (signed : Bool) (serial : DWord) : Statement (.lifecycleToRma signed serial) := fun _ => Or.inr rfl
theorem pwrlimWrite (v : DWord) : Statement (.pwrlimWrite v) := fun _ => Or.inr rfl
theorem getTdispVersion (o : Nat) : Statement (.getTdispVersion o) := fun _ => Or.inr rfl
theorem getTdispCapabilities (o : Nat) : Statement (.getTdispCapabilities o) := fun _ => Or.inr rfl
theorem lockInterfaceRequest (o : Nat) : Statement (.lockInterfaceRequest o) := fun _ => Or.inr rfl
theorem getDeviceInterfaceReport (o : Nat) : Statement (.getDeviceInterfaceReport o) := fun _ => Or.inr rfl
theorem getDeviceInterfaceState (o : Nat) : Statement (.getDeviceInterfaceState o) := fun _ => Or.inr rfl
theorem startInterfaceRequest (o : Nat) : Statement (.startInterfaceRequest o) := fun _ => Or.inr rfl
theorem stopInterfaceRequest (o : Nat) : Statement (.stopInterfaceRequest o) := fun _ => Or.inr rfl
theorem spdmMessage (code : Nat) : Statement (.spdmMessage code) := fun _ => Or.inr rfl
theorem debugToken (signed : Bool) (serial : DWord) (owners : Lanes) (expiry : BitVec 32) : Statement (.debugToken signed serial owners expiry) := fun _ => Or.inr rfl
theorem hold (o : Nat) (die : Nat) (core : Nat) (slot : Nat) : Statement (.hold o die core slot) := fun _ => Or.inr rfl
theorem release (o : Nat) (die : Nat) (core : Nat) (slot : Nat) : Statement (.release o die core slot) := fun _ => Or.inr rfl
theorem step (o : Nat) (die : Nat) (core : Nat) (slot : Nat) (lane : Nat) : Statement (.step o die core slot lane) := fun _ => Or.inr rfl
theorem bpset (o : Nat) (core : Nat) (n : Nat) (addr : DWord) (lanes : Lanes) (enable : Bool) : Statement (.bpset o core n addr lanes enable) := fun _ => Or.inr rfl
theorem read (o : Nat) (structure_ : Nat) (index : Nat) : Statement (.read o structure_ index) := fun _ => Or.inr rfl
theorem freeze : Statement (.freeze ) := fun _ => Or.inr rfl
theorem thaw : Statement (.thaw ) := fun _ => Or.inr rfl
theorem frzNLow : Statement (.frzNLow ) := fun _ => Or.inr rfl
theorem frzNHigh : Statement (.frzNHigh ) := fun _ => Or.inr rfl
theorem reset (firmwareOk : Bool) : Statement (.reset firmwareOk) := fun _ => Or.inr rfl
theorem vfFlr (o : Nat) : Statement (.vfFlr o) := fun _ => Or.inr rfl
theorem pfFlr : Statement (.pfFlr ) := fun _ => Or.inr rfl
theorem thermalThrottle : Statement (.thermalThrottle ) := fun _ => Or.inr rfl
theorem thermalRecover : Statement (.thermalRecover ) := fun _ => Or.inr rfl
theorem thermalShutdown : Statement (.thermalShutdown ) := fun _ => Or.inr rfl
theorem clockStep (up : Bool) (exceeds : Bool) : Statement (.clockStep up exceeds) := fun _ => Or.inr rfl
theorem peerLinkUp (port : Nat) (dies : Half) : Statement (.peerLinkUp port dies) := fun _ => Or.inr rfl
theorem peerLinkDown (port : Nat) : Statement (.peerLinkDown port) := fun _ => Or.inr rfl
theorem hostMemoryRequest (o : Nat) (write : Bool) (gpa : DWord) (bytes : Nat) (data : BitVec 512) (relaxed : Bool) (ide : Bool) : Statement (.hostMemoryRequest o write gpa bytes data relaxed ide) := fun _ => Or.inr rfl
theorem peerRequest (port : Nat) (lane : Nat) (write : Bool) (gpa : DWord) (bytes : Nat) (data : BitVec 512) : Statement (.peerRequest port lane write gpa bytes data) := fun _ => Or.inr rfl
theorem externalReply (id : Nat) (ok : Bool) (data : BitVec 1024) : Statement (.externalReply id ok data) := fun _ => Or.inr rfl
theorem softError (where_ : Nat) (key : Nat) (index : Nat) (symbols : Nat) : Statement (.softError where_ key index symbols) := fun _ => Or.inr rfl
theorem pfMemoryRequest (die : Nat) (channel : Nat) (unit : Nat) (write : Bool) (data : BitVec 512) : Statement (.pfMemoryRequest die channel unit write data) := fun _ => Or.inr rfl

end Sys2Proof.Laws.Encoding
end

