-- ==== Sys2Proof/Tests/Slice0.lean ====
section
/-! SUPPORT. Tests: for every statement of the obligations a state and operands that meet its hypotheses, words of the spec's listings
read by the decoder, an ill-formed term for each check, and values that the spec's worked examples give. -/

open Sys2Proof Sys2Proof.Machine Sys2Proof.Claims

namespace Sys2Proof.Tests

-- One theorem after another: checked side by side, their evaluations would share one memory.
set_option Elab.async false

/-- A fragment of four threads at the code base, a launch of one block of one group, on owner 1, seated in seat 0. -/
def f0 : Frag := { (default : Frag) with id := 0, mask := 0xF, pc := 0x40000000, status := .run }
def g0 : Group := { (default : Group) with
  owner := 1, launch := 1, block := 1, budget := 64, scount := 56, live := true, frags := [f0], running := some 0
  s := [(4, 0x40010000), (5, 1), (6, 0x10), (7, 3), (8, 0x40020080), (9, 0x100)] }
def l0 : Launch := { (default : Launch) with
  owner := 1, entry := 0x40000000, handler := 0x40001000, gx := 1, gy := 1, gz := 1, clusterSize := 1, threads := [32], budgets := [64]
  scount := 56, spadKiB := 1, diemask := 1 }
def b0 : Block := { (default : Block) with
  owner := 1, launch := 1, begun := true, slots := [(0, 0, 0)], spadSize := 1024, ntiles := [(0, 4)]
  handles := [(1, ⟨false, 0, 0x40020000, none⟩), (3, ⟨true, 0, 0x40030000, none⟩)] }
def w1 : Owner := { (default : Owner) with running := true, resident := true, storage := 0x400 }
/-- The state before an instruction of that group; every position of every table is the seat's. -/
def s0 : State := { State.reset with
  clock := 8000, agenda := [], groups := [(0, g0)], launches := [(1, l0)], blocks := [(1, b0)], owners := [(1, w1)]
  seats := [(0, ⟨some 1, none, 0, 0⟩)], positions := (List.range 160).map (fun i => (i, 0))
  pf := mset (mset State.reset.pf (entryOff 1 0x08) 0x10002) (entryOff 1 0x48) 0x10
  cur := ⟨0, 0, 0x40000000, 0x40000004, 1000, false⟩ }
def hd : Hdr := ⟨7, 0, 0⟩

/-- Variations of the state: of its group, block, owner and launch, and of the stack of its prefix. -/
def sg (f : Group → Group) : State := modGroup s0 0 f
def sb (f : Block → Block) : State := modBlock s0 1 f
def so (f : Owner → Owner) : State := modOwner s0 1 f
def sl (f : Launch → Launch) : State := modLaunch s0 1 f
def px (x : BitVec 12) (s : State) : State := { s with pfx := some { x := x, ha := 0, hb := 0, hc := 0 } }

/-- Each of some instructions passes every check of issue at a state and acts. -/
def allIssue (s : State) (is : List (Instr × Hdr)) : Prop := ∀ e ∈ is, Issues e.1 e.2 s
def with_ (is : List (Hdr → Instr)) (h : Hdr) : List (Instr × Hdr) := is.map (fun m => (m h, h))
def short (is : List Instr) : List (Instr × Hdr) := is.map (fun i => (i, shortHdr 0))

/-- An access of a group's threads passes its checks. -/
def passes (s : State) (i : Instr) (kind : AccKind) (spad : Bool) (req : Ctx → Nat → LaneReq) : Prop :=
  let c := acting i hd s
  Passes s { accessOf c kind 0 5 c.lanes ((lanesOf c.lanes).map (req c)) with spad := spad }

/-- The state with coil 1 open, under a prefix that names it. -/
def tagged_ : State := px 0x045 (sb (fun b => { b with coils := [(1, ⟨some 1, [], false⟩)] }))

/-- A circuit of one wavelength each way between dies 0 and 1. -/
def wired (s : State) : State := { s with
  pf := msets s.pf [(0x20000, 0x10100001), (0x20008, 2), (0x20010, 0x11000001), (0x20018, 2)], owners := mmod s.owners 1 (fun w => { w with circuits := [0, 1] }) }

/-- Addresses 16 bytes apart in v1. -/
def spread : State := sg (fun g => { g with v := [(32, 0), (33, 16), (34, 32), (35, 48), (64, 1)] })

/-- Tiles 0 and 1 with a shape an `mma` takes, tile 2 with that of its result. -/
def shaped : State := sb (fun b => { b with tiles := [(0, ⟨0, 0, 0x1FC000, false⟩), (1, ⟨0, 0, 0x1FC000, false⟩), (2, ⟨0, 0, 9, false⟩)] })

/-! Witnesses: for each statement, a state and operands that meet the hypotheses of each of its clauses. -/

/-- R36: what turn 5 pushes can be popped from turn 6 on. -/
theorem test_pushedEntry_waits : qReady (qPush b0 0 5 7) 0 5 = 0 ∧ qReady (qPush b0 0 5 7) 0 6 = 1 := by decide

/-- R375: a full buffer counts the record, and its loss. -/
theorem test_traceCount_overflows :
    traceCount (bytesOf 8 0x100 ++ bytesOf 8 4 ++ bytesOf 4 4 ++ bytesOf 4 0) = bytesOf 8 0x100 ++ bytesOf 8 5 ++ bytesOf 4 4 ++ bytesOf 4 1 := by decide

theorem test_hypotheses_ScalarTwoSourceResults :
    allIssue s0 ([Instr.sadd, .ssub, .smul, .smulhI, .smulhN, .sand, .sor, .sxor, .sshl, .sshr, .ssra, .sminI, .smaxI, .sminN, .smaxN,
      .sdivN, .sremN].map (fun m => (m hd 0 4 55, hd))) ∧ Unstepped s0 ∧
    allIssue (sb (fun b => { b with queues := [(0, [1, 2])] })) [(.sadd hd 56 56 57, hd)] := by
  dsimp only [allIssue, Issues, Unstepped]; decide +kernel

theorem test_hypotheses_ScalarOneSourceResults :
    allIssue s0 (with_ [(.saddi · 63 4 55), (.sshli · 63 4 0), (.sshri · 63 4 0), (.smov · 4 55), (.sunary · 1 4 55), (.scmp · 4 5 7 6),
      (.klog · 6 0 3 6)] hd) ∧ Unstepped s0 := by
  dsimp only [allIssue, Issues, Unstepped]; decide +kernel

theorem test_hypotheses_ScalarConstants :
    allIssue s0 (with_ [(.smovi · 0xFFF 55), (.sins · 0x800 4)] hd) ∧ allIssue (px 0xFFF s0) (with_ [(.smovi · 0x800 55), (.sins · 0xFFF 4)] hd) ∧
    Unstepped s0 := by
  dsimp only [allIssue, Issues, Unstepped]; decide +kernel

theorem test_hypotheses_VectorThreeRegisterResults :
    allIssue s0 ([Instr.vadd, .vsub, .vmul, .vmulhI, .vmulhN, .vmad, .vand, .vor, .vxor, .vshl, .vshr, .vsra, .vminI, .vmaxI, .vminN, .vmaxN].map
      (fun m => (m hd 63 0 63, hd))) ∧ Unstepped s0 := by
  dsimp only [allIssue, Issues, Unstepped]; decide +kernel

theorem test_hypotheses_VectorOtherIntegerResults :
    allIssue s0 (with_ [(.vaddI64 · 62 0 2), (.vsubI64 · 62 0 2), (.vmadwN · 63 1 62), (.vdot4I8 · 1 2 3), (.vdot8I4 · 1 2 3), (.vaddi · 32 1 2),
      (.vshli · 31 1 2), (.vshri · 31 1 2), (.vsrai · 31 1 2), (.vunary · 1 1 2), (.vmovi · 0x800 63), (.vins · 0xFFF 63), (.vcmp · 1 2 6 6),
      (.vbcst · 0 4 1), (.vbcst · 1 4 62)] hd) ∧
    allIssue (sg (fun g => { g with p := [(6, 0x5)] })) [(.vsel ⟨6, 0, 0⟩ 1 2 3, ⟨6, 0, 0⟩)] ∧ Unstepped s0 := by
  dsimp only [allIssue, Issues, Unstepped]; decide +kernel

theorem test_hypotheses_ShortArithmeticResults :
    allIssue s0 (short [.vmov16 31 1, .vadd16 31 1, .vsub16 31 1, .vand16 31 1, .vor16 31 1, .vxor16 31 1, .vshli16 31 1, .vshri16 31 1,
      .vaddi16 16 7, .vmovi16 31 7, .vfadd16 1 2, .vfmul16 1 2]) ∧ Unstepped s0 := by
  dsimp only [allIssue, Issues, Unstepped]; decide +kernel

theorem test_hypotheses_FloatArithmeticResults :
    allIssue s0 (([Instr.vfadd, .vfsub, .vfmul, .vfmin, .vfmax, .vfdiv, .vffma].map (fun m => (m hd 63 1 2, hd))) ++
      ([Instr.vfaddF64, .vfmulF64, .vfdivF64, .vffmaF64].map (fun m => (m hd 62 0 2, hd)))) ∧ Unstepped s0 := by
  dsimp only [allIssue, Issues, Unstepped]; decide +kernel

theorem test_hypotheses_FloatOtherResults :
    allIssue s0 (with_ [(.vfaddH2 · 3 2 1), (.vfmulH2 · 3 2 1), (.vffmaH2 · 3 2 1), (.vfdot2Bh · 3 2 1), (.vfcmp · 3 2 7 6), (.vfcmpF64 · 4 2 7 6),
      (.vfunary · 9 2 1), (.vfunary · 12 2 4), (.vcvt · 0x16 2 4), (.vcvt · 0 2 4), (.vpkH2 · 3 2 1), (.vpkBh2 · 3 2 1), (.vpkI16 · 3 2 1)] hd) ∧
    Unstepped s0 := by
  dsimp only [allIssue, Issues, Unstepped]; decide +kernel

theorem test_hypotheses_LaneResults :
    allIssue s0 (with_ [(.plog · 6 0 3 6), (.vshfl · 3 2 1), (.vxorl · 31 2 1), (.vrotl · 31 2 1), (.vrd · 3 1), (.vote · 2 0 4), (.vredu · 0 1 4),
      (.vscan · 0 1 2)] hd) ∧ Unstepped s0 := by
  dsimp only [allIssue, Issues, Unstepped]; decide +kernel

theorem test_hypotheses_CanonicalAddresses :
    canonical 0x0080000000000000 = false ∧ canonical 0x003FFFFFFFFFFFFF = true ∧ canonical 0xFFC0000000000000 = true ∧
    (default : Access).spad = false ∧ fromLoop (group s0 0) f0 0x0080000000000000 = false ∧
    (let a : Access := { (default : Access) with reqs := [⟨8, 0x0080000000000000, 0, 0⟩], faults := [(8, .translation, 1)] }
     a.reqs.find? (fun q => q.lane == 8) = some ⟨8, 0x0080000000000000, 0, 0⟩ ∧ (∀ r ∈ a.reqs, canonical r.va = false)) := by decide +kernel

theorem test_hypotheses_PrefixesAndIdleInstructions :
    allIssue s0 ([(.nop hd, hd), (.yield hd, hd)] ++ short [.nop16, .yield16]) ∧ Unstepped s0 ∧ Straight s0 f0 ∧
    (let s := sg (fun g => { g with dbgctl := 4 })
     Issues (.bkpt hd 0xFFF) hd s ∧ Unstepped s ∧ (ctx s).window = false ∧ (group s s.cur.g).dbgctl.getLsbD 2 = true) := by
  dsimp only [allIssue, Issues, Unstepped, Straight]; decide +kernel

theorem test_hypotheses_SystemInstructionEffects :
    allIssue s0 ([(.ifence hd, hd), (.prog hd 0, hd), (.wsync hd, hd), (.stchk hd 1, hd), (.csum hd 0xFFF, hd)] ++ short [.ifence16]) ∧ Unstepped s0 ∧
    (ctx s0).window = false ∧ launchFlag s0 (group s0 s0.cur.g) 0 = false ∧
    (let s := { sl (fun l => { l with flags := 1, arg := 0x40000 }) with coreTlb := [⟨1, 0, false, ⟨0, 0, 0, 65536, true, true, false, false, false⟩, 0, 0, 0, false⟩] }
     Issues (.csum hd 1) hd s ∧ (frag (group s s.cur.g) s.cur.frag).id = s.cur.frag) := by
  dsimp only [allIssue, Issues, Unstepped]; decide +kernel

theorem test_hypotheses_SpecialRegisterAccess :
    allIssue s0 (with_ [(.srd · 0x010 55), (.srd · 0x050 4), (.srd · 0xFFF 4), (.swr · 0x010 5), (.swr · 0x050 5), (.sgetl · 3 63 4), (.sgetl · 4 1 4)] hd) ∧
    Unstepped s0 ∧ (ctx s0).window = false ∧ (readSpecial s0 (acting (.srd hd 0x010 55) hd s0) 0x010).isSome = true ∧
    readSpecial s0 (acting (.srd hd 0xFFF 4) hd s0) 0xFFF = none ∧
    refusesSpecial s0 (acting (.swr hd 0x010 5) hd s0) 0x010 (takeScalar s0 (acting (.swr hd 0x010 5) hd s0) 5).1 = none ∧
    refusesSpecial s0 (acting (.swr hd 0x050 5) hd s0) 0x050 (takeScalar s0 (acting (.swr hd 0x050 5) hd s0) 5).1 = some .illegalOp ∧
    (threads (group s0 0)).getLsbD 3 = true ∧ (threads (group s0 0)).getLsbD 4 = false := by
  dsimp only [allIssue, Issues, Unstepped]; decide +kernel

theorem test_hypotheses_TrapsAndSteps :
    Issues (.trap hd 0xFFF) hd s0 ∧ Issues (.bkpt hd 0xFFF) hd s0 ∧ Plainly s0 ∧ Handled s0 s0.cur.next ∧ (group s0 s0.cur.g).dbgctl.getLsbD 2 = false ∧
    (let s := sg (fun g => { g with dbgctl := 2 })
     Issues (.nop hd) hd s ∧ Straight s f0 ∧ (group s s.cur.g).dbgctl.getLsbD 1 = true ∧ Handled s s.cur.next) := by
  dsimp only [Issues, Straight, Plainly, Handled]; decide +kernel

theorem test_hypotheses_DecodeDefectsTrap :
    issueDefect s0 (ctx s0) (.vshli hd 32 1 2) = some .illegalOp ∧ issueDefect s0 (ctx s0) (.sadd hd 4 5 63) = none ∧
    issueDefect (px 0x00A s0) (ctx (px 0x00A s0)) (.vld hd 2 4 0 1) = some .illegalScope ∧
    issueDefect s0 (ctx s0) (.vaddI64 hd 1 0 2) = some .illegalReg ∧ (Instr.vshli hd 32 1 2).encoded = true ∧ Plainly s0 ∧ Handled s0 s0.cur.pc := by
  dsimp only [Plainly, Handled]; decide +kernel

theorem test_hypotheses_FatalFaultHalts :
    Cause.translation.fatal = true ∧ (owner s0 (group s0 0).owner).halting = false ∧ counts (owner s0 1) = true ∧
    (launch (sl (fun l => { l with handler := 0 })) 1).handler = 0 := by decide +kernel

theorem test_hypotheses_ResultLands :
    (∀ ws ∈ [[RegWrite.s 55 7], [.v 63 0 1, .v 63 31 2], [.k 6 true], [.p 6 31 true]],
      let s := { s0 with results := [(1, ⟨0, 1000, ws, 5, false, 0⟩)] }
      mfind s.results 1 = some ⟨0, 1000, ws, 5, false, 0⟩ ∧ s.badRegs = [] ∧
      ws.all (fun w => match w with | .v _ _ _ | .s _ _ | .p _ _ _ | .k _ _ => true | _ => false) = true) ∧
    [RegWrite.v 63 0 1, .v 63 31 2] = [(0, 1), (31, 2)].map (fun e => .v 63 e.1 e.2) := by decide +kernel

theorem test_hypotheses_BranchesMoveThreads :
    Issues (.bra hd 0x3FFFF) hd s0 ∧ Issues (.jmpS 0x7FF) (shortHdr 0) s0 ∧ Unstepped s0 ∧ Straight s0 f0 ∧ s0.cur.looped = false ∧
    (∀ m ∈ [5, 0], let s := sg (fun g => { g with p := [(0, BitVec.ofNat 32 m)] })
      gate (.bra ⟨0, 0, 0⟩ 2) ⟨0, 0, 0⟩ s (ctx s) = .go ∧ Unstepped s ∧ Straight s f0) := by
  dsimp only [Issues, Unstepped, Straight]; decide +kernel

theorem test_hypotheses_IndirectTransfers :
    (let s := sg (fun g => { g with v := [(0, 0x10), (1, 0x20), (2, 0xFFFFFFFE), (2016, 4)] })
     allIssue s (with_ [(.brx · 0), .ret, (.call · 0x1FFFF)] hd ++ short [.ret16]) ∧ Unstepped s ∧ Straight s f0 ∧ s.cur.looped = false ∧
     (∀ l, l < 32 → (acting (.brx hd 0) hd s).lanes.getLsbD l = true → (0x40000000 + (rv (group s 0) 0 l).setWidth 64).getLsbD 0 = false) ∧
     (s.cur.next - 0x40000000).toNat < 2 ^ 32) ∧
    (let s := sg (fun g => { g with v := [(0, 0x11)] })
     Issues (.brx hd 0) hd s ∧ (lanesOf (acting (.brx hd 0) hd s).lanes).head? = some 0 ∧ (ctx s).window = false ∧
     (0x40000000 + (rv (group s 0) 0 0).setWidth 64).getLsbD 0 = true) := by
  dsimp only [allIssue, Issues, Unstepped, Straight]; decide +kernel

theorem test_hypotheses_RegionsOpenAndLeave :
    Issues (.rcv hd 0x3FF80) hd s0 ∧ Unstepped s0 ∧ Straight s0 f0 ∧
    (let s := sg (fun g => { g with stack := List.replicate 16 ⟨0x40000100, 0xF, 0, 0⟩ })
     Issues (.rcv hd 1) hd s ∧ (group s 0).stack.length = 16 ∧ (ctx s).window = false ∧
     Issues (.brk hd 8 15) hd s ∧ Unstepped s ∧ (∀ l, l < 32 → (acting (.brk hd 8 15) hd s).lanes.getLsbD l = true → 16 ≤ entriesOf (group s 0) l)) ∧
    Issues (.brk hd 8 0) hd s0 ∧ (acting (.brk hd 8 0) hd s0).lanes.getLsbD 3 = true ∧ entriesOf (group s0 0) 3 < 1 ∧
    (group s0 0).stack.length ≠ 16 ∧ s0.cur.pc + 2 * (0x3FF80 : BitVec 18).signExtend 64 ≠ s0.cur.next ∧ s0.pfx = none ∧ s0.cur.looped = false := by
  dsimp only [Issues, Unstepped, Straight]; decide +kernel

theorem test_hypotheses_LoopsBegin :
    Issues (.loop hd 64 55) hd s0 ∧ rs (group s0 0) (sregOf 55) = 0 ∧ Issues (.loop hd 1 5) hd s0 ∧ rs (group s0 0) (sregOf 5) ≠ 0 ∧
    (acting (.loop hd 64 55) hd s0).lanes ≠ 0 ∧ (acting (.loop hd 1 5) hd s0).lanes ≠ 0 ∧ Unstepped s0 ∧ Straight s0 f0 ∧ (ctx s0).window = false ∧
    s0.pfx = none ∧ s0.cur.next.toNat + 2 * 64 < 2 ^ 64 := by
  dsimp only [Issues, Unstepped, Straight]; decide +kernel

theorem test_hypotheses_ThreadsLeave :
    allIssue s0 (with_ [.exit, (.reform · 63)] hd ++ short [.exit16]) ∧ Unstepped s0 ∧ Straight s0 f0 ∧ s0.cur.looped = false ∧
    (group s0 0).latches = [] ∧ (group s0 0).migrated = false ∧ 64 ≤ (group s0 0).budget := by
  dsimp only [allIssue, Issues, Unstepped, Straight]; decide +kernel

theorem test_hypotheses_VectorMemoryIssues :
    allIssue s0 (with_ [(.vld · 4 4 0 1), (.vst · 4 4 0 1), (.lds · 4 6 0 63), (.sts · 4 6 0 63), (.vatom · 0 4 0 1), (.vcas · 4 4 0 2), (.vcas · 5 4 0 4)] hd) ∧
    (let s := sg (fun g => { g with s := [(0, 0x40010000)] }); allIssue s (short [.vldB3216 0 1, .vstB3216 0 1]) ∧ Unstepped s ∧
      passes s (.vldB3216 0 1) (.load false 4) false (fun c l => ⟨l, addr c 0 0 l, 0, 0⟩)) ∧
    Unstepped s0 ∧ passes s0 (.vld hd 4 4 0 1) (.load false 4) false (fun c l => ⟨l, addr c 4 0 l, 0, 0⟩) ∧
    passes s0 (.vst hd 4 4 0 1) (.store 4) false (fun c l => ⟨l, addr c 4 0 l, 0, 0⟩) ∧
    passes s0 (.lds hd 4 6 0 63) (.load false 4) true (fun c l => ⟨l, offset c 6 0 l, 0, 0⟩) ∧
    passes s0 (.vcas hd 5 4 0 4) (.cas 8) false (fun c l => ⟨l, addr c 4 0 l, 0, 0⟩) ∧ (accessOf (ctx s0) (.store 4) 0 5 1 []).coil = 0 ∧
    (group s0 0).migrated = false := by
  dsimp only [allIssue, Issues, Unstepped, passes, Passes]; decide +kernel

theorem test_hypotheses_TaggedStoresCount :
    allIssue tagged_ (with_ [(.vst · 4 4 0 1), (.vatom · 0 4 0 1), (.sst · 63 4 5)] hd) ∧ Unstepped tagged_ ∧
    (let a := accessOf (ctx tagged_) (.store 4) 0 5 0xF ((lanesOf 0xF).map (fun l => ⟨l, addr (ctx tagged_) 4 0 l, 0, 0⟩))
     a.coil = 1 ∧ (ctx tagged_).g.migrated = false ∧ (ctx tagged_).window = false ∧ (coilDie (block tagged_ 1) a.coil).isSome = true ∧
     Passes tagged_ { a with op := some tagged_.nextId } ∧ lookups a ≠ []) ∧
    (let a := uniformAccess (ctx tagged_) (.sstore 8) 0 5 (0x40010000 + 504) 1
     a.coil = 1 ∧ Passes tagged_ { a with op := some tagged_.nextId } ∧ lookups a ≠ []) := by
  dsimp only [allIssue, Issues, Unstepped, Passes]; decide +kernel

theorem test_hypotheses_ScalarMemoryIssues :
    allIssue s0 (with_ [(.sld · 63 4 55), (.sst · 63 4 5)] hd) ∧ Unstepped s0 ∧
    Passes s0 (uniformAccess (ctx s0) (.sload false 8) 55 5 (0x40010000 + 504) 0) ∧
    Passes s0 (uniformAccess (ctx s0) (.sstore 8) 0 5 (0x40010000 + 504) 1) ∧ (uniformAccess (ctx s0) (.sstore 8) 0 5 0 1).coil = 0 := by
  dsimp only [allIssue, Issues, Unstepped, Passes]; decide +kernel

theorem test_hypotheses_FencesAndLatchesIssue :
    allIssue s0 (with_ [(.fence · 2 5), (.lbind · 9 8 4), (.lbind · 5 8 4), (.lacq · 0 5 4), (.lacq · 1 9 4), (.lrel · 5 4)] hd) ∧ Unstepped s0 ∧ Straight s0 f0 ∧
    (ctx s0).window = false ∧ fenceDone s0 0 2 5 (acting (.fence hd 2 5) hd s0).lanes = true ∧
    Issues (.fence hd 0 5) hd s0 ∧ fenceDone s0 0 0 5 (acting (.fence hd 0 5) hd s0).lanes = true ∧
    (let s := { s0 with nextId := 9, accs := [(7, { (default : Access) with
        owner := 1, block := 1, tids := [0], kind := .store 4, lanes := 0xF, reqs := [⟨0, 0x40010000, 0, 0⟩], unperformed := 1 })] }
     Issues (.fence hd 2 5) hd s ∧ Unstepped s ∧ Straight s f0 ∧ fenceDone s 0 2 5 (acting (.fence hd 2 5) hd s).lanes = false) ∧
    (0x40010000 : BitVec 64).toNat % 32 = 0 ∧ regionOk 0x40010000 0x40020080 0x100 = true ∧ regionOk 0x40010000 0x40020080 1 = false ∧
    Passes s0 (uniformAccess (ctx s0) (.lbind 0x40020080 0x100) 0 5 0x40010000 0) ∧
    Passes s0 { uniformAccess (ctx s0) (.lacq true) 0 5 0x40010000 0 with order := 1, scope := 9 } ∧
    Passes s0 { uniformAccess (ctx s0) .lrel 0 5 0x40010000 0 with scope := 5 } := by
  dsimp only [allIssue, Issues, Unstepped, Straight, Passes]; decide +kernel

theorem test_hypotheses_BarrierInstructionsIssue :
    allIssue s0 (with_ [(.barInit · 6 7), (.barExpin · 6 7), (.barExpout · 6 7), (.barWait · 6 7), (.barTest · 6 7), (.barArrive · 6), (.barInit · 5 7),
      (.barInit · 4 7), (.barInit · 6 10), (.barInit · 6 4)] hd) ∧ Unstepped s0 ∧ (ctx s0).g.migrated = false ∧
    inWindow 0x10 = true ∧ inWindow 0x40010000 = false ∧ traceMisaligned s0 0 = false ∧ canonical 0x10 = true ∧
    (let s := sg (fun g => { g with s := [(6, 0x0080000000000001), (7, 3)] }); Issues (.barWait hd 6 7) hd s ∧ canonical (takeScalar s (ctx s) 6).1 = false) ∧
    Passes s0 { uniformAccess (ctx s0) (.bar 5 3) 0 2 0x10 0 with order := 1, coil := 0, policy := 0 } ∧
    Passes s0 { uniformAccess (ctx s0) (.bar 0 3) 0 2 0x10 0 with order := 0, coil := 0, policy := 0 } ∧
    Passes s0 { uniformAccess (ctx s0) (.bar 1 4) 0 2 0x10 0 with order := 0, coil := 0, policy := 0 } ∧
    (takeScalar s0 (ctx s0) 6).1 = 0x10 ∧ (takeScalar s0 (ctx s0) 5).1.toNat % 16 ≠ 0 ∧ (takeScalar s0 (ctx s0) 10).1 = 0 ∧
    4095 < (takeScalar s0 (ctx s0) 4).1.toNat := by
  dsimp only [allIssue, Issues, Unstepped, Passes]; decide +kernel

theorem test_hypotheses_MonitorAndCounterWaits :
    allIssue s0 (with_ [(.monArm · 4), (.monWait · 55), .monClr, (.waitc · 0 0), (.waitc · 255 3)] hd) ∧ Unstepped s0 ∧ Straight s0 f0 ∧ (ctx s0).window = false ∧
    Passes s0 { uniformAccess (ctx s0) .arm 0 5 0x40010000 0 with order := 0, coil := 0, policy := 0 } ∧ inWindow 0x40010000 = false ∧
    (group s0 0).fired = none ∧ (group s0 0).armed = none ∧ armUnderway s0 0 = false ∧ monNotice s0 0 = false ∧ (group s0 0).exits = [] ∧ counter (group s0 0) 0 = 0 := by
  dsimp only [allIssue, Issues, Unstepped, Straight, Passes]; decide +kernel

theorem test_hypotheses_MonitorAndCounterWaits_waiting :
    (let s := sg (fun g => { g with fired := some 1 }); Issues (.monWait hd 5) hd s ∧ Unstepped s ∧ (group s 0).fired = some 1 ∧ armUnderway s 0 = false) ∧
    (let s := sg (fun g => { g with armed := some 1 }); Issues (.monWait hd 5) hd s ∧ Straight s f0 ∧ (group s 0).armed.isSome = true ∧ (group s 0).fired = none) ∧
    (let s := { s0 with accs := [(7, { (default : Access) with kind := .arm })] }; Issues (.monWait hd 5) hd s ∧ Straight s f0 ∧ armUnderway s 0 = true) ∧
    (let s := sg (fun g => { g with frags := [f0, { f0 with id := 1, status := .monWait 0 }] })
     Issues (.monClr hd) hd s ∧ Unstepped s ∧ monParked (acting (.monClr hd) hd s).g = true) ∧
    (let s := sg (fun g => { g with classC := [(1, false)] }); Issues (.waitc hd 0 0) hd s ∧ Straight s f0 ∧ 0 < counter (group s 0) 0) ∧
    (let s := sg (fun g => { g with exits := [0x100, 0x200] })
     Issues (.waitc hd 0 3) hd s ∧ (ctx s).window = false ∧ gate (.waitc hd 0 3) hd (sg (fun g => { g with exits := [0x200] })) (ctx (sg (fun g => { g with exits := [0x200] }))) = .go) := by
  dsimp only [allIssue, Issues, Unstepped, Straight, Passes]; decide +kernel

theorem test_hypotheses_CopiesCoilsAndMigration :
    Issues (.cpy hd 2 0 0 1 1) hd spread ∧ Unstepped spread ∧ (ctx spread).window = false ∧
    cpyTrap spread (ctx spread) 16 ((lanesOf 0xF).map (fun l => (l, addr (ctx spread) 0 1 l, addr (ctx spread) 4 1 l))) = none ∧
    Issues (.cpy hd 2 0 0 2 1) hd spread ∧
    (cpyTrap spread (ctx spread) 16 ((lanesOf 0xF).map (fun l => (l, addr (ctx spread) 0 1 l, addr (ctx spread) 4 2 l)))).isSome = true ∧
    allIssue s0 (with_ [(.bcpy · 10 4 8), (.bcpy · 9 4 8), (.bcpy · 5 4 8)] hd) ∧ bcpyTrap s0 (ctx s0) 0x40020080 0x40010000 0x100 = none ∧
    (bcpyTrap s0 (ctx s0) 0x40020080 0x40010000 1).isSome = true ∧
    allIssue (wired s0) (with_ [(.coilOpen · 5 7), (.coilOpen · 10 1), (.coilClose · 7), (.coilDrain · 7)] hd) ∧ Unstepped (wired s0) ∧
    coilOpenTrap (wired s0) (ctx (wired s0)) 1 = none ∧ coilDie (block (wired s0) 1) 7 = none ∧ (coilOpenTrap (wired s0) (ctx (wired s0)) 0).isSome = true ∧
    (let s := sb (fun b => { b with coils := [(7, ⟨some 1, [], false⟩)] })
     allIssue s (with_ [(.coilClose · 7), (.coilDrain · 7)] hd) ∧ coilDie (block s 1) 7 ≠ none ∧ (group s 0).migrated = false) ∧
    Issues (.mig hd 4) hd s0 ∧ Straight s0 f0 ∧ inWindow 0x40010000 = false ∧
    Passes s0 { (default : Access) with block := 1, lanes := 0xF, owner := 1, launch := 1, kind := .mig, reqs := [⟨0, 0x40010000, 0, 0⟩] } := by
  dsimp only [allIssue, Issues, Unstepped, Straight, Passes]; decide +kernel

theorem test_hypotheses_TileOperationsBegin :
    allIssue s0 (with_ [(.tld · 10 5 3), (.tst · 10 5 3)] hd) ∧ Unstepped s0 ∧ (ctx s0).window = false ∧ (ctx s0).g.migrated = false ∧ rota s0 1 5 ≠ 0 ∧
    holdsTile s0 (ctx s0) 3 = true ∧ handleAt (block s0 1) 1 = some ⟨false, 0, 0x40020000, none⟩ ∧
    (∀ store ∈ [false, true], moveTrap s0 (ctx s0) store 0 { opOf s0 (ctx s0) 2 (if store then .tst else .tld) with
      tiles := [3], shapes := [0], record := 0, coords := [0, 0, 0, 0] } = none) ∧
    Issues (.mma hd 1 0 0 2) hd shaped ∧ mmaTrap shaped (ctx shaped) 0 2 0 1 = none ∧ rota shaped 1 5 ≠ 0 ∧
    Issues (.mma hd 1 0 0 2) hd s0 ∧ (mmaTrap s0 (ctx s0) 0 2 0 1).isSome = true := by
  dsimp only [allIssue, Issues, Unstepped]; decide +kernel

theorem test_hypotheses_TileShapesAndStorage :
    allIssue s0 (with_ [(.tcfg · 0 7 3), (.tcfg · 0 8 3), (.talloc · 6), (.tfree · 7), (.tfree · 10), (.tzero · 3), (.trowget · 3 63), (.trowset · 3 63)] hd) ∧
    Unstepped s0 ∧ (ctx s0).window = false ∧ (ctx s0).g.migrated = false ∧ holdsTile s0 (ctx s0) 3 = true ∧ shapeField 0 3 = some (0, 4, 3) ∧
    shapeField 0 0x40020080 = none ∧ badCount 0x10 = false ∧ tileQuota s0 1 < 0x10 ∧ badCount 3 = false ∧ 3 ≤ tilesHeld (block s0 1) 0 ∧ badCount 0 = true ∧
    (tileAt (block s0 1) (tileKey 0 3)).poisoned = false ∧ (group s0 0).block = 1 ∧
    (let s := sb (fun b => { b with ntiles := [] })
     Issues (.talloc hd 7) hd s ∧ Straight s f0 ∧ tileWants s 1 (coreKey 0) 0 = [] ∧ (block s 1).owner = 1 ∧
     32 * (block s 1).die + (block s 1).core = coreKey 0 ∧ (mfind s.blocks 1).isSome = true ∧ (s.blocks.map (·.1)).Pairwise (· < ·) ∧
     tilesUsed s 1 (coreKey 0) 0 + 3 ≤ tileQuota s 1) := by
  dsimp only [allIssue, Issues, Unstepped, Straight]; decide +kernel

theorem test_hypotheses_SealInstructions :
    allIssue s0 (with_ [(.sealTensor · 4 55), (.sealRefire · 4 55), (.sealFree · 5), (.sealFree · 6)] hd) ∧ Unstepped s0 ∧ (ctx s0).window = false ∧
    (group s0 0).migrated = false ∧ (handleAt (block s0 1) 1).isSome = true ∧ (handleAt (block s0 1) 0x10).isSome = false ∧
    Passes s0 (accessOf (ctx s0) (.sealRec true) 55 5 0xF ((List.range 4).map (fun j => ⟨j, 0x40010000 + BitVec.ofNat 64 (64 * j), 0, 0⟩))) := by
  dsimp only [allIssue, Issues, Unstepped, Passes]; decide +kernel

theorem test_hypotheses_RefireInstructions :
    allIssue s0 (with_ [(.rfireGo · 7), (.rfireStat · 7 55), (.rfireGo · 5)] hd) ∧ Unstepped s0 ∧ (ctx s0).window = false ∧ (group s0 0).exits = [] ∧
    mset s0.groups 0 (group s0 0) = s0.groups ∧ rfireTrap s0 (ctx s0) 3 true = none ∧ rfireTrap s0 (ctx s0) 3 false = none ∧
    handleAt (block s0 1) 3 = some ⟨true, 0, 0x40030000, none⟩ ∧ (rfireTrap s0 (ctx s0) 1 true).isSome = true ∧
    (let s := { sb (fun b => { b with handles := [(3, ⟨true, 0, 0, some 9⟩)] }) with runs := [(9, { (default : RefRun) with state := 2 })] }
     Issues (.rfireAbort hd 7) hd s ∧ Unstepped s ∧ rfireTrap s (ctx s) 3 false = none ∧ handleAt (block s 1) 3 = some ⟨true, 0, 0, some 9⟩ ∧
     (mget s.runs 9).state = 2) := by
  dsimp only [allIssue, Issues, Unstepped]; decide +kernel

theorem test_hypotheses_FragmentsAndSaggars :
    (group s0 0).window = none ∧
    (let w : Window := { (default : Window) with active := 0xF, taken := 0x3, target := 0x40000100, fall := 0x40000004 }
     let s := sg (fun g => { g with window := some w })
     (group s 0).window = some w ∧ w.frag = 0 ∧ w.spec = false ∧ (group s 0).dbgctl.getLsbD 1 = false ∧ (group s 0).frags = [f0] ∧ f0.id = 0 ∧
     f0.mask = w.active ∧ (group s 0).stack = [] ∧ (group s 0).loop = none ∧ w.target ≠ w.fall ∧ w.taken ≠ 0 ∧ w.active &&& ~~~w.taken ≠ 0 ∧
     w.taken &&& ~~~w.active = 0 ∧ s.accs = []) ∧
    mfind s0.blocks 2 = none ∧
    (let y : Saggar := { (default : Saggar) with pc := 0x40000100, records := [⟨5, [1, 2], 900⟩, ⟨3, [3, 4], 936⟩] }
     let s := { sb (fun b => { b with saggars := [y] }) with groups := [] }
     (mfind s.blocks 1).isSome = true ∧ (block s 1).saggars = [y] ∧ mayFire s 1 y = true ∧ y.records ≠ [] ∧ y.records.length ≤ 32 ∧
     (stageSlots (block s 1) y.part y.stage).find? (fun k => !(group s k).live) = some 0) := by
  decide +kernel

theorem test_hypotheses_WakeEvents :
    (let x := { f0 with status := .barWait 0x10 3 }
     let s := sg (fun g => { g with frags := [x] })
     Waits s 0 x (.barWait 0x10 3) ∧ x.id = 0 ∧ launchFlag s (group s 0) 0 = false ∧ overWindow s 0 0x10 = false) ∧
    monParked (group s0 0) = false ∧ armUnderway s0 0 = false ∧
    (∀ limit ∈ [0, 1], let x := { f0 with status := .monWait limit }
     let s := sg (fun g => { g with frags := [x] })
     Waits s 0 x (.monWait limit) ∧ armUnderway s 0 = false ∧ (group s 0).fired = none ∧ (limit ≠ 0 → limit ≤ ocyc s (group s 0).owner) ∧ s.agenda = []) ∧
    (let x := { f0 with status := .monWait 8001 }
     let s := sg (fun g => { g with frags := [x], armed := some 1 })
     Waits s 0 x (.monWait 8001) ∧ x.id = 0 ∧ (group s 0).fired = none ∧ (group s 0).armed.isSome = true ∧ ocyc s (group s 0).owner < 8001 ∧
     armUnderway { s with accs := [(7, { (default : Access) with kind := .arm })] } 0 = true) ∧
    mfind s0.accs 7 = none ∧
    (let x := { f0 with status := .mem 7 }
     let a : Access := { (default : Access) with kind := .lacq false, scope := 3, launch := 2 }
     let s := { sg (fun g => { g with frags := [x] }) with accs := [(7, a)] }
     mfind s.accs 7 = some a ∧ a.kind = .lacq false ∧ a.scope < 4 ∧ a.op = none ∧ x.id = a.frag ∧ Waits s a.g x (.mem 7) ∧ mfind s.launches a.launch = none) := by
  dsimp only [Waits]; decide +kernel

theorem test_hypotheses_ScratchpadPasses :
    mfind s0.accs 7 = none ∧
    (let a : Access := { (default : Access) with
        owner := 1, block := 1, kind := .store 4, lanes := 0x80000000, reqs := [⟨31, 1020, 5, 0⟩], passes := [[31]], checked := true, launch := 2, spad := true }
     let s := { s0 with accs := [(7, a)] }
     mfind s.accs 7 = some a ∧ a.waiting = 0 ∧ a.order = 0 ∧ a.op = none ∧ a.transit = false ∧ vacant s a.owner 4 = false ∧ a.avail ≤ s.clock ∧ mustFollow s 7 a = false ∧ mfind s.launches a.launch = none ∧
     spadTarget s a (reqOf a 31) = some (1, 1020)) ∧
    (let a : Access := { (default : Access) with
        owner := 1, block := 1, kind := .load true 1, lanes := 0x80000000, reqs := [⟨31, 1023, 5, 0⟩], passes := [[31]], checked := true, launch := 2, spad := true }
     let s := { s0 with accs := [(7, a)] }
     mfind s.accs 7 = some a ∧ a.spad = true ∧ a.waiting = 0 ∧ a.order = 0 ∧ a.op = none ∧ a.transit = false ∧ vacant s a.owner 4 = false ∧ a.window = none ∧ a.got = [] ∧ a.avail ≤ s.clock ∧
     mustFollow s 7 a = false ∧ mfind s.launches a.launch = none ∧ a.lanes.getLsbD 31 = true ∧ (reqOf a 31).va.toNat = 1023 ∧ (block s a.block).spadBad = []) := by
  decide +kernel

/-- A line of the owner, held whole at its home slice. -/
def ln (die line : Nat) : L2Line := { (default : L2Line) with owner := 1, die := die, line := line, valid := BitVec.allOnes 128 }

theorem test_hypotheses_SliceServes :
    mfind s0.reqs 7 = none ∧
    (let r : Req := { (default : Req) with owner := 1, agent := .acc 3 }
     mfind { s0 with reqs := [(7, r)] }.reqs 7 = some r ∧ r.entered = none) ∧
    (let r : Req := { (default : Req) with owner := 1, die := 1, home := 0, line := 2, kind := .write 0xF 5, agent := .acc 3, entered := some 5 }
     let s := { s0 with reqs := [(7, r)], l2 := [ln 0 2] }
     mfind s.reqs 7 = some r ∧ r.entered.isSome = true ∧ vacant s r.owner 7 = false ∧ oldest s r.owner (sliceKey r.home r.line) = some (7, r) ∧
     r.home = homeOf (r.line * 128) ∧ r.home ≠ r.die ∧ l2Find s r.owner r.home r.line false = some (ln 0 2) ∧
     (ln 0 2).bad = false) ∧
    (let r : Req := { (default : Req) with owner := 1, line := 2, kind := .read [0, 31], agent := .acc 3, entered := some 5 }
     let s := { s0 with reqs := [(7, r)], l2 := [ln 0 2] }
     mfind s.reqs 7 = some r ∧ r.rep = false ∧ r.entered.isSome = true ∧ vacant s r.owner 7 = false ∧
     oldest s r.owner (sliceKey r.home r.line) = some (7, r) ∧ r.home = r.die ∧ l2Find s r.owner r.home r.line false = some (ln 0 2) ∧ (ln 0 2).bad = false ∧
     (ln 0 2).valid = BitVec.allOnes 128 ∧ (ln 0 2).poisoned = false) := by
  decide +kernel

theorem test_hypotheses_MemoryDataMoves :
    mfind s0.reqs 7 = none ∧ mfind s0.channels 7 = none ∧ mfind s0.messages 7 = none ∧ (∀ e ∈ s0.channels, e.2.owner ≠ 1) ∧
    (let r : Req := { (default : Req) with owner := 1, agent := .walk 3 }
     let s := { s0 with reqs := [(7, r)], walks := [(3, default)] }
     mfind s.reqs 7 = some r ∧ r.agent = .walk 3 ∧ mfind s.walks 3 = some default) ∧
    (let r : Req := { (default : Req) with owner := 1, agent := .inbound 3 }
     mfind { s0 with reqs := [(7, r)] }.reqs 7 = some r ∧ r.agent = .inbound 3) ∧
    (let r : ChanReq := { (default : ChanReq) with owner := 1, line := 2, entered := some 8000 }
     let s := { s0 with channels := [(7, r)], l2 := [{ ln 0 2 with valid := 0 }] }
     mfind s.channels 7 = some r ∧ l2Find s r.owner r.die r.line false = some { ln 0 2 with valid := 0 } ∧ s.reqs = [] ∧ s.poison = [] ∧ s.errors = [] ∧
     r.die = 0 ∧ r.served = false ∧ (∃ e, r.entered = some e ∧ e ≤ s.clock)) ∧
    (∀ w ∈ [false, true], let r : ChanReq := { (default : ChanReq) with owner := 1, line := 48 * 4 * bankGroup 0 + 2, write := w, entered := some 8000, mask := BitVec.allOnes 128 }
     let s := { s0 with channels := [(7, r)], clock := 8016 + 3 * ((bankGroup r.line + 8 - (8016 / 48 % 8)) % 8) }
     s.channels = [(7, r)] ∧ sliceOf (r.line * 128) = 2 ∧ bankGroup r.line = (s.clock % 48 / 3 + s.clock / 48) % 8 ∧
     s.clock % 48 / 3 < 15 ∧ (rota s 1 9).getLsbD (s.clock % 48 / 3) = true ∧ s.poison = [] ∧ s.errors = [] ∧ Memory.wf s.mem = true ∧ r.entered.isSome = true ∧
     15 ≤ { s with clock := 8016 + 45 }.clock % 48 / 3) ∧
    (let x : Message := { (default : Message) with payload := .fire 0 2 }; mfind { s0 with messages := [(7, x)] }.messages 7 = some x ∧ x.payload = .fire 0 2) ∧
    (let x : Message := { (default : Message) with payload := .groupState 3 }
     mfind { s0 with messages := [(7, x)] }.messages 7 = some x ∧ x.payload = .groupState 3) := by
  refine ⟨by decide +kernel, by decide +kernel, by decide +kernel, by decide +kernel, by decide +kernel, by decide +kernel, ?_, by decide +kernel,
    by decide +kernel, by decide +kernel⟩
  exact ⟨by decide +kernel, by decide +kernel, rfl, rfl, rfl, rfl, rfl, 8000, rfl, by decide +kernel⟩

/-- A translation of the granule at 0x40010000, in core 0's TLB and in die 0's. -/
def tlb_ : TlbEntry := ⟨1, 0, false, ⟨0x40010000, 0x10000, 0x10000, 65536, true, true, false, false, false⟩, 0, 0, 0, false⟩
def wk : Walk := { (default : Walk) with owner := 1, va := 0x40010000, level1 := 1, level2 := 1 }

theorem test_hypotheses_TranslationEvents :
    mfind s0.accs 7 = none ∧ mfind s0.misses 7 = none ∧ mfind s0.walks 7 = none ∧
    (let a : Access := { (default : Access) with owner := 1, todo := [[0x4001], [0x4002]] }
     let s := { s0 with accs := [(7, a)], coreTlb := [tlb_] }
     mfind s.accs 7 = some a ∧ a.kind.apart = false ∧ vacant s a.owner 4 = false ∧ s.coreTlb.any (fun e => e.bad) = false ∧ tlbFind s.coreTlb a.owner a.coreKey (0x4001 * 65536) false = some tlb_) ∧
    (let a : Access := { (default : Access) with owner := 1, todo := [[0x4003], [0x4002]] }
     let s := { s0 with accs := [(7, a)], coreTlb := [tlb_] }
     mfind s.accs 7 = some a ∧ tlbFind s.coreTlb a.owner a.coreKey (0x4003 * 65536) false = none ∧ missAt s a.owner a.coreKey 0x4003 = none ∧
     (missesOf s a.owner a.coreKey).length < 16) ∧
    (let x : Miss := { (default : Miss) with owner := 1, granule := 0x4001 }
     let s := { so (fun w => { w with ctlb := 1, dtlb := 1 }) with misses := [(7, x)], dieTlb := [{ tlb_ with set := 1 }] }
     mfind s.misses 7 = some x ∧ vacant s x.owner 8 = false ∧ x.direct = false ∧ s.dieTlb.any (fun e => e.bad) = false ∧
     dieFind s x.owner x.die (x.granule * 65536) false = some { tlb_ with set := 1 } ∧ cacheable s x.owner tlb_.x = true ∧ lanesOf (owner s x.owner).ctlb ≠ [] ∧ x.accs = [] ∧
     x.fetchers = [] ∧ s.accs = [] ∧ mfind { s0 with misses := [(7, x)] }.misses 7 = some x ∧ s0.dieTlb = [] ∧ s0.walks = []) ∧
    (let s := { s0 with walks := [(7, wk)], owners := mmod s0.owners 1 (fun w => { w with root := 0x10001 }), pf := mset s0.pf (entryOff 1 0x00) 0x10001 }
     mfind s.walks 7 = some wk ∧ vacant s wk.owner 8 = false ∧ s.dieTlb = [] ∧ (∃ pa, walkNext s wk = .read pa ∧ circuitMissing s wk.owner wk.die (homeOf pa) = none) ∧ wk.run = []) ∧
    (let x := { wk with data := some 0 }
     mfind { s0 with walks := [(7, x)] }.walks 7 = some x ∧ x.data = some 0 ∧ x.run = [] ∧ x.leaf2 = none ∧ ext (0 : BitVec 1024) (64 * (x.entry / 8 % 16)) 1 = 0) ∧
    (let x := { wk with leaf1 := some tlb_.x, leaf2 := some tlb_.x }
     let s := { s0 with walks := [(7, x)], owners := mmod s0.owners 1 (fun w => { w with root := 0x10001, dtlb := 1 }) }
     mfind s.walks 7 = some x ∧ vacant s x.owner 8 = false ∧ x.fault = none ∧ x.avoid = [] ∧ (∃ y, walkNext s x = .done y ∧ cacheable s x.owner y = true) ∧
     s.misses = [] ∧ (owner s x.owner).dtlb ≠ 0) := by
  refine ⟨by decide +kernel, by decide +kernel, by decide +kernel, by decide +kernel, by decide +kernel, by decide +kernel, ?_, by decide +kernel, ?_⟩
  · exact ⟨by decide +kernel, by decide +kernel, rfl, ⟨_, rfl, by decide +kernel⟩, rfl⟩
  · exact ⟨by decide +kernel, by decide +kernel, rfl, rfl, ⟨_, rfl, by decide +kernel⟩, rfl, by decide +kernel⟩

/-- An entry that has come for a walk is a table's, a first of a run, or a leaf, at either stage. -/
theorem test_hypotheses_TranslationEvents_entries :
    (let goes (x : Walk) (d : BitVec 1024) : Bool := mfind { s0 with walks := [(7, { x with data := some d })] }.walks 7 == some { x with data := some d } && x.run == []
     let e (x : Walk) (d : BitVec 1024) : BitVec 64 := BitVec.ofNat 64 (ext d (64 * (x.entry / 8 % 16)) 64)
     (∀ l ∈ [1, 2], goes { wk with level2 := l } 0x20001 = true ∧ pteReason l (e wk 0x20001) = none ∧ (e wk 0x20001).getLsbD 1 = false) ∧
     (∀ l ∈ [1, 2], goes { wk with level1 := l, leaf2 := some tlb_.x } 0x20001 = true) ∧
     goes { wk with level2 := 3 } 0x20041 = true ∧ pteReason 3 (e wk 0x20041) = none ∧ (e wk 0x20041).getLsbD 6 = true ∧
     goes { wk with level1 := 3, leaf2 := some tlb_.x } 0x20041 = true ∧
     pteReason 3 (e wk 0x20001) = none ∧ (e wk 0x20001).getLsbD 6 = false ∧ pteReason 2 (e wk 0x20000003) = none ∧ (e wk 0x20000003).getLsbD 1 = true) ∧
    (some tlb_.x).isSome = true ∧ s0.dieTlb = [] := by
  decide +kernel

theorem test_hypotheses_MaintenanceEvents :
    s0.clock / 48 % 16 < 8 ∧ 8 ≤ { s0 with clock := 8400 }.clock / 48 % 16 ∧ s0.poison = [] ∧ s0.errors = [] ∧
    s0.pfQueue.find? (fun a => a.die == 0 && a.channel == 3) = none ∧ Memory.wf s0.mem = true ∧
    ([none, some (5 : BitVec 512)].all (fun w => let a : PfAccess := ⟨0, 3, 2 ^ 23 - 1, w⟩
      { s0 with pfQueue := [a] }.pfQueue.find? (fun a => a.die == 0 && a.channel == 3) == some a && a.write == w)) = true := by
  decide +kernel

/-- The value of a read that has come out well. -/
def okOf {e a : Type} : Option (Except e a) → Option a
  | some (.ok x) => some x
  | _ => none
theorem ok_of {e a b : Type} {r : Option (Except e a) × b} {x : a} (h : okOf r.1 = some x) : r = (some (.ok x), r.2) := by
  obtain ⟨p, q⟩ := r
  rcases p with _ | _ | y <;> simp_all [okOf]

/-- A launch descriptor: 32 threads of stage 0, one block; and the storage word of an owner that can hold it. -/
def descr (m : Nat) : BitVec 512 := BitVec.ofNat 512 (0x40000000 + 2 ^ 192 + 2 ^ 224 + 2 ^ 256 + m * 2 ^ 288 + 32 * 2 ^ 320 + 64 * 2 ^ 384 + 16 * 2 ^ 416 +
  2 ^ 432 + 2 ^ 464)
def sq (q : Queue) : State := { s0 with queues := [(queueKey 1 0, q)], pf := mset s0.pf (entryOff 1 0x20) 0x100010102 }
/-- A queue of the owner at a command. -/
def at_ (c : BitVec 512) : Queue := { (default : Queue) with cmd := some c }
/-- A command with an address and an operand. -/
def cmd_ (va x : Nat) : BitVec 512 := BitVec.ofNat 512 (va * 2 ^ 64 + x * 2 ^ 128)
/-- Second-stage tables that map 512 MiB at 0 onto itself. -/
def mapped (s : State) : State := { s with mem := [(0x10000, 1), (0x10002, 2), (0x20000, 7)], pf := mset s.pf (entryOff 1 0x00) 0x10001 }

/-- The state with a queue's access of `n` bytes at an address, and what it has read. -/
def asked (q : Queue) (n : BitVec 64) (got : List (Nat × BitVec 1024)) : State := { sq { q with acc := some 7 } with accs := [(7, { (default : Access) with
  owner := 1, kind := .queue (queueKey 1 0), reqs := [⟨0, 0x40010000, 0, n⟩], checked := true, xlats := [tlb_.x], got := got })] }
def reading_ : Queue := { (default : Queue) with reading := true }

theorem test_hypotheses_QueueCommandsStart :
    (queue s0 1 0).reading = false ∧ (queue s0 1 0).cmd = none ∧
    (let s := asked reading_ 64 []
     (queue s 1 0).reading = true ∧ (owner s 1).running = true ∧ (owner s 1).saving = false ∧ (owner s 1).saved = false ∧ (owner s 1).discarding = false ∧
     (owner s 1).halting = false ∧ queueState s 1 0 = some .later) ∧
    (let s := asked reading_ 64 [(0, 5)]; queueState s 1 0 = some (.got 5) ∧ counts (owner s 1) = true) ∧
    (let s := mapped (sq reading_)
     (queue s 1 0).reading = true ∧ queueState s 1 0 = none ∧ ∃ y u, stage2Now s 1 (some (queueDie s 1)) 0 = (some (.ok y), u) ∧ y.va = 0 ∧ y.pa = 0 ∧
       paReason u 1 0 = none ∧ spaceOf 0 = 0 ∧ accessCircuit u 1 (queueDie u 1) 0 = none) ∧
    (let s := sq (at_ (cmd_ 1 0)); (queue s 1 0).cmd = some (cmd_ 1 0) ∧ counts (owner s 1) = true ∧ rootAhead s 1 0 = false ∧
       (owner s 1).root = vfGet s 1 0x400 ∧ cmdField (cmd_ 1 0) 8 8 % 64 ≠ 0) ∧
    (let s := { sq { at_ (cmd_ 0 0) with order := 1 } with
        queues := [(queueKey 1 0, { at_ (cmd_ 0 0) with order := 1 }), (queueKey 1 1, { at_ (cmd_ 0 0) with rootWait := some 5 })] }
     rootAhead s 1 0 = true ∧ counts (owner s 1) = true) ∧
    (∀ m ∈ [0, 1], let s := asked (at_ (cmd_ 0x40010000 0)) 64 [(0, (descr m).setWidth 1024)]
     (queue s 1 0).cmd = some (cmd_ 0x40010000 0) ∧ cmdField (cmd_ 0x40010000 0) 8 8 % 64 = 0 ∧
     (queueRead s 1 0 0x40010000 64).1 = .got (descr m).toNat ∧
     descriptorReason (queueRead s 1 0 0x40010000 64).2 1 (entry (queueRead s 1 0 0x40010000 64).2 1 0x20) (BitVec.ofNat 512 (descr m).toNat) =
       (if m = 0 then some 4 else none) ∧ counts (owner (queueRead s 1 0 0x40010000 64).2 1) = true) := by
  refine ⟨by decide +kernel, by decide +kernel, by decide +kernel, by decide +kernel, ?_, by decide +kernel, by decide +kernel, by decide +kernel⟩
  exact ⟨by decide +kernel, by decide +kernel, ⟨0, 0, 0, 2 ^ 29, true, false, false, false, false⟩, _, ok_of (by decide +kernel), rfl, rfl, by decide +kernel,
    by decide +kernel, by decide +kernel⟩

theorem test_hypotheses_QueueCommandsAct :
    (queue s0 1 0).cmd = none ∧ (queue s0 1 0).replay = none ∧
    (let c := cmd_ 0x40010000 0
     let s := sq (at_ c)
     AtCommand s 1 0 c ∧ (queue s 1 0).acc = none ∧ counts (owner s 1) = true ∧ queueOwes s 1 (cmdField c 0x18 1) = false ∧
     queueOwes { s with accs := [(3, { (default : Access) with owner := 1, kind := .queue 65, reqs := [⟨8, 0x40010000, 0, 0⟩], unperformed := 1 })] } 1
       (cmdField c 0x18 1) = true ∧ canonical 0x40010000 = true ∧ inWindow 0x40010000 = false ∧ (owner s 1).saving = false ∧ (owner s 1).saved = false ∧
     (0x40010000 : BitVec 64).toNat % 128 + 8 ≤ 128 ∧ cmdField c 0x10 8 = 0 ∧ graphBusy s 1 0 0x40010000 = false ∧ cmdField (cmd_ 0x40010000 5) 0x10 8 ≠ 0) ∧
    (let s := asked (at_ (cmd_ 0x40010000 0)) 8 []
     AtCommand s 1 0 (cmd_ 0x40010000 0) ∧ (queue s 1 0).acc = some 7 ∧ ∃ a, mfind s.accs 7 = some a ∧ queueAcc s 1 0 = some a ∧ lineTrap a = none ∧
       a.unperformed = 0 ∧ queueState s 1 0 = some .later ∧ a.checked = true ∧ a.passes = [] ∧ a.waiting = 0 ∧ a.got = [] ∧
       spaceOf (lanePa a (reqOf a 0)) = 0) ∧
    (let s := { asked (at_ (cmd_ 0x40010000 0)) 8 [] with accs := [(7, { (default : Access) with unperformed := 1 })] }
     (queue s 1 0).acc = some 7 ∧ ∃ a, mfind s.accs 7 = some a ∧ lineTrap a = none ∧ a.unperformed ≠ 0) ∧
    (∀ x ∈ [0, 5], let c := cmd_ 0x40010000 x
     let s := asked { at_ c with watcher := some 3 } 8 [(0, 0)]
     (queue s 1 0).cmd = some c ∧ (queue s 1 0).replay = none ∧ (queue s 1 0).halted = false ∧ queueState s 1 0 = some (.got 0) ∧
     waitHolds (cmdField c 0x18 1) 0 (cmdField c 0x10 8) = (x == 0) ∧ (queue s 1 0).watcher.isSome = true) ∧
    (let r : Replay := { (default : Replay) with graph := 0x40010000 }
     let q := { at_ 5 with replay := some r }
     (queue (sq q) 1 0).replay = some r ∧ (queue (sq q) 1 0).cmd ≠ none ∧ r.ready = false ∧ replayPiece r = some (0x40010000, 64) ∧ queueState (sq q) 1 0 = none ∧
     queueState (asked q 64 [(0, 2)]) 1 0 = some (.got 2) ∧ replayTake r 2 = some { r with count := some 2 }) ∧
    (let r : Replay := { (default : Replay) with count := some 1, cmds := [BitVec.ofNat 512 6] }
     let s := sq { at_ 5 with replay := some r }
     (queue s 1 0).replay = some r ∧ (queue s 1 0).cmd ≠ none ∧ r.ready = false ∧ r.next = 0 ∧ replayPiece r = none ∧ r.cmds[0]? = some 6 ∧
     r.cmds.any (fun c => malformed c true) = false ∧ (owner s 1).saving = false ∧ (owner s 1).saved = false ∧ counts (owner s 1) = true) ∧
    (let owed (s : State) (p : Nat) : Nat := ((queue s 1 p).tail + queueSize s 1 p - (queue s 1 p).head) % queueSize s 1 p +
       (if (queue s 1 p).cmd.isSome ∨ (queue s 1 p).replay.isSome then 1 else 0)
     (∀ p ∈ (List.range 64).filter (fun p => p != 0), owed (sq (at_ 6)) p = 0) ∧ AtCommand (sq (at_ 6)) 1 0 6 ∧
     owed { sq (at_ 6) with queues := [(queueKey 1 0, at_ 6), (queueKey 1 63, at_ 1)] } 63 ≠ 0 ∧
     AtCommand { sq (at_ 6) with queues := [(queueKey 1 0, at_ 6), (queueKey 1 63, at_ 1)] } 1 0 6) := by
  dsimp only [AtCommand]
  refine ⟨by decide +kernel, by decide +kernel, by decide +kernel, ⟨by decide +kernel, by decide +kernel, _, rfl, rfl, ?_⟩, ⟨by decide +kernel, _, rfl, ?_⟩,
    by decide +kernel, by decide +kernel, by decide +kernel, by decide +kernel⟩
  all_goals decide +kernel

theorem test_hypotheses_LaunchProgress :
    State.reset.blocks = [] ∧
    (let x : Block := { b0 with begun := false }
     let s := { s0 with blocks := [(1, x)] }
     s.blocks = [(1, x)] ∧ x.begun = false ∧ x.ended = false ∧ x.slots = [(0, 0, 0)] ∧ placedLater s x.owner x.launch x.cluster = false) ∧
    mfind s0.blocks 2 = none ∧ mfind s0.blocks 1 = some b0 ∧ b0.ended = false ∧
    (let x : Block := { b0 with ended := true }
     let s := { s0 with blocks := [(1, x)], launches := [] }
     s.blocks = [(1, x)] ∧ x.ended = true ∧ s.launches = [] ∧ moreBlockEnds s x.owner = false ∧ slotsDraining s 1 x = x.slots ∧ x.slots ≠ [] ∧
     slotsDraining { s with groups := [] } 1 x = [] ∧ moreBlockEnds { s with groups := [] } x.owner = false) ∧
    mfind s0.launches 2 = none ∧ mfind s0.launches 1 = some l0 ∧ l0.completing = false ∧ counts (owner s0 1) = true ∧
    (let x := { l0 with completing := true }; mfind { s0 with launches := [(1, x)] }.launches 1 = some x ∧ x.completing = true) ∧
    (queue s0 1 0).replay = none ∧ (queue s0 1 0).halted = false ∧ (∀ p, p < 64 → (queue s0 1 p).rootWait = none) := by
  decide +kernel

/-- The device while it is not ready. -/
def notReady : State := { s0 with pf := mset s0.pf 0x48 0 }

theorem test_hypotheses_VfRegisterEvents :
    deviceReady notReady = false ∧ deviceReady s0 = true ∧ (owner s0 1).running = true ∧ counts (owner s0 1) = true ∧ counts (owner s0 2) = false ∧
    (owner s0 1).stored = [] ∧
    (let s := so (fun w => { w with stored := [(0xA18, 7)] }); counts (owner s 1) = true ∧ (owner s 1).stored = [(0xA18, 7)]) ∧
    (let s := so (fun w => { w with stored := [(8 * 63, 7)] })
     counts (owner s 1) = true ∧ (owner s 1).stored = [(8 * 63, 7)] ∧ (owner s 1).saving = false ∧ (owner s 1).saved = false ∧
     (vfGet s 1 (queueReg 63 8)).getLsbD 0 = false) ∧
    (queue s0 1 0).halted = false ∧
    (let s := sq { (default : Queue) with halted := true }
     (queue s 1 0).halted = true ∧ (vfGet s 1 (queueReg 0 24)).getLsbD 63 = false ∧ (queue s 1 0).head = (queue s 1 0).tail) ∧
    (owner s0 1).delayed = [] ∧
    (let r : List (BitVec 8) := List.replicate 32 0
     let s := { so (fun w => { w with delayed := [r] }) with vf := [(65536 + 0x800, 9), (65536 + 0x808, 1)] }
     (owner s 1).delayed = [r] ∧ (recentRecords s 1).length < 64 ∧ (vfGet s 1 0x808).getLsbD 0 = true ∧
     ((owner s 1).producer - (owner s 1).consumer).toNat + r.length / 16 ≤ ringCapacity s 1) ∧
    (let r : List (BitVec 8) := List.replicate 32 0
     let s := { so (fun w => { w with delayed := [r], producer := 511 }) with vf := [(65536 + 0x800, 9), (65536 + 0x808, 1)] }
     ringCapacity s 1 < ((owner s 1).producer - (owner s 1).consumer).toNat + r.length / 16) ∧
    (let s := so (fun w => { w with delayed := [[0]], recent := List.replicate 64 1 }); (owner s 1).delayed ≠ [] ∧ 64 ≤ (recentRecords s 1).length) ∧
    (vfGet s0 1 0x808).getLsbD 0 = false := by
  decide +kernel

def partReasons (s : State) (w : Nat) (v : BitVec 64) : Option Nat :=
  let s' := pfSet s (entryOff 1 w) (entryMask w v)
  lowestReason [(1, overlaps s' 1 w), (2, oversubscribed s'), (3, outOfRange s' 1), (4, owState s 1 == 2 && !runFields s' 1), (7, imageTooLong s' 1)]
def seatReasons (s : State) (v : BitVec 64) : Option Nat :=
  let s' := pfSet s (entryOff 1 0x48) (entryMask 0x48 v)
  lowestReason [(3, ext v 32 32 != 0 && ext v 32 32 < 7680), (4, holdsWays s 1 && !mayHoldWays s' 1),
    (5, seated s' 1 && ((seatOwners s' (seatOf s' 1)).any (fun p => p != 1 && turnWord s' p == turnWord s' 1))),
    (6, owState s 1 == 2 && ext (entryMask 0x48 v) 0 32 != ext (entry s 1 0x48) 0 32)]
/-- The owner out of RUN; and under a lock. -/
def idle_ : State := { s0 with pf := mset s0.pf (entryOff 1 0x08) 0x10000 }
def held_ : State := { s0 with pf := mset s0.pf (entryOff 1 0x08) 0x10102 }

theorem test_hypotheses_PfRegisterWrites :
    deviceReady notReady = false ∧ deviceReady idle_ = true ∧ deviceReady held_ = true ∧ (∀ o, o < 32 → locked idle_ o = false) ∧ locked held_ 1 = true ∧
    entryMask 0x20 0 = entry held_ 1 0x20 ∧
    (∀ w ∈ [0x20, 0x30, 0x38], partReasons idle_ w 0 = none) ∧ partReasons idle_ 0x20 0x1F = some 3 ∧ partReasons s0 0x20 1 = some 4 ∧
    seatReasons idle_ 0x1E000000001F = none ∧ seatReasons idle_ 0x1DFF00000010 = some 3 ∧ seatReasons s0 0x11 = some 6 ∧
    ext (600 : BitVec 64) 0 16 = 600 ∧ ext (2000 : BitVec 64) 0 16 = 2000 ∧ ext (599 : BitVec 64) 0 16 < 600 ∧ 2000 < ext (2001 : BitVec 64) 0 16 ∧
    (∀ k, k < 16 → seatStarved (pfSet idle_ 0x30088 0) k = false) ∧ (9 = 9 → 1 = 1 → ext (0x008F8F8F8F8F8F8F : BitVec 64) 56 8 = 0) ∧ (∀ i, i < 8 → ext (0x8F8F8F8F8F8F8F8F : BitVec 64) (8 * i + 4) 3 = 0) ∧
    (ext (0x1000 : BitVec 64) (8 * 1 + 4) 3 ≠ 0 ∧ ∀ j, j < 1 → ext (0x1000 : BitVec 64) (8 * j + 4) 3 = 0) ∧
    connState idle_ 1535 = 0 ∧ (0x210100001 : BitVec 64).getLsbD 33 = true ∧
    lowestReason (setupReasons idle_ 1535 (BitVec.ofNat 64 (ext (0x210100001 : BitVec 64) 20 14 * 2 ^ 20 + ext (0x210100001 : BitVec 64) 0 19))) = none ∧
    lowestReason (setupReasons idle_ 1535 (BitVec.ofNat 64 (ext (0x210000001 : BitVec 64) 20 14 * 2 ^ 20 + ext (0x210000001 : BitVec 64) 0 19))) = some 3 ∧
    (pfGet idle_ 0x88).getLsbD 31 = false ∧
    (∀ st ∈ [0, 1, 2, 3], connState { s0 with pf := mset s0.pf 0x20008 (BitVec.ofNat 64 st) } 0 = st) ∧
    (entry idle_ 1 0x10).getLsbD 0 = false ∧ (entry { idle_ with pf := mset idle_.pf (entryOff 1 0x10) 1 } 1 0x10).getLsbD 0 = true ∧
    owTdisp idle_ 1 = false ∧ owState idle_ 1 = 0 ∧ mayRun idle_ 1 = false ∧
    mayRun { idle_ with pf := msets idle_.pf ([(entryOff 1 0x20, 0x100010102), (entryOff 1 0x28, 0x100000001), (entryOff 1 0x30, 0x100000001), (entryOff 1 0x38, 0x101)] ++
      (List.range 20).map (fun i => (0x30000 + 8 * i, 0x8080808080808080))) } 1 = true ∧
    owState s0 1 = 2 ∧ owTdisp s0 1 = false ∧ (owner s0 1).running = true ∧ counts (owner s0 1) = true ∧ (owner s0 1).saved = false ∧
    (owner s0 1).halting = false ∧ (owner s0 1).discarding = false ∧ (owner s0 1).wiping = false := by
  decide +kernel

def img : Image := { (default : Image) with owner := 1, diemask := 1, length := imageLength s0 1 }
/-- The owner pre-empted, its image ready; and a seat of the owner at the end of a switch. -/
def saved_ : State := { so (fun w => { w with saved := true, image := some img }) with pf := mset s0.pf 0x90 (96 + 1), images := [(0, img)] }
def empty_ : State := { s0 with seats := [] }

theorem test_hypotheses_ContextOperations :
    deviceReady notReady = false ∧ deviceReady s0 = true ∧ (pfGet s0 0x90).getLsbD 5 = false ∧ (pfGet saved_ 0x90).getLsbD 5 = true ∧ deviceReady saved_ = true ∧
    owState idle_ 1 ≠ 2 ∧ owState s0 1 = 2 ∧ (owner s0 1).saved = false ∧ (owner s0 1).discarding = false ∧ (owner s0 1).wiping = false ∧ regionFree s0 1 = true ∧
    counts (owner s0 1) = true ∧
    (let s := so (fun w => { w with saved := true }); owState s 1 = 2 ∧ (owner s 1).saved = true ∧ (owner s 1).discarding = false ∧ regionFree s 1 = true ∧
      mfind s.images (contextBuffer s) = none) ∧
    (∀ n ∈ [0, 1], let s := { so (fun w => { w with saved := true, saveCount := BitVec.ofNat 64 n }) with images := [(0, img)] }
      mfind s.images (contextBuffer s) = some img ∧ img.owner = 1 ∧ img.diemask.toNat = owDies s 1 ∧ img.prot = owTdisp s 1 ∧ img.length = imageLength s 1 ∧
      (img.counter = (owner s 1).saveCount ↔ n = 0)) ∧
    s0.migs = [] ∧ (owner s0 1).saving = false ∧
    (let s := so (fun w => { w with saving := true })
     (owner s 1).saving = true ∧ (owner s 1).halted = false ∧ counts (owner s 1) = true ∧ s.migs = [] ∧ quiescent s 1 = true ∧
     quiescent { s with reqs := [(7, { (default : Req) with owner := 1 })] } 1 = false) ∧
    (∀ o, o < 32 → (owner s0 o).image = none) ∧ contextOf saved_ 1 = true ∧ (owner saved_ 1).saved = true ∧ (owner saved_ 1).image = some img ∧
    seated saved_ 1 = true ∧ seatOf saved_ 1 = 0 := by
  decide +kernel

/-- Two owners of one seat. -/
def two_ : State := { s0 with
  owners := [(1, w1), (2, { (default : Owner) with running := true })], pf := msets s0.pf [(entryOff 2 0x08, 0x10002), (entryOff 2 0x48, 0x110)] }
theorem test_hypotheses_SeatEvents :
    (seat s0 0).resident.isSome = true ∧ (seat s0 1).resident = none ∧ (seat s0 1).switching = none ∧ s0.moves = [] ∧ nextResident s0 1 none = none ∧
    (seat two_ 0).resident = some 1 ∧ (two_.agenda.any (fun e => e.1 ≤ two_.clock && e.2 == Instr.drainStep 1)) = false ∧ two_.moves = [] ∧
    (∀ e, e < 1536 → connState two_ e ≠ 3) ∧ (owner two_ 1).halted = false ∧ (owner two_ 1).resident = true ∧ (owner two_ 1).drain = none ∧
    nextResident two_ 0 (some (seat two_ 0).turn) = some 2 ∧
    (let s := { saved_ with seats := [(0, ⟨none, some 1, 0, 0⟩)] }; (seat s 0).switching = some 1 ∧ (owner s 1).saved = true ∧ (owner s 1).restoring = false) ∧
    (let s := { so (fun w => { w with running := false, resident := false, entering := true }) with
        seats := [(0, ⟨none, some 1, 0, 0⟩)], groups := [], launches := [], blocks := [] }
     (seat s 0).switching = some 1 ∧ (owner s 1).saved = false ∧ (owner s 1).restoring = false ∧ (owner s 1).image = none ∧ (owner s 1).drain = none ∧
     (owner s 1).entering = true ∧ (owner s 1).rotaChanged = false ∧ (owner s 1).stored = [] ∧ (owner s 1).held = [] ∧ (owner s 1).back = 0 ∧
     (∀ e, e < 1536 → connState s e ≠ 2 ∧ connState s e ≠ 3) ∧ s.reqs = [] ∧ s.accs = [] ∧ s.migs = [] ∧ s.arrived = [] ∧ s.inbound = [] ∧ s.groups = [] ∧ s.queues = []) ∧
    (∀ n ∈ [0, 500], let d : Drain := ⟨1, 1, n, 60, 12, 4⟩
     let s := so (fun w => { w with drain := some d })
     (owner s 1).drain = some d ∧ (512 * popcount d.l2 ≤ d.lines + d.stepLines ↔ n = 500) ∧ 64 ≤ d.sets + d.stepSets ∧ boundaryNow s 1 = false ∧
     boundaryNow { s with agenda := [(8000, .quantumBoundary 0)] } 1 = true ∧ (owner s 1).stored = [] ∧ (owner s 1).held = [] ∧
     (owner s 1).rotaChanged = false ∧ (owner s 1).back = 0 ∧ s.reqs = [] ∧ s.accs = [] ∧ s.migs = [] ∧ s.arrived = [] ∧ s.inbound = []) := by
  decide +kernel

theorem test_hypotheses_HaltsWipesAndResets :
    (owner s0 1).halting = false ∧ (owner s0 1).discarding = false ∧
    (let s := so (fun w => { w with halting := true }); (owner s 1).halting = true ∧ (owner s 1).discarding = false ∧ (owner s 1).after = 0 ∧
     storesOpen s 1 = false ∧ s.groups.any (fun e => e.2.owner == 1 && e.2.live && inWindowPhase e.2) = false ∧ counts (owner s 1) = true ∧
     (modGroup s 0 (fun g => { g with window := some default })).groups.any (fun e => e.2.owner == 1 && e.2.live && inWindowPhase e.2) = true) ∧
    (owner s0 1).wiping = false ∧ (let s := so (fun w => { w with wiping := true }); (owner s 1).wiping = true ∧ Memory.wf s.mem = true) ∧
    deviceReady notReady = false ∧ deviceReady s0 = true ∧ (owner s0 1).running = true ∧ counts (owner s0 1) = true ∧ (owner s0 1).saved = false ∧
    (pfGet s0 0x40).getLsbD 2 = false ∧ s0.fuses.lifecycle < 4 ∧ allUnlocked s0 = false ∧ allUnlocked idle_ = true ∧
    (idle_.fuses.lifecycle, 2) ∈ [(0, 1), (1, 2), (2, 3), (1, 3)] ∧ (idle_.fuses.lifecycle, 1) ∉ [(0, 1), (1, 2), (2, 3), (1, 3)] := by
  decide +kernel

/-- Owners under TDISP in each state, and the storage with which one may run. -/
def tdisp (v : BitVec 64) (s : State) : State := { s with pf := msets s.pf ([(entryOff 1 0x08, v), (entryOff 1 0x20, 0x100010102), (entryOff 1 0x28, 0x100000001),
  (entryOff 1 0x30, 0x100000001), (entryOff 1 0x38, 0x101)] ++ (List.range 20).map (fun i => (0x30000 + 8 * i, 0x8080808080808080))) }
theorem test_hypotheses_InterfaceMessages :
    deviceReady notReady = false ∧ deviceReady s0 = true ∧ owTdisp s0 1 = false ∧
    (∀ st ∈ [0, 1, 2], let s := tdisp (BitVec.ofNat 64 (0x10100 + st)) s0
      deviceReady s = true ∧ owTdisp s 1 = true ∧ owState s 1 = st ∧ mayRun s 1 = true ∧ (owner s 1).wiping = false ∧ (owner s 1).discarding = false ∧
      (owner s 1).running = true ∧ counts (owner s 1) = true ∧ (owner s 1).saved = false ∧ (owner s 1).halting = false) ∧
    mayRun held_ 1 = false ∧ s0.fuses.root = true := by
  decide +kernel

theorem test_hypotheses_DebugPort :
    deviceReady notReady = false ∧ deviceReady s0 = true ∧ s0.fuses.count.toNat < (2 : BitVec 32).toNat ∧ (1 : BitVec 32).toNat ≤ s0.fuses.count.toNat ∧
    named s0 1 (debugKey 0 0 0) = true ∧ named s0 2 (debugKey 0 0 0) = false ∧ (group s0 0).frags.find? (fun f => f.mask.getLsbD 3) = some f0 ∧
    unparked s0 0 f0 = true ∧ portAllows s0 1 = true ∧ portOpen s0 = true ∧ s0.fuses.lifecycle < 2 ∧
    (let s := { s0 with fuses := { s0.fuses with lifecycle := 2 } }; portAllows s 1 = false ∧ portOpen s = false ∧ 2 ≤ s.fuses.lifecycle ∧ validToken s = none) := by
  decide +kernel

/-- A request from outside stands in the state. -/
def came (q : Inbound) (s : State) : State := { s with inbound := mset s.inbound s.nextId q, nextId := s.nextId + 1 }

theorem test_hypotheses_OutsideInputs :
    deviceReady notReady = false ∧ deviceReady s0 = true ∧ s0.exts = [] ∧ counts (owner s0 1) = true ∧ counts (owner s0 2) = false ∧
    (let r : ExtReq := { (default : ExtReq) with owner := 2, space := 5 }
     let s := { s0 with exts := [(7, r)] }
     s.exts = [(7, r)] ∧ r.space = 3 + 2 ∧ r.posted = false ∧ counts (owner s r.owner) = false ∧ mfind s.exts 7 = some r) ∧
    servesInbound s0 1 = false ∧
    (let s := so (fun w => { w with l2ways := 1 })
     let q : Inbound := ⟨1, 0, 0x80, false, 64, 0, false, false, false⟩
     servesInbound s 1 = true ∧ (inboundPlace (came q s) q).1 = none ∧ (inboundPlace (came q (mapped s)) q).1.isSome = true ∧ servesInbound (mapped s) 1 = true) ∧
    portUp s0 3 = false ∧
    (let s := { s0 with pf := mset s0.pf 0x498 0x10001 }
     portUp s 3 = true ∧ deviceReady s = true ∧ (∀ o, o < 32 → (owner s o).lanes.contains (16 * 3 + 15) = false) ∧
     (let s := { s with owners := mmod s.owners 1 (fun w => { w with lanes := [63] }) }
      portUp s 3 = true ∧ (List.range 32).find? (fun o => (owner s o).lanes.contains (16 * 3 + 15)) = some 1 ∧ servesInbound s 1 = false)) := by
  decide +kernel

theorem test_hypotheses_OutsideInputs_replies :
    mfind s0.exts 7 = none ∧
    (let r : ExtReq := { (default : ExtReq) with owner := 1, who := .nobody }
     mfind { s0 with exts := [(7, r)] }.exts 7 = some r ∧ r.who = .nobody) ∧
    (let r : ExtReq := { (default : ExtReq) with owner := 1, who := .acc 7 0, bytes := 8 }
     let s := { asked reading_ 64 [] with exts := [(7, r)] }
     mfind s.exts 7 = some r ∧ counts (owner s r.owner) = true ∧ r.who = .acc 7 0 ∧ r.write = none ∧
     (mfind s.accs 7).map (fun a => (a.kind, a.passes)) = some (.queue (queueKey 1 0), []) ∧ (queueEvent s (queueKey 1 0)).isSome = true) ∧
    1023 < (block s0 1).spadSize ∧ lastAccess s0 2 1 1023 = some 0 ∧ (2, 1, 1023, 0) ∉ s0.weak ∧ (2, 1, 1023, 0) ∈ { s0 with weak := [(2, 1, 1023, 0)] }.weak ∧
    (let s := { s0 with l2 := [ln 0 2] }; s.l2 = [ln 0 2] ∧ (ln 0 2).die = 0 ∧ (ln 0 2).line = 2) := by
  decide +kernel

/-- An engine operation of the group. -/
def op_ (k : OpKind) : EngOp := { (default : EngOp) with owner := 1, block := 1, launch := 1, kind := k }

/-- An access that carries line 0 of operation 7. -/
def line_ : Access := { (default : Access) with
  owner := 1, block := 1, launch := 2, kind := .line 7 0, reqs := [readReq 0 0x10 0 16, ⟨8, 0x80, 0, 0⟩], checked := true, got := [(0, 5)] }

theorem test_hypotheses_CopyLinesMove :
    mfind s0.ops 7 = none ∧
    claimAt { s0 with clock := 8001 } 1 6 0 8001 ≠ 8001 ∧
    (let l : LineOp := ⟨[0], [(0x80, 0x10, 16)]⟩
     let x : EngOp := { op_ .cpy with lines := [l], left := 1 }
     let y : EngOp := { op_ .bcpy with dst := 0x80, src := 0x10, len := 16, left := 1 }
     let s := { s0 with ops := [(7, x)] }
     s.accs = [] ∧ (owner s 1).saving = false ∧ x.dead = false ∧ x.half = 0 ∧ x.pend = [] ∧ x.coil = 0 ∧ claimAt s 1 6 0 s.clock = s.clock ∧ x.nextRead = 0 ∧
     x.nextWrite = 0 ∧ x.cpybar = 0 ∧ bulkLine y 0 = l ∧ WindowAt s x.block 0x10 1 0x10 ∧ WindowAt s x.block 0x80 1 0x80 ∧ (spadSource s 1 0x10 l).isSome = true) ∧
    (let x : EngOp := { op_ .cpy with lines := [⟨[0], [(0x80, 0x10, 16)]⟩], nextRead := 1, left := 2 }
     let s := { s0 with ops := [(7, x)], accs := [(9, line_)] }
     x.dead = false ∧ x.cpybar = 0 ∧ x.nextWrite = 0 ∧ lineAt x 0 = ⟨[0], [(0x80, 0x10, 16)]⟩ ∧ line_.block = x.block ∧ line_.spad = false ∧ line_.op = none ∧
     line_.faults = [] ∧ line_.unperformed = 0 ∧ line_.avail ≤ s.clock ∧ (reqOf line_ 8).va = 0x80 ∧ WindowAt s x.block 0x80 1 0x80) ∧
    (let x : EngOp := { op_ .bcpy with left := 1 }
     let s := { s0 with ops := [(7, x)] }
     mfind s.ops 7 = some x ∧ x.dead = false ∧ s.accs = [] ∧ x.nextWrite < x.left ∧ StaysLive s x ∧ (owner s x.owner).halting = false ∧
     (op_ .cpy).left ≤ (op_ .cpy).nextWrite ∧ ({ x with dead := true } : EngOp).dead = true) ∧
    (let s := { sb (fun b => { b with coils := [(7, ⟨some 1, [7], false⟩)] }) with ops := [(7, op_ (.drain 7))] }
     mfind s.ops 7 = some (op_ (.drain 7)) ∧ StaysLive s (op_ (.drain 7)) ∧ (mfind (block s 1).coils 7).isSome = true) := by
  dsimp only [WindowAt, StaysLive]; decide +kernel

theorem test_hypotheses_TileOperationsRun :
    mfind s0.ops 7 = none ∧ rota { s0 with positions := [] } 1 5 = 0 ∧ rota s0 1 5 ≠ 0 ∧
    (let x : EngOp := { op_ .tst with tiles := [3] }
     let s := { s0 with ops := [(7, x)] }
     mfind s.ops 7 = some x ∧ s.accs = [] ∧ x.dead = false ∧ x.lines = [] ∧ x.coil = 0 ∧ (owner s 1).halting = false ∧ StaysLive s x ∧
     s.blocks = [(x.block, block s x.block)] ∧ (∀ p, p < 4 → mget (block s x.block).freeing p = [])) ∧
    (let x : EngOp := { op_ .tld with tiles := [3], lines := [⟨[], [(0x80, 0x80, 128)]⟩], left := 1 }
     let s := { s0 with ops := [(7, x)], accs := [(9, line_)] }
     mfind s.ops 7 = some x ∧ (tileAt (block s x.block) 3).poisoned = false ∧ x.dead = false ∧ x.nextWrite = 0 ∧ line_.kind = .line 7 0 ∧ line_.faults = [] ∧
     line_.op = none ∧ line_.got = [(0, 5)]) ∧
    (let x : EngOp := { op_ .mma with tiles := [2, 0, 1], left := 1 }
     let s := { shaped with ops := [(7, x)] }
     s.ops = [(7, x)] ∧ StaysLive s x ∧ s.blocks = [(x.block, block s x.block)] ∧ (tileAt (block s 1) 2).poisoned = false) ∧
    (∃ r, mmaResult 0 [0] 0 0 0 0x1FC000 0x1FC000 = [r]) ∧
    (let x := { b0 with freeing := [(0, [3])] }
     let s := { s0 with blocks := [(1, x)] }
     s.blocks = [(1, x)] ∧ mget x.freeing 0 = [3] ∧ x.wants = [] ∧ mget b0.freeing 0 = []) := by
  dsimp only [WindowAt, StaysLive]
  refine ⟨by decide +kernel, by decide +kernel, by decide +kernel, by decide +kernel, by decide +kernel, by decide +kernel, ⟨_, rfl⟩, by decide +kernel⟩

/-- A run of one element, whose data lies in its block's scratchpad. -/
def run_ (p : RefPhase) (st : Nat) : RefRun := { (default : RefRun) with
  op := 8, owner := 1, phase := p, state := st
  record := 0xFFFFFF0700000000000000800000000000000010000000000000000800000000000000000000000100000001 }

/-- The run within a correction, `l` positions before its end, and the state that holds it. -/
def broken_ (l : Nat) (a : Bool) : RefRun := { run_ .correct 2 with issLeft := l, abort := a }
def sBroken (l : Nat) (a saving : Bool) : State := { s0 with
  runs := [(7, broken_ l a)], ops := [(8, op_ .rfire)], owners := mmod s0.owners 1 (fun w => { w with saving := saving }) }

theorem test_hypotheses_RefireBoundaries :
    mfind (sBroken 2 true false).runs 7 = some (broken_ 2 true) ∧ mfind (sBroken 2 true false).ops 8 = some (op_ .rfire) ∧
    hasInner (broken_ 2 true) = true ∧ (stepPositions (broken_ 2 true)).1 = 3 ∧ breakable (broken_ 2 true) 1 false = true ∧
    (owner (sBroken 2 false true) 1).saving = true ∧ breakable (broken_ 2 false) 1 true = true ∧
    (owner (sBroken 2 false false) 1).saving = false ∧ breakable (broken_ 1 false) 2 true = false ∧ (sBroken 2 true false).accs = [] ∧
    rota s0 1 0 ≠ 0 ∧ rota s0 1 5 ≠ 0 ∧ (writtenLines (sBroken 2 true false) (op_ .rfire) ((outFields (broken_ 2 true) 5).zipIdx.map (fun b =>
      ((outVa (broken_ 2 true)).toNat + b.2, b.1)))).map (fun e => (e.1, e.2.1 != 0, windowTarget s0 1 (BitVec.ofNat 64 (e.1 * 128)))) = [(0, true, some (1, 0))] ∧
    inWindow 0 = true := by decide +kernel

/-- A line that the run has read. -/
def readLine_ (got : List (Nat × BitVec 1024)) : Access := { line_ with kind := .line 8 0, reqs := [readReq 0 0 0 128], got := got }
/-- The run before a step whose one line has come. -/
def stepping_ (p : RefPhase) (started : Bool) : State := { s0 with
  runs := [(7, run_ p 2)], ops := [(8, { op_ .rfire with started := started })], accs := [(9, readLine_ [(0, 0x3FF0000000000000)])] }
/-- How the run's step ends: whether it exits, and whether it writes. -/
def ends (p : RefPhase) : Option (Nat × Bool) :=
  let s := stepping_ p false
  let (y, ws, e) := refStep (run_ p 2) (stepLines s 8)
  if y.op = 8 then (match y.phase with
    | .leave _ _ => none
    | _ => some ((match e with | some (z, _) => z.code + 1 | none => if (stepReads y).isEmpty then 0 else 100), (writtenLines s (op_ .rfire) (elemBytes ws)).isEmpty))
  else none
theorem test_hypotheses_RefireSteps :
    (let s := { s0 with runs := [(7, run_ .start 1)], ops := [(8, op_ .rfire)] }
     s.accs = [] ∧ (run_ .start 1).op = 8 ∧ runsIn s 1 0 2 = [] ∧ linesOf (stepReads { run_ .start 1 with state := 2, phase := .start }) = [0] ∧
     inWindow 0 = true ∧ windowTarget s 1 0 = some (1, 0)) ∧
    (∀ e ∈ (stepping_ .load true).accs, e.2.kind = .line 8 0 ∧ e.2.unperformed = 0 ∧ e.2.has 0 = true ∧ e.2.faults = []) ∧
    ends .pivotTest = some (0, true) ∧ ends .tests = some (1, true) := by decide +kernel

theorem test_hypotheses_RunsAndMigrationsMove :
    oldestRun s0 1 0 = none ∧ mfind s0.runs 7 = none ∧ mfind s0.migs 7 = none ∧ mfind s0.invals 7 = none ∧
    (mfind { s0 with runs := [(7, run_ .start 3)] }.runs 7 = some (run_ .start 3) ∧ (run_ .start 3).state ≠ 2 ∧ (run_ .start 3).state ≠ 4) ∧
    (let x := run_ (.leave 0 0) 2
     let s := { s0 with runs := [(7, x)], ops := [(8, op_ .rfire)] }
     s.ops = [(x.op, op_ .rfire)] ∧ (op_ .rfire).coil = 0 ∧ StaysLive s (op_ .rfire) ∧ x.g = (op_ .rfire).g ∧ (op_ .rfire).pend = [] ∧ s.accs = [] ∧
     (op_ .rfire).dead = false) ∧
    (let x : Mig := { (default : Mig) with owner := 1, dst := 1 }
     let s := { s0 with migs := [(7, x)] }
     mfind s.migs 7 = some x ∧ x.slot = none ∧ x.cargo = none ∧ s.results = [] ∧ mget s.landings (32 * x.dst + x.owner) = [] ∧
     ((landingSlots s x.owner x.dst).find? (landingFree s)).isSome = true) ∧
    (let s := { s0 with groups := (List.range 32).map (fun c => (gkey 1 c 1 0, { (default : Group) with live := true })) }
     (landingSlots s 1 1).find? (landingFree s) = none) ∧
    (let x : Mig := { (default : Mig) with owner := 1, dst := 1, slot := some 3100, cargo := some g0 }
     let s := { sg (fun g => { g with migrated := true }) with migs := [(7, x)] }
     mfind s.migs 7 = some x ∧ x.slot = some 3100 ∧ x.cargo = some g0 ∧ (group s x.g).migrated = true ∧ mget s.landings (32 * dieOf x.g + (group s x.g).owner) = []) ∧
    (let x : Inval := ⟨1, none, false, 0, 0, [0], [], []⟩
     let s := { s0 with invals := [(7, x)] }
     mfind s.invals 7 = some x ∧ x.dies = [0] ∧ s.walks = [] ∧ counts (owner s x.owner) = true ∧ (x.accs.any (fun a => (mfind s.accs a).isSome)) = false ∧
     (x.walks.any (fun w => (mfind s.walks w).isSome)) = false) ∧
    (let x : Inval := ⟨1, some 0, false, 0, 0, [], [3], []⟩
     let s := { s0 with invals := [(7, x)], accs := [(3, default)] }
     mfind s.invals 7 = some x ∧ (x.accs.any (fun a => (mfind s.accs a).isSome)) = true ∧ x.queue = some 0 ∧
     (queue { s with queues := [(queueKey 1 0, { (default : Queue) with inval := some 7 })] } 1 0).inval = some 7 ∧ (queue s 1 0).replay = none ∧
     (queue s 1 0).halted = false) := by
  dsimp only [WindowAt, StaysLive]
  decide +kernel

/-- The state after reset with one instruction placed. -/
def at0 (w : Nat) : State := State.reset.withFetchWord 32 w

/-- What the first fetch at a state finds: whether a prefix stands before the instruction, and the instruction. -/
def found (s : State) : Option (Bool × Option Instr) := match startOf s with
  | some (_, _, _, .ok x, _) => some (x.pfx.isSome, match x.instr with | .ok i => some i | .error _ => none)
  | _ => none

theorem test_hypotheses_StepRunsDecoded :
    (State.reset.pfx = none ∧ State.reset.powered = true ∧ stopped State.reset = false ∧
      takeEvent (fun _ => true) 45 State.reset.agenda = some (.refresh 0, State.reset.agenda.drop 1)) ∧
    Quiet (at0 0x0C2053F1) ∧ found (at0 0x0C2053F1) = some (false, some (.vadd bare 3 2 1)) ∧
    found (State.reset.withFetchWord 64 0x0C2053F103600071) = some (true, some (.vadd bare 3 2 1)) ∧
    (let s := px 0x36 (at0 0x0C2053F1)
     s.pfx.isSome = true ∧ (match nextInstr s s.cur.g s.cur.frag with | (.ok x, _) => (match x.instr with | .ok i => i == .vadd bare 3 2 1 | _ => false) | _ => false) = true) ∧
    (let s := at0 0x0C2053F1
     let f := frag (group s 0) 0
     (match fetchWord s 0 f (standsAt (group s 0) f) with | (.ok ws, _) => ws == halves 0x0C2053F1 | _ => false) = true ∧
     fromLoop (group s 0) f 0x400000 = false ∧ canonical 0x400000 = true ∧ inWindow 0x400000 = false ∧
     (match tlbFind s.coreTlb (group s 0).owner (coreKey 0) 0x400000 false with
      | some e => paOf e.x 0x400000 == 0x400000 && (accessReason s (group s 0).owner 2 (launchFlag s (group s 0) 2) e.x 0x400000).isNone | none => false) = true ∧
     l0Find s (group s 0).owner (partKey 0) (lineNo 0x400000) = none ∧ failedFetch (group s 0) f = none ∧
     (readHome s (group s 0).owner (lineNo 0x400000 * 128) 128).1.isSome = true) := by
  refine ⟨by decide +kernel, ⟨by decide +kernel, by decide +kernel, by decide +kernel, by decide +kernel, by decide +kernel, by decide +kernel, by decide +kernel, by decide +kernel⟩,
    by decide +kernel, by decide +kernel, by decide +kernel, by decide +kernel⟩

/-- Words read as instructions; each expected instruction is written from the assembler text that a listing of the spec gives
beside the word. -/
def reads (l : List (Nat × Instr)) : Bool := l.all (fun e => match decode (halves e.1) with | .ok i => i == e.2 | .error _ => false)
def readsHalf (l : List (Half × Instr)) : Bool := l.all (fun e => match decode [e.1] with | .ok i => i == e.2 | .error _ => false)

theorem test_words_control : reads [(0x00018091, .bra ⟨1, 0, 0⟩ 6), (0xFFE000F1, .bra bare 0x3FF80), (0x00024171, .brx bare 9), (0x000801F1, .call bare 0x20),
    (0x00000271, .ret bare), (0x000602F1, .rcv bare 0x18), (0x02004311, .brk ⟨1, 0, 0⟩ 0x20 1), (0x000003F1, .exit bare), (0x0000C471, .reform bare 3),
    (0x003204F1, .loop bare 3 8), (0x02A00571, .trap bare 0x2A)] = true := by decide +kernel

theorem test_words_scalar : reads [(0x1C6145F1, .sadd bare 7 6 5), (0x1C6145A1, .sadd ⟨2, 0, 0⟩ 7 6 5), (0x51558671, .ssub bare 20 21 22),
    (0x2CA247F1, .smulhN bare 11 10 9), (0x38D30871, .sdivN bare 14 13 12), (0x14484FF1, .scmp bare 5 4 4 1), (0xEC71CE71, .saddi bare 0x3B 7 7),
    (0xA03092F1, .sshli bare 40 3 2), (0x02805071, .smov bare 40 1), (0x047190F1, .sunary bare 1 7 6), (0x76510EF1, .smovi bare 0x765 4),
    (0x43210F71, .sins bare 0x432 4), (0x00051171, .srd bare 0 20), (0x0100D1F1, .swr bare 0x10 3), (0x44915271, .sgetl bare 17 9 5)] = true := by decide +kernel

theorem test_words_vector : reads [(0x0C2053F1, .vadd bare 3 2 1), (0x30B294B1, .vmul ⟨3, 0, 0⟩ 12 11 10), (0x14429CF3, .vmadwN ⟨7, 0, 1⟩ 5 4 10),
    (0x28921D73, .vdot4I8 ⟨7, 0, 1⟩ 10 9 8), (0xF481DE71, .vaddi bare 0x3D 8 7), (0x1C40DEF1, .vshli bare 7 4 3), (0xF9C0A071, .vmovi bare 0xF9C 2),
    (0x3450A0F1, .vins bare 0x345 2), (0x00206271, .vunary bare 0 2 1), (0x00C222F1, .vbcst bare 0 12 8), (0x1034A171, .vcmp bare 4 3 2 2),
    (0x1C6161A1, .vsel ⟨2, 0, 0⟩ 7 6 5)] = true := by decide +kernel

theorem test_words_float : reads [(0x185124F1, .vffma bare 6 5 4), (0x185124F9, .vffma ⟨7, 1, 0⟩ 6 5 4), (0x20612673, .vfaddF64 ⟨7, 0, 1⟩ 8 6 4),
    (0x38D328F1, .vffmaH2 bare 14 13 12), (0x08102973, .vfdot2Bh ⟨7, 0, 1⟩ 2 1 0), (0x0C2469F1, .vfcmp bare 3 2 2 1), (0x0881EAF5, .vfunary ⟨7, 0, 2⟩ 2 8 7),
    (0x0C206B71, .vfdiv bare 3 2 1), (0x08512C71, .vcvt bare 2 5 4), (0x2071ACF1, .vpkH2 bare 8 7 6)] = true := by decide +kernel

theorem test_words_lanes : reads [(0x0116EE71, .plog bare 2 1 3 3), (0x01A26EF1, .klog bare 3 2 1 1), (0x10026F71, .vote bare 0 4 9),
    (0x30B2AFF3, .vshfl ⟨7, 0, 1⟩ 12 11 10), (0x4040F071, .vxorl bare 16 4 3), (0x2041B121, .vredu ⟨2, 0, 0⟩ 8 4 6), (0x204171A1, .vscan ⟨2, 0, 0⟩ 8 4 5),
    (0x0010B271, .vrd bare 1 2)] = true := by decide +kernel

theorem test_words_memory : reads [(0x202072F1, .vld bare 1 0 2 1), (0xCC4232F1, .vld bare 6 3 4 8), (0x8850F371, .vst bare 4 2 5 3),
    (0x8421B3F1, .lds bare 4 1 2 6), (0xA421B471, .sts bare 5 1 2 6), (0x0842B4F1, .sld bare 2 4 10), (0x0C42F571, .sst bare 3 4 11),
    (0x0851F5F1, .vatom bare 0 2 5 7), (0xE851F5F1, .vatom bare 7 2 5 7), (0x8851B671, .vcas bare 4 2 5 6)] = true := by decide +kernel

theorem test_words_sync : reads [(0x000276F1, .fence bare 0 9), (0x0001B6F1, .fence bare 0 6), (0x000976F1, .fence bare 2 5), (0x000576F1, .fence bare 1 5),
    (0x28923771, .lbind bare 10 9 8), (0x184037F1, .lacq bare 0 6 4), (0x544037F1, .lacq bare 1 5 4), (0x18403871, .lrel bare 6 4),
    (0x0061F8F1, .barInit bare 6 7), (0x206038F1, .barArrive bare 6), (0x406238F1, .barExpin bare 6 8), (0x806278F1, .barWait bare 6 9),
    (0xA06278F1, .barTest bare 6 9), (0x00403971, .monArm bare 4), (0x04017971, .monWait bare 5), (0x08003971, .monClr bare),
    (0x000039F1, .waitc bare 0 0), (0x002079F1, .waitc bare 2 1)] = true := by decide +kernel

theorem test_words_engines : reads [(0x94613A71, .cpy bare 2 1 1 6 4), (0x30B2BAF1, .bcpy bare 12 11 10), (0x0050FB71, .coilOpen bare 5 3),
    (0x2000FB71, .coilClose bare 3), (0x4000FB71, .coilDrain bare 3), (0x00603BF1, .mig bare 6), (0x0470BC71, .tcfg bare 1 7 2), (0x20407CF1, .tld bare 8 4 1),
    (0x20403D71, .tst bare 8 4 0), (0x0400BDF1, .mma bare 1 0 0 2), (0x0404BDF1, .mma bare 1 0 1 2), (0x00503E71, .talloc bare 5), (0x04503E71, .tfree bare 5),
    (0x08303E71, .tzero bare 3), (0x0C327E71, .trowget bare 3 9), (0x00D33EF1, .sealTensor bare 13 12), (0x04D33EF1, .sealRefire bare 13 12),
    (0x08C03EF1, .sealFree bare 12), (0x00C03F71, .rfireGo bare 12), (0x04C3BF71, .rfireStat bare 12 14), (0x08C03F71, .rfireAbort bare 12)] = true := by
  decide +kernel

theorem test_words_system : reads [(0x0000BFF1, .ifence bare), (0x0020FFF1, .prog bare 2), (0x0001BFF1, .wsync bare), (0x03600071, .xp 0x36 0 0 0)] = true := by
  decide +kernel

theorem test_words_short : readsHalf [(0x08F4, .vaddi16 1 7), (0x1842, .vadd16 3 2), (0x388C, .vshli16 7 4), (0x40B6, .vmovi16 8 5), (0x2046, .vand16 4 2),
    (0x07C0, .vmov16 0 62), (0x001C, .nop16), (0x003C, .yield16), (0x005C, .ret16), (0x007C, .exit16), (0x009C, .ifence16), (0xFF9E, .jmpS 0x7FC)] = true := by
  decide +kernel

/-- Words that R211 makes illegal: the halfword 0x0000, a reserved MAJ, a function code beyond the last and a reserved field. -/
theorem test_words_refused : ([[0x0000], halves 0x0009BFF1, halves 0x2800FB71].all (fun w => match decode w with | .ok _ => false | .error _ => true)) = true := by
  decide +kernel

/-- One ill-formed term for each check of R211 on an instruction's own fields. -/
theorem test_ill_formed : ([.sunary bare 14 0 0, .vunary bare 12 0 0, .vbcst bare 2 0 0, .vfunary bare 13 0 0, .vcvt bare 23 0 0, .sgetl bare 32 0 0,
    .vshli bare 32 0 0, .vshri bare 32 0 0, .vsrai bare 32 0 0, .vxorl bare 32 0 0, .vrotl bare 32 0 0, .vote bare 4 0 0, .vredu bare 11 0 0, .vscan bare 9 0 0,
    .vrd bare 4 0, .vld bare 7 0 0 0, .lds bare 7 0 0 0, .vst bare 1 0 0 0, .sts bare 3 0 0 0, .vcas bare 6 0 0 0, .fence bare 3 0, .waitc bare 256 0,
    .cpy bare 3 0 0 0 0, .coilOpen bare 0 0, .coilClose bare 0, .coilDrain bare 0, .tcfg bare 6 0 0, .prog bare 8, .stchk bare 2, .loop bare 0 0,
    .loop bare 65 0, .vsel bare 0 0 0, .plog bare 1 0 4 0, .plog bare 0 1 6 0, .vmov16 0 0] : List Instr).all (fun i => !WellFormed i) = true := by decide +kernel

theorem test_well_formed : ([.sunary bare 13 0 0, .vshli bare 31 0 0, .loop bare 64 0, .vsel ⟨0, 0, 0⟩ 0 0 0, .vmov16 1 0, .waitc bare 255 0, .exit bare,
    .launchCompletion 1] : List Instr).all WellFormed = true := by decide +kernel

theorem test_hypotheses_DecodeEncode : WellFormed (.vadd bare 3 2 1) = true ∧ encode (.vadd bare 3 2 1) ≠ [] ∧ encode (.launchCompletion 1) = [] := by decide +kernel

theorem test_hypotheses_MemoryStaysCanonical :
    Memory.wf State.reset.mem = true ∧ (match step State.reset with | .next _ => true | _ => false) = true := by decide +kernel

theorem test_hypotheses_RoundingModes : (0 : Int) ≤ 3 ∧ (3 : Int) < 5 ∧ (Fp.of fp32 0x7F800001).isNan = true ∧ (Fp.of fp32 0x3F800000).isNan = false := by
  decide +kernel

/-- What an instruction leaves, and what it leaves once its result has landed. -/
def ran (i : Instr) (s : State) : State := match exec i s with | .next t => t | _ => s
def landed (i : Instr) (s : State) : State := let t := ran i s; t.results.foldl (fun u r => ran (.resultWrite r.1) u) t
/-- A group's scalars s5 and s6 hold two values; its lanes 0 and 1 hold others in v1 and v2. -/
def scalars (a b : BitVec 64) : State := sg (fun g => { g with s := [(4, 0x40010000), (5, a), (6, b)] })
def lanes2 (a b c d : BitVec 32) : State := sg (fun g => { g with v := [(32, a), (33, b), (64, c), (65, d)] })

theorem test_sadd_wraps : rs (group (landed (.sadd bare 6 5 7) (scalars 0xFFFFFFFFFFFFFFFF 2)) 0) 7 = 1 := by decide +kernel
theorem test_ssub_order : rs (group (landed (.ssub bare 6 5 7) (scalars 2 3)) 0) 7 = 0xFFFFFFFFFFFFFFFF := by decide +kernel
theorem test_smulh_unsigned : rs (group (landed (.smulhN bare 6 5 7) (scalars 0xFFFFFFFFFFFFFFFF 2)) 0) 7 = 1 := by decide +kernel
theorem test_smulh_signed : rs (group (landed (.smulhI bare 6 5 7) (scalars 0xFFFFFFFFFFFFFFFF 2)) 0) 7 = 0xFFFFFFFFFFFFFFFF := by decide +kernel
theorem test_sdiv_by_zero : rs (group (landed (.sdivN bare 6 5 7) (scalars 5 0)) 0) 7 = 0xFFFFFFFFFFFFFFFF := by decide +kernel
theorem test_ssra_sign : rs (group (landed (.ssra bare 6 5 7) (scalars 0x8000000000000000 68)) 0) 7 = 0xFFFFFFFFFFFFFFFF := by decide +kernel
theorem test_sins_shifts : rs (group (landed (.sins bare 0x432 5) (scalars 0x765 0)) 0) 5 = 0x765432 := by decide +kernel
theorem test_smovi_sign : rs (group (landed (.smovi bare 0xF9C 5) s0) 0) 5 = 0xFFFFFFFFFFFFFF9C := by decide +kernel
theorem test_vsub_lanes : rv (group (landed (.vsub bare 2 1 3) (lanes2 1 7 2 3)) 0) 3 0 = 0xFFFFFFFF ∧
    rv (group (landed (.vsub bare 2 1 3) (lanes2 1 7 2 3)) 0) 3 1 = 4 := by decide +kernel
theorem test_vins_listing : rv (group (landed (.vins bare 0x345 1) (lanes2 0xFFFFFF9C 0 0 0)) 0) 1 0 = 0xFFF9C345 := by decide +kernel
theorem test_vcmp_signed : ((group (landed (.vcmp bare 4 2 1 2) (lanes2 0xFFFFFFFF 0 0 0)) 0).p.any (fun e => e.1 == 2)) = true := by decide +kernel

/-- R187: a halfway sum keeps the even significand, and the minimum of two numbers of which one is NaN is the other. -/
theorem test_round_even : (fAdd fp32 0 0x4B800000 0x3F800000).bits = 0x4B800000 ∧ (fAdd fp32 0 0x4B800001 0x3F800000).bits = 0x4B800002 := by
  decide +kernel

/-- The chunked sum and the two grouped sums that "Number Formats" works. -/
theorem test_chunked_sum : mmaElem 0 5 5 0 0 0 0 0 (((0x6C00, 0x6C00) :: List.replicate 15 (0x3C00, 0x3C00)) ++ List.replicate 48 (0, 0)) = 0x4B800008 := by
  decide +kernel
theorem test_grouped_sum : mmaElem 0 0 4 0x3F000000 32 (BitVec.ofNat 8192 0x2E66 + ((8 : BitVec 8192) <<< 2048)) 0 0
    (List.replicate 16 (1, 12) ++ List.replicate 16 (0xFF, 3)) = 0x40E65800 := by decide +kernel
theorem test_grouped_sum_ones : mmaElem 0 0 4 0x3F000000 32 (BitVec.ofNat 8192 0x2E66 + ((8 : BitVec 8192) <<< 2048)) 0 0
    (List.replicate 16 (1, 12) ++ List.replicate 16 (1, 3)) = 0xBF4CC000 := by decide +kernel

/-- The address that "Registers, Scratchpad, Tiles and Caches" and "Memory Stacks" place. -/
theorem test_line_place : lineNo (offsetOf 0x321A509ABC) = 70558005 ∧ sliceOf 0x321A509ABC = 21 ∧ setOf 0x321A509ABC = 6 ∧ homeOf 0x321A509ABC = 3 ∧
    bankGroup (lineNo 0x321A509ABC) = 6 := by decide +kernel

/-- The worked service of "Memory Stacks": positions 0, 4 and 8; a request of bank group 6 from clock 100 is served at 108, one of bank group 1
from clock 105 at 252. -/
def servedState : State := { s0 with
  owners := mmod s0.owners 1 (fun w => { w with since := 0 }), positions := [(144, 0), (148, 0), (152, 0)] ++ (List.range 15).map (fun i => (145 + i, 5)) }
/-- A fill of a line that entered its queue at a clock is served at another. -/
def served (line entered clock : Nat) : Bool :=
  match execChannelAccess 0 (sliceOf (line * 128)) 1 { servedState with
    clock := clock, channels := [(7, { (default : ChanReq) with owner := 1, line := line, entered := some entered })] } with
  | .next t => t.channels.any (fun e => e.2.served)
  | _ => false
theorem test_worked_service : served 288 100 108 = true ∧ ([108, 120, 144, 156, 168, 192, 204, 216, 240].all (fun c => !served 48 105 c)) = true ∧
    served 48 105 252 = true ∧ nextPos servedState 1 9 100 = 108 ∧ nextPos servedState 1 9 241 = 252 := by decide +kernel

/-- The walk that "Address Spaces and Translation" works. -/
def walked : State := { s0 with
  pf := mset s0.pf (entryOff 1 0x00) 0x80000001, owners := mmod s0.owners 1 (fun w => { w with root := 0x40000001 })
  mem := memPut (memPut (memPut (memPut (memPut (memPut [] 0x80000000 (bytesOf 8 0x80010001)) 0x80010010 (bytesOf 8 0x40000003)) 0x40000020 (bytesOf 8 0x40010001))
    0x40018D10 (bytesOf 8 0x40020001)) 0x4002B3C0 (bytesOf 8 0x73A500005)) 0x800101C8 (bytesOf 8 0x320000000F) }
theorem test_worked_walk : (match walkAll walked 1 0 0x123456789ABC with
    | .ok x => x.pa + (0x123456789ABC - x.va) == 0x321A509ABC && x.w && !x.x | .error _ => false) = true := by decide +kernel

/-- R3's examples. -/
theorem test_canonical : canonical 0x0040000000000000 = false ∧ canonical 0xFFC0000000000000 = true ∧ canonical 0x003FFFFFFFFFFFFF = true := by decide +kernel

/-- Memory: the least byte lies lowest, and writing 0 lists nothing. -/
theorem test_memory : memPut [] 0x10 (bytesOf 4 0x1C6145F1) = [(0x10, 0xF1), (0x11, 0x45), (0x12, 0x61), (0x13, 0x1C)] ∧
    memPut [(0x10, 1), (0x20, 2)] 0x10 [0] = [(0x20, 2)] := by decide +kernel

/-- A fetched instruction runs in one step. -/
theorem test_step_runs : (match step (State.reset.withFetchWord 32 0x76510EF1) with
    | .next t => t.results.any (fun e => e.2.writes.any (fun w => match w with | .s n v => n == 4 && v == 0x765 | _ => false)) | _ => false) = true := by
  decide +kernel

end Sys2Proof.Tests
end

section
/-! SUPPORT, and the proof of O10. The canonical form of an address, and what each place that checks it first answers for an address without it (R3). -/

open Sys2Proof Sys2Proof.Machine Sys2Proof.Claims

namespace Sys2Proof.Proofs.AddressSpaces

/-! The canonical form. -/

/-- A word's bits all agree exactly where it is all zeros or all ones. -/
theorem eq_zero_or_allOnes_iff {w : Nat} (x : BitVec w) :
    (x = 0#w ∨ x = BitVec.allOnes w) ↔ ∀ i, i < w → x.getLsbD i = x.getLsbD 0 := by
  constructor
  · rintro (rfl | rfl) i hi
    · simp
    · simp [hi, Nat.zero_lt_of_lt hi]
  · intro h
    cases h0 : x.getLsbD 0 with
    | false => exact .inl (BitVec.eq_of_getLsbD_eq fun i hi => by simp [h i hi, h0])
    | true => exact .inr (BitVec.eq_of_getLsbD_eq fun i hi => by simp [h i hi, h0, hi])

/-- The model's bit field is the library's slice. -/
theorem ext_eq_toNat_extractLsb' {n : Nat} (x : BitVec n) (lo len : Nat) : ext x lo len = (x.extractLsb' lo len).toNat := by
  rw [BitVec.extractLsb'_toNat, Nat.shiftRight_eq_div_pow, ext]

theorem canonical_iff_slice (va : BitVec 64) :
    canonical va = true ↔ va.extractLsb' 54 10 = 0#10 ∨ va.extractLsb' 54 10 = BitVec.allOnes 10 := by
  simp [canonical, ext_eq_toNat_extractLsb', BitVec.toNat_eq]

theorem canonical_iff_bits (va : BitVec 64) :
    canonical va = true ↔ ∀ i, 55 ≤ i → i ≤ 63 → va.getLsbD i = va.getLsbD 54 := by
  rw [canonical_iff_slice, eq_zero_or_allOnes_iff]
  have bit (i : Nat) (hi : i < 10) : (va.extractLsb' 54 10).getLsbD i = va.getLsbD (54 + i) := by
    simp [hi]
  constructor
  · intro h i hlo hhi
    have hi := h (i - 54) (by omega)
    rwa [bit _ (by omega), bit 0 (by omega), Nat.add_sub_cancel' (by omega)] at hi
  · intro h i hi
    rw [bit i hi, bit 0 (by omega)]
    rcases Nat.eq_zero_or_pos i with rfl | hpos
    · rfl
    · exact h (54 + i) (by omega) (by omega)

/-! The fault. -/

/-- The low four bits of a detail word are its reason: every other field stands above them (R27). -/
theorem detailWord_reason (engine : Bool) (lane kind stage level reason okind olevel : Nat) :
    (detailWord engine lane kind stage level reason okind olevel).extractLsb' 0 4 = BitVec.ofNat 4 reason := by
  apply BitVec.eq_of_toNat_eq
  simp only [detailWord, BitVec.extractLsb'_toNat, BitVec.toNat_ofNat, Nat.shiftRight_zero]
  omega

/-- A failed access with reason 0x1 is the fault of R3. -/
theorem faultTrap_notCanonical (engine : Bool) (lane kind : Nat) (va : BitVec 64) :
    notCanonical (faultTrap engine lane kind va (wf 1 0 0 0)).cause (faultTrap engine lane kind va (wf 1 0 0 0)).detail :=
  ⟨rfl, detailWord_reason _ _ _ _ _ _ _ _⟩

/-! A memory access, and an instruction fetch. -/

theorem issueFault_of_not_canonical (s : State) (a : Access) (r : LaneReq) (hs : a.spad = false) (hc : canonical r.va = false) :
    issueFault s a r = some (.translation, detailWord false (faultLane a r) a.kind.code 0 0 1 0 0) := by
  simp [issueFault, hs, hc]

theorem lineHalf_of_not_canonical (s : State) (k : Nat) (f : Frag) (va : BitVec 64) (hc : canonical va = false) :
    lineHalf s k f va = (.fault (faultTrap false (lowLane f) 2 va (wf 1 0 0 0)), s) := by
  simp [lineHalf, hc]

theorem fetchHalf_outside_loop (s : State) (k : Nat) (f : Frag) (va : BitVec 64) (hl : fromLoop (group s k) f va = false) :
    fetchHalf s k f va = lineHalf s k f va := by
  simp [fetchHalf, hl]

/-! A line of an engine, and an access of the queue path. -/

/-- An engine's access, where the others of `lineOpen` are the queue path's. -/
def ofEngine (a : Access) : Bool := match a.kind with | .line _ _ => true | _ => false

/-- What `lineOpen` finds wrong with one request before any lookup (R3, R6). -/
def openFault (s : State) (a : Access) (r : LaneReq) : Option (Nat × Cause × BitVec 32) :=
  let out (t : Trap) : Option (Nat × Cause × BitVec 32) := some (r.lane, t.cause, t.detail)
  if !canonical r.va then out (faultTrap (ofEngine a) 0 (lineCode r) r.va (wf 1 0 0 0))
  else if inWindow r.va && (!ofEngine a || (windowTarget s a.block r.va).isNone) then
    out (windowTrap (ofEngine a) 0 (lineCode r) r.va)
  else none

theorem lineOpen_faults (s : State) (a : Access) (copy : Bool) : (lineOpen s a copy).faults = a.reqs.filterMap (openFault s a) := rfl

/-- Only the granules of requests with nothing wrong are looked up. -/
theorem lineOpen_todo (s : State) (a : Access) (copy : Bool) :
    (lineOpen s a copy).todo =
      [((a.reqs.filter (fun r => (openFault s a r).isNone)).filterMap (granuleOf a)).eraseDups].filter (fun g => !g.isEmpty) := rfl

theorem openFault_of_not_canonical (s : State) (a : Access) (r : LaneReq) (hc : canonical r.va = false) :
    ∃ d, openFault s a r = some (r.lane, .translation, d) ∧ notCanonical .translation d :=
  ⟨_, by rw [openFault, hc]; rfl, faultTrap_notCanonical (ofEngine a) 0 (lineCode r) r.va⟩

theorem lineOpen_faults_of_not_canonical (s : State) (a : Access) (copy : Bool) (r : LaneReq) (hr : r ∈ a.reqs)
    (hc : canonical r.va = false) :
    ∃ d, (r.lane, Cause.translation, d) ∈ (lineOpen s a copy).faults ∧ notCanonical .translation d := by
  obtain ⟨d, hd, hn⟩ := openFault_of_not_canonical s a r hc
  exact ⟨d, lineOpen_faults s a copy ▸ List.mem_filterMap.2 ⟨r, hr, hd⟩, hn⟩

theorem lineOpen_todo_of_none_canonical (s : State) (a : Access) (copy : Bool) (hc : ∀ r ∈ a.reqs, canonical r.va = false) :
    (lineOpen s a copy).todo = [] := by
  have hno : a.reqs.filter (fun r => (openFault s a r).isNone) = [] := by
    refine List.filter_eq_nil_iff.2 fun r hr => ?_
    obtain ⟨d, hd, _⟩ := openFault_of_not_canonical s a r (hc r hr)
    simp [hd]
  rw [lineOpen_todo, hno]
  rfl

theorem lineTrap_of_translation {a : Access} {l : Nat} {d : BitVec 32} {fs : List (Nat × Cause × BitVec 32)} {r : LaneReq}
    (hf : a.faults = (l, .translation, d) :: fs) (hr : a.reqs.find? (fun q => q.lane == l) = some r) :
    lineTrap a = some ⟨.translation, 0, d, r.va⟩ := by
  simp [lineTrap, hf, hr]

/-- Settles O10: each place that meets an address asks for its form before anything else, and answers with `detailWord`'s
reason 0x1. -/
theorem canonicalAddresses : Obligations.CanonicalAddresses := by
  refine ⟨canonical_iff_bits, fun s a r hs hc => ?access, fun s k f va hl hc => ?fetch, lineOpen_faults_of_not_canonical,
    lineOpen_todo_of_none_canonical, fun a l d fs r hf hr => ⟨_, lineTrap_of_translation hf hr, rfl, rfl, rfl⟩⟩
  case access => exact ⟨_, _, issueFault_of_not_canonical s a r hs hc, rfl, detailWord_reason _ _ _ _ _ _ _ _⟩
  case fetch =>
    exact ⟨_, (fetchHalf_outside_loop s k f va hl).trans (lineHalf_of_not_canonical s k f va hc),
      faultTrap_notCanonical _ _ _ _, rfl⟩

end Sys2Proof.Proofs.AddressSpaces
end

section
/-! SUPPORT, and the proofs of O1 and O3. The words of Formats A and C (R200, R201), what a scalar result is on its way to
(R231, R233), and the scalar operations as the spec's tables state them (R232, R233, R237). -/

open Sys2Proof Sys2Proof.Machine Sys2Proof.Claims

namespace Sys2Proof.Proofs.ScalarInstructions

/-! Words: the sum of placed fields is the concatenation of the fields. -/

theorem halves_toNat (w : BitVec 32) : halves w.toNat = laid w := by
  have hi : w.toNat / 65536 = w.toNat >>> 16 := (Nat.shiftRight_eq_div_pow w.toNat 16).symm
  simp only [halves, laid, hi]
  congr 1

theorem toNat_append_eq_add {m n : Nat} (x : BitVec m) (y : BitVec n) : (x ++ y).toNat = 2 ^ n * x.toNat + y.toNat := by
  rw [BitVec.toNat_append, ← Nat.shiftLeft_add_eq_or_of_lt y.isLt, Nat.shiftLeft_eq, Nat.mul_comm]

theorem formA_of_encode {maj : BitVec 7} {mk : Hdr → BitVec 6 → BitVec 6 → BitVec 6 → Instr}
    (he : ∀ h q b a, encode (mk h q b a) = halves (put 26 q (put 20 b (put 14 a (hdrBits h maj.toNat 0))))) : formA maj mk := by
  intro h q b a
  rw [he, ← halves_toNat]
  simp only [toNat_append_eq_add, put, hdrBits, BitVec.toNat_ofNat]
  congr 1; omega

theorem formC_of_encode {maj : BitVec 7} {mk : Hdr → BitVec 12 → BitVec 6 → Instr}
    (he : ∀ h i a, encode (mk h i a) = halves (put 20 i (put 14 a (hdrBits h maj.toNat 0)))) : formC maj mk := by
  intro h i a
  rw [he, ← halves_toNat]
  simp only [toNat_append_eq_add, put, hdrBits, BitVec.toNat_ofNat]
  congr 1; omega

/-! What a preceding `xp` gives to an instruction that acts. -/

/-- A guard decides for which lanes the instruction acts, and nothing else (R203, R240). -/
theorem guarded_eq_with_lanes (kd : GuardKind) (h : Hdr) (c : Ctx) : guarded kd h c = { c with lanes := (guarded kd h c).lanes } := by
  unfold guarded
  split
  · rfl
  · cases kd with
    | uniform => dsimp only; split <;> rfl
    | thread | selector | none => rfl

theorem ctx_x (s : State) : (ctx s).x = s.pfx.getD default := by unfold ctx; dsimp only; split <;> rfl
theorem ctx_prefixed (s : State) : (ctx s).prefixed = s.pfx.isSome := by unfold ctx; dsimp only; split <;> rfl

theorem acting_x (i : Instr) (h : Hdr) (s : State) : (acting i h s).x = s.pfx.getD default :=
  (congrArg Ctx.x (guarded_eq_with_lanes _ _ _)).trans (ctx_x s)
theorem acting_prefixed (i : Instr) (h : Hdr) (s : State) : (acting i h s).prefixed = s.pfx.isSome :=
  (congrArg Ctx.prefixed (guarded_eq_with_lanes _ _ _)).trans (ctx_prefixed s)

/-! Operands and results. -/

/-- What reading and writing scalar operands can do to a state: pops and pushes of queues, and nothing that `Sent` speaks of. -/
structure QueuesMoved (k : Nat) (s t : State) : Prop where
  keeps : Keeps k s t
  groups : t.groups = s.groups
  nextId : t.nextId = s.nextId

theorem QueuesMoved.refl (k : Nat) (s : State) : QueuesMoved k s s := ⟨.refl k s, rfl, rfl⟩

theorem QueuesMoved.take {k : Nat} {s t : State} (m : QueuesMoved k s t) (c : Ctx) (n : Nat) :
    QueuesMoved k s (takeScalar t c n).2 :=
  ⟨m.keeps.trans (keeps_takeScalar t c k n), (takeScalar_groups t c n).trans m.groups, (takeScalar_nextId t c n).trans m.nextId⟩

theorem QueuesMoved.give {k : Nat} {s t : State} (m : QueuesMoved k s t) (c : Ctx) (n : Nat) (x : BitVec 64) :
    QueuesMoved k s (giveScalar t c n x).2 :=
  ⟨m.keeps.trans (keeps_giveScalar t c k n x), (giveScalar_groups t c n x).trans m.groups,
    (giveScalar_nextId t c n x).trans m.nextId⟩

/-- A scalar result of any latency but the division's: a register's write under way, or an entry pushed at once. -/
theorem giveS_of_ne_nine (s : State) (c : Ctx) (a : BitVec 6) {lat : Nat} (held : Bool) (x : BitVec 64) (hl : lat ≠ 9) :
    giveS s c a lat held x =
      send (giveScalar s c (numN c.x.ha a.toNat) x).2 c (c.n + lat) (giveScalar s c (numN c.x.ha a.toNat) x).1 [] held := by
  simp [giveS, hl]

/-- A division's result: under way to its register or to its queue alike (R233). -/
theorem giveS_nine (s : State) (c : Ctx) (a : BitVec 6) (held : Bool) (x : BitVec 64) :
    giveS s c a 9 held x = send s c (c.n + 9) [if isQueue (numN c.x.ha a.toNat)
      then .q c.g.block (numN c.x.ha a.toNat - 56) x else .s (sregOf (numN c.x.ha a.toNat)) x] [] held := by
  cases hq : isQueue (numN c.x.ha a.toNat) <;> simp [giveS, giveScalar, hq]

/-- An instruction whose meaning moves queues and sends writes: the conclusion that every statement on scalars has. -/
theorem exec_sends {i : Instr} {h : Hdr} {s s1 : State} {run : Run} (hx : exec i s = .next (plain i h s run)) (hi : Issues i h s)
    (hu : Unstepped s) (m : QueuesMoved s.cur.g s s1) {lat : Nat} {ws : List RegWrite} {held : Bool}
    (hr : run (acting i h s) s = .ok (send s1 (acting i h s) ((acting i h s).n + lat) ws [] held)) :
    ∃ t, exec i s = .next t ∧ Sent s t (s.cur.turn + lat) ws [] held ∧ t.blocks = s1.blocks ∧ RegisterFrame s t := by
  rw [acting_n] at hr
  exact ⟨_, hx, plain_sends hi hu m.keeps m.groups m.nextId hr⟩

/-! The frames of three registers (R231, R233). -/

theorem scalarThree_of_exec {mk : Hdr → BitVec 6 → BitVec 6 → BitVec 6 → Instr} {lat : Nat} {held : Bool}
    {f g : BitVec 64 → BitVec 64 → BitVec 64} (hl : lat ≠ 9)
    (hx : ∀ h q b a s, exec (mk h q b a) s = .next (scalar3 (mk h q b a) h q b a lat held f s)) (hf : ∀ x y, f x y = g x y) :
    scalarThree mk lat held g := by
  obtain rfl : f = g := funext fun x => funext (hf x)
  intro h q b a s hi hu
  exact exec_sends (hx h q b a s) hi hu ((((QueuesMoved.refl _ s).take _ _).take _ _).give _ _ _)
    (congrArg Except.ok (giveS_of_ne_nine _ _ _ _ _ hl))

theorem scalarDivision_of_exec {mk : Hdr → BitVec 6 → BitVec 6 → BitVec 6 → Instr} {f g : BitVec 64 → BitVec 64 → BitVec 64}
    (hx : ∀ h q b a s, exec (mk h q b a) s = .next (scalar3 (mk h q b a) h q b a 9 true f s)) (hf : ∀ x y, f x y = g x y) :
    scalarDivision mk g := by
  obtain rfl : f = g := funext fun x => funext (hf x)
  intro h q b a s hi hu
  exact exec_sends (hx h q b a s) hi hu (((QueuesMoved.refl _ s).take _ _).take _ _) (congrArg Except.ok (giveS_nine ..))

/-- A row of R232's table: its word, its meaning in the model, and the operation the table gives. -/
theorem scalarRow {maj : BitVec 7} {mk : Hdr → BitVec 6 → BitVec 6 → BitVec 6 → Instr} {f g : BitVec 64 → BitVec 64 → BitVec 64}
    (hf : ∀ x y, f x y = g x y)
    (he : ∀ h q b a, encode (mk h q b a) = halves (put 26 q (put 20 b (put 14 a (hdrBits h maj.toNat 0)))) := by intros; rfl)
    (hx : ∀ h q b a s, exec (mk h q b a) s = .next (scalar3 (mk h q b a) h q b a 1 false f s) := by intros; rfl) :
    formA maj mk ∧ scalarThree mk 1 false g :=
  ⟨formA_of_encode he, scalarThree_of_exec (by decide) hx hf⟩

/-! The operations of the model, as the tables state them. -/

theorem shl64_eq (x y : BitVec 64) : shl64 x y = if 64 ≤ y.toNat then 0 else x <<< y.toNat := by
  simp only [shl64, ← Nat.not_le, ite_not]

theorem shr64_eq (x y : BitVec 64) : shr64 x y = if 64 ≤ y.toNat then 0 else x >>> y.toNat := by
  simp only [shr64, ← Nat.not_le, ite_not]

/-- An arithmetic shift by the whole width leaves copies of the sign. -/
theorem sshiftRight_width {w : Nat} (x : BitVec w) : x.sshiftRight w = if x.msb then BitVec.allOnes w else 0 := by
  cases hm : x.msb with
  | false => simp [BitVec.sshiftRight_eq_of_msb_false hm, BitVec.ushiftRight_eq_zero]
  | true => simp [BitVec.sshiftRight_eq_of_msb_true hm, BitVec.ushiftRight_eq_zero]

theorem sra64_eq (x y : BitVec 64) :
    sra64 x y = if 64 ≤ y.toNat then (if x.msb then BitVec.allOnes 64 else 0) else x.sshiftRight y.toNat := by
  unfold sra64
  split
  · next hy => rw [Nat.min_eq_right hy, sshiftRight_width]
  · next hy => rw [Nat.min_eq_left (by omega)]

theorem minSigned_eq {n : Nat} (x y : BitVec n) : minSigned x y = if y.slt x then y else x := by
  simp only [minSigned, BitVec.slt_iff_toInt_lt, ← Int.not_le, ite_not]

theorem minUnsigned_eq {n : Nat} (x y : BitVec n) : minUnsigned x y = if y.ult x then y else x := by
  simp only [minUnsigned, BitVec.ult_iff_lt, BitVec.lt_def, ← Nat.not_le, ite_not]

/-- Two choices agree when their conditions differ only where the answers are the same. -/
theorem ite_eq_ite_of_ne {α : Type} {p q : Prop} [Decidable p] [Decidable q] {x y : α} (hpq : x ≠ y → (p ↔ q)) :
    (if p then y else x) = if q then y else x := by
  by_cases hxy : x = y
  · rw [hxy, ite_self, ite_self]
  · simp only [hpq hxy]

theorem maxSigned_eq {n : Nat} (x y : BitVec n) : maxSigned x y = if x.slt y then y else x :=
  ite_eq_ite_of_ne fun hxy => by
    have hne : x.toInt ≠ y.toInt := mt BitVec.eq_of_toInt_eq hxy
    rw [BitVec.slt_iff_toInt_lt]
    omega

theorem maxUnsigned_eq {n : Nat} (x y : BitVec n) : maxUnsigned x y = if x.ult y then y else x :=
  ite_eq_ite_of_ne fun hxy => by
    have hne : x.toNat ≠ y.toNat := mt BitVec.eq_of_toNat_eq hxy
    rw [BitVec.ult_iff_lt, BitVec.lt_def]
    omega

theorem div64_eq (x y : BitVec 64) : div64 x y = if y = 0 then BitVec.allOnes 64 else x / y := by
  rw [div64, BitVec.udiv_def]

theorem rem64_eq (x y : BitVec 64) : rem64 x y = if y = 0 then BitVec.allOnes 64 else x % y := by
  rw [rem64, BitVec.umod_def]

/-! The constants (R237), in terms of the `xp` that the state holds. -/

theorem imm12_acting (n : Nat) (j : Instr) (h : Hdr) (s : State) (i : BitVec 12) : imm12 n (acting j h s) i =
    if s.pfx.isSome then ((s.pfx.getD default).x ++ i).signExtend n else i.signExtend n := by
  rw [imm12, acting_prefixed, acting_x]

theorem insertImm_acting {n : Nat} (j : Instr) (h : Hdr) (s : State) (i : BitVec 12) (x : BitVec n) :
    insertImm (acting j h s) i x =
      if s.pfx.isSome then (x <<< 24) ||| ((s.pfx.getD default).x ++ i).setWidth n else (x <<< 12) ||| i.setWidth n := by
  rw [insertImm, uimm12, acting_prefixed, acting_x]
  split <;> rfl

theorem exec_smovi (h : Hdr) (i : BitVec 12) (a : BitVec 6) (s : State) : exec (.smovi h i a) s =
    .next (plain (.smovi h i a) h s (fun c s => .ok (giveS s c a 1 (namesQueue (.smovi h i a) c.x) (imm12 64 c i)))) := rfl

theorem exec_sins (h : Hdr) (i : BitVec 12) (a : BitVec 6) (s : State) : exec (.sins h i a) s =
    .next (plain (.sins h i a) h s (fun c s =>
      .ok (giveS (takeScalar s c (numN c.x.ha a.toNat)).2 c a 1 (namesQueue (.sins h i a) c.x)
        (insertImm c i (takeScalar s c (numN c.x.ha a.toNat)).1)))) := rfl

/-! The obligations. -/

/-- Settles O1: a row of the table is one frame, `scalar3`, with the row's word and operation. -/
theorem scalarTwoSourceResults : Obligations.ScalarTwoSourceResults := by
  unfold Obligations.ScalarTwoSourceResults
  intro row
  exact ⟨scalarRow fun _ _ => rfl, scalarRow fun _ _ => rfl, scalarRow fun _ _ => rfl, scalarRow fun _ _ => rfl,
    scalarRow fun _ _ => rfl, scalarRow fun _ _ => rfl, scalarRow fun _ _ => rfl, scalarRow fun _ _ => rfl,
    scalarRow shl64_eq, scalarRow shr64_eq, scalarRow sra64_eq, scalarRow minSigned_eq, scalarRow maxSigned_eq,
    scalarRow minUnsigned_eq, scalarRow maxUnsigned_eq,
    formA_of_encode fun _ _ _ _ => rfl, scalarDivision_of_exec (fun _ _ _ _ _ => rfl) div64_eq,
    formA_of_encode fun _ _ _ _ => rfl, scalarDivision_of_exec (fun _ _ _ _ _ => rfl) rem64_eq⟩

/-- Settles O3: both constants are sent as any scalar result is; `sins` takes the value it extends first. -/
theorem scalarConstants : Obligations.ScalarConstants := by
  refine ⟨formC_of_encode fun _ _ _ => rfl, formC_of_encode fun _ _ _ => rfl, fun h i a s hi hu => ?smovi, fun h i a s hi hu => ?sins⟩
  case smovi =>
    rw [← imm12_acting 64 (.smovi h i a) h]
    exact exec_sends (exec_smovi h i a s) hi hu ((QueuesMoved.refl _ s).give _ _ _)
      (congrArg Except.ok (giveS_of_ne_nine _ _ _ _ _ (by decide)))
  case sins =>
    intro c y w
    exact exec_sends (exec_sins h i a s) hi hu (((QueuesMoved.refl _ s).take _ _).give _ _ _)
      (congrArg Except.ok ((giveS_of_ne_nine _ _ _ _ _ (by decide)).trans (by rw [insertImm_acting])))

end Sys2Proof.Proofs.ScalarInstructions
end

section
/-! SUPPORT, and the proof of O4. A per-thread instruction whose threads set no flag sends its threads' writes (R240), and the
integer operations of three vector registers as the spec's table states them (R241). -/

open Sys2Proof Sys2Proof.Machine Sys2Proof.Claims
open Sys2Proof.Proofs.ScalarInstructions (formA_of_encode exec_sends QueuesMoved sshiftRight_width minSigned_eq maxSigned_eq
  minUnsigned_eq maxUnsigned_eq)

namespace Sys2Proof.Proofs.VectorIntegers

/-! The frames of per-thread instructions. -/

/-- What `vector` sends for threads that all give 0 for their flags: their writes in lane order, and no thread's flags. -/
theorem send_without_flags (s : State) (c : Ctx) (turn : Nat) (ls : List Nat) (f : Nat → List RegWrite) (held : Bool) :
    send s c turn ((ls.map (fun l => (l, f l, (0 : BitVec 5)))).flatMap (fun e => e.2.1))
      (((ls.map (fun l => (l, f l, (0 : BitVec 5)))).map (fun e => (e.1, e.2.2))).filter (fun e => e.2 != 0)) held =
    send s c turn (ls.flatMap f) [] held := by
  rw [List.flatMap_map, List.filter_eq_nil_iff.2 (by simp)]

theorem threadWrites_of_exec {i : Instr} {h : Hdr} {lat : Nat} {f : Ctx → Nat → List RegWrite}
    (hx : ∀ s, exec i s = .next (vector i h lat false (fun c l => (f c l, 0)) s)) : threadWrites i h lat f :=
  fun s hi hu => exec_sends (hx s) hi hu (.refl _ s) (congrArg Except.ok (send_without_flags ..))

theorem vectorThree_of_exec {mk : Hdr → BitVec 6 → BitVec 6 → BitVec 6 → Instr} {lat : Nat}
    {f g : BitVec 32 → BitVec 32 → BitVec 32} (hx : ∀ h q b a s, exec (mk h q b a) s = .next (vector3 (mk h q b a) h q b a lat f s))
    (hf : ∀ x y, f x y = g x y) : vectorThree mk lat g := by
  obtain rfl : f = g := funext fun x => funext (hf x)
  exact fun h q b a => threadWrites_of_exec (hx h q b a)

theorem vectorAcc3_of_exec {mk : Hdr → BitVec 6 → BitVec 6 → BitVec 6 → Instr} {lat : Nat}
    {f : BitVec 32 → BitVec 32 → BitVec 32 → BitVec 32}
    (hx : ∀ h q b a s, exec (mk h q b a) s = .next (vectorAcc (mk h q b a) h q b a lat f s)) : vectorAcc3 mk lat f :=
  fun h q b a => threadWrites_of_exec (hx h q b a)

/-- A row of R241's table: its word, its meaning in the model, and the operation and latency the table gives. -/
theorem vectorRow {maj : BitVec 7} {mk : Hdr → BitVec 6 → BitVec 6 → BitVec 6 → Instr} {lat : Nat}
    {f g : BitVec 32 → BitVec 32 → BitVec 32} (hf : ∀ x y, f x y = g x y)
    (he : ∀ h q b a, encode (mk h q b a) = halves (put 26 q (put 20 b (put 14 a (hdrBits h maj.toNat 0)))) := by intros; rfl)
    (hx : ∀ h q b a s, exec (mk h q b a) s = .next (vector3 (mk h q b a) h q b a lat f s) := by intros; rfl) :
    formA maj mk ∧ vectorThree mk lat g :=
  ⟨formA_of_encode he, vectorThree_of_exec hx hf⟩

/-! The shifts of the model, as the table states them: a count of 32 or more shifts every bit out. -/

theorem shl32_eq (x y : BitVec 32) : shl32 x y = if 32 ≤ y.toNat then 0 else x <<< y.toNat := by
  simp only [shl32, ← Nat.not_le, ite_not]

theorem shr32_eq (x y : BitVec 32) : shr32 x y = if 32 ≤ y.toNat then 0 else x >>> y.toNat := by
  simp only [shr32, ← Nat.not_le, ite_not]

/-- An arithmetic shift whose count stops at the width. -/
theorem sshiftRight_min_width {w : Nat} (x : BitVec w) (n : Nat) :
    x.sshiftRight (min n w) = if w ≤ n then (if x.msb then BitVec.allOnes w else 0) else x.sshiftRight n := by
  split
  · next hn => rw [Nat.min_eq_right hn, sshiftRight_width]
  · next hn => rw [Nat.min_eq_left (Nat.le_of_not_le hn)]

theorem sra32_eq (x y : BitVec 32) :
    sra32 x y = if 32 ≤ y.toNat then (if x.msb then BitVec.allOnes 32 else 0) else x.sshiftRight y.toNat :=
  sshiftRight_min_width x y.toNat

/-- Settles O4: a row of the table is one frame, `vector3`, with the row's word, latency and operation; `vmad` reads vA too. -/
theorem vectorThreeRegisterResults : Obligations.VectorThreeRegisterResults := by
  unfold Obligations.VectorThreeRegisterResults
  intro row
  exact ⟨vectorRow fun _ _ => rfl, vectorRow fun _ _ => rfl, vectorRow fun _ _ => rfl, vectorRow fun _ _ => rfl,
    vectorRow fun _ _ => rfl, vectorRow fun _ _ => rfl, vectorRow fun _ _ => rfl, vectorRow fun _ _ => rfl,
    vectorRow shl32_eq, vectorRow shr32_eq, vectorRow sra32_eq, vectorRow minSigned_eq, vectorRow maxSigned_eq,
    vectorRow minUnsigned_eq, vectorRow maxUnsigned_eq,
    formA_of_encode fun _ _ _ _ => rfl, vectorAcc3_of_exec fun _ _ _ _ _ => rfl⟩

end Sys2Proof.Proofs.VectorIntegers
end
